-- ==== Sys2Proof/Word.lean ====
section
/-! DEFINITION. The word types of the ZG-9400 (R4, R13, R42) and their names. -/
namespace Sys2Proof

/-- A byte of memory. -/
abbrev Byte := BitVec 8
/-- A 32-bit register lane or scalar register (R42). -/
abbrev W32 := BitVec 32
/-- A 64-bit value: an even-odd pair, a PC, a virtual address (R12, R42). -/
abbrev W64 := BitVec 64
/-- One bit per lane: a lane mask or a predicate (R17). -/
abbrev Mask := BitVec 64
/-- The 96-bit instruction word (R12). -/
abbrev IWord := BitVec 96

/-- The field `x[hi:lo]`, both ends included (R4). -/
def bits {w : Nat} (x : BitVec w) (hi lo : Nat) : BitVec (hi - lo + 1) := x.extractLsb hi lo

/-- Bit `i` of `x` as a truth value. -/
def bitAt {w : Nat} (x : BitVec w) (i : Nat) : Bool := x.getLsbD i

/-- A one-bit field from a truth value. -/
def bit1 (b : Bool) : BitVec 1 := if b then 1#1 else 0#1

/-- The mask with the single lane `l`. -/
def laneBit (l : Nat) : Mask := 1#64 <<< l

/-- The low lanes `0 .. n-1` as a mask. -/
def lowMask (n : Nat) : Mask := BitVec.ofNat 64 (2 ^ n - 1)

/-- Lanes of a mask in ascending order (R9). -/
def lanesOf (m : Mask) : List Nat := (List.range 64).filter (fun l => m.getLsbD l)

/-- The mask that holds the lanes of a list. -/
def maskOf (ls : List Nat) : Mask := ls.foldl (fun m l => m ||| laneBit l) 0#64

end Sys2Proof
end

