-- ==== Sys2Proof/Config.lean ====
section
/-! DEFINITION. What an implementation fixes, and the free values: constants without a body, of which no value can be
proved. Each is named in the assumption log. -/
namespace Sys2Proof.Config

/-- The member taken of an enumerated set at the n-th choice ("unpredictable among", R6). Log 4. -/
opaque freeNat : Nat → Nat

/-- A value that nothing constrains, at the n-th use. Log 4. -/
opaque freeWord : Nat → BitVec 64

/-- Which value within its bound an approximate function returns: a fixed function of the input bits (R96). Log 5. -/
opaque approxChoice : Nat → BitVec 32 → Nat

/-- Signatures and derived keys of the security block (R421, R425): named by the spec, not given by it. Log 6. -/
opaque sign : Nat → Nat → Nat

/-- SHA-384 digest (R421, R424), by the bytes' number; the standard is outside the spec. Log 6. -/
opaque sha384 : Nat → Nat

/-- The keys of an ECDHE exchange (R421). Log 6. -/
opaque ecdhe : Nat → Nat → Nat

/-- The device secret held in fuses (R425). Log 6. -/
opaque deviceSecret : Nat

/-- The fused minimum security version before the first bring-up (R424). Log 6. -/
opaque fusedMinimum : Nat

/-- How far a core's or a fill path's reading of the package clock lies from it, of at most 16 (R17). Log 11. -/
opaque clkSkew : Nat → Nat

/-- Which of the values before and after an outstanding result a read of a scalar register returns (R70, R142), by the
count of choices, the clock, the agent, the PC and the register. Log 4. -/
opaque freeSeen : Nat → Nat → Nat → Nat → Nat → Nat

end Sys2Proof.Config
end

