-- ==== Sys2Proof/Syntax.lean ====
section
/-! DEFINITION. The instructions of Genith 1 and the device's own steps: one constructor for every row of the
opcode table. An instruction carries its common header (R13) and the fields of its format (R21-R26); a device event
carries the plain data that names where it happens. -/
set_option Elab.async false
namespace Sys2Proof

/-- Register classes of an operand field (R16). -/
inductive Cls | vec | scl | spec | eng
  deriving DecidableEq, Repr

/-- Element types (R28). -/
inductive Ty | s32 | n32 | s64 | n64 | s16x2 | n16x2 | s8x4 | n8x4 | f32 | f64 | f16x2 | bf16x2 | b32 | b64
  deriving DecidableEq, Repr

/-- Rounding modes (R29). -/
inductive Rnd | rne | rtz | rup | rdn | rna | stoch | dyn
  deriving DecidableEq, Repr

/-- Access sizes of the M format (R23). -/
inductive Sz | b | h | w | d | q | o
  deriving DecidableEq, Repr

/-- Memory orders (R23). -/
inductive Order | rlx | acq | rel | acqrel
  deriving DecidableEq, Repr

/-- Scopes (R23, R286). -/
inductive Scope | grp | core | clu | pkg | sys
  deriving DecidableEq, Repr

/-- Cache policies (R23, R152). -/
inductive Policy | dflt | stream | nostore
  deriving DecidableEq, Repr

/-- The common header of every word (R13). -/
structure Hdr where
  gneg : Bool
  gpred : BitVec 4
  stall : BitVec 3
  yield : Bool
  pair : Bool
  lra : Bool
  lrb : Bool
  lrc : Bool
  deriving DecidableEq, Repr

/-- A source field: class, index, permutation code (R16, R19). -/
structure Src where
  cls : Cls
  idx : BitVec 8
  perm : BitVec 4
  deriving DecidableEq, Repr

/-- The destination field: class and index (R16). -/
structure Dst where
  cls : Cls
  idx : BitVec 8
  deriving DecidableEq, Repr

/-- N format (R21). -/
structure NForm where
  d : Dst
  a : Src
  b : Src
  c : Src
  ty : Ty
  rnd : Rnd
  sat : Bool
  aux : BitVec 6
  op : BitVec 5
  deriving DecidableEq, Repr

/-- I format (R22). -/
structure IForm where
  d : Dst
  a : Src
  imm : W32
  ty : Ty
  sat : Bool
  aux : BitVec 6
  op : BitVec 5
  deriving DecidableEq, Repr

/-- M format (R23). -/
structure MForm where
  d : Dst
  a : Src
  b : Src
  off : BitVec 20
  size : Sz
  scale : BitVec 2
  order : Order
  scope : Scope
  policy : Policy
  sub : BitVec 3
  deriving DecidableEq, Repr

/-- B format (R24). -/
structure BForm where
  d : Dst
  a : Src
  tgt : BitVec 23
  rcv : BitVec 23
  hint : BitVec 2
  mbz : Bool
  deriving DecidableEq, Repr

/-- E format (R25). -/
structure EForm where
  d : Dst
  a : Src
  b : Src
  c : Src
  chan : BitVec 5
  flags : BitVec 8
  sub : BitVec 8
  deriving DecidableEq, Repr

/-- K format (R26). -/
structure KForm where
  d : Dst
  a : Src
  b : Src
  c : Src
  afmt : BitVec 5
  bfmt : BitVec 5
  kc : BitVec 2
  hold : Bool
  zacc : Bool
  bkind : BitVec 2
  sub : BitVec 5
  deriving DecidableEq, Repr

/-- The two instruction streams (R30). -/
inductive Stream | vector | keystone
  deriving DecidableEq, Repr

/-- An agent that issues instructions: a fragment (group key, split-table entry), or a Keystone context
(cluster x 4 + context). A group key is task x 16 + sr.grp. -/
inductive Agent
  | frag (grp entry : Nat)
  | ks (ctx : Nat)
  deriving DecidableEq, Repr

/-- Where a control or MMIO register lives: a package register by number (R229), a die's register, or a register of
the MMIO window by offset from its base (R337). -/
inductive RegLoc
  | ctl (die num : Nat)
  | mmio (off : Nat)
  deriving DecidableEq, Repr

/-- What an Ashlar peer asks of this device (R408, R409, R411). -/
inductive PeerOp
  | read (bytes : Nat)
  | readShared
  | readExclusive
  | write (data : List Byte)
  | atomicAdd (bytes : Nat) (v : W64)
  | publish (v : W64)
  deriving DecidableEq, Repr

/-- An Ashlar request: source device, tag, destination device, physical offset, operation (R408, R409). -/
structure PeerReq where
  src : Nat
  tag : Nat
  dst : Nat
  pa : Nat
  op : PeerOp
  deriving DecidableEq, Repr

/-- A CXL.mem request of a host to the HDM range or BAR 0 (R417). -/
inductive HostReq
  | read (pa bytes : Nat)
  | readShared (pa : Nat)
  | readExclusive (pa : Nat)
  | write (pa : Nat) (data : List Byte)
  | bar0Write (off : Nat) (v : W64)
  | bar0Read (off : Nat)
  deriving DecidableEq, Repr

/-- A unit that keeps an error count (R430). -/
inductive UnitId
  | slice (i : Nat)
  | core (i : Nat)
  | link (i : Nat)
  | channel (i : Nat)
  deriving DecidableEq, Repr

/-- What the environment reports to bring-up (R423, R424): which steps succeed and which units retire. -/
structure BringUpReport where
  railsOk : Bool
  ecdsaOk : Bool
  lmsOk : Bool
  imageVersion : Nat
  securityVersion : Nat
  imageDigest : Nat
  trainOk : Bool
  retiredSlices : List Nat
  isolatedCores : List Nat
  portsUp : List Nat
  failedLinks : List Nat
  ashlarId : Nat
  routing : List (Nat × List Nat)
  deriving DecidableEq, Repr

/-- The instructions and device steps, one constructor per row of the opcode table (R31). -/
inductive Instr
  /-- Event (R276): Each clock a partition selects and issues up to one instruction per slot. -/
  | partitionIssueSelection (core part : Nat)
  /-- Event (R276): A candidate ready 512 clocks without issuing is promoted. -/
  | candidatePromotion (core part : Nat) (slotB : Bool)
  /-- Event (R15): The stall hint's hold count expires and the fragment becomes selectable. -/
  | stallHoldEnd (a : Agent)
  /-- Event (R141): A fixed-latency result is written and its interlock ends. -/
  | fixedLatencyWriteback (a : Agent)
  /-- Event (R142): A variable-latency load or atomic result returns and the LD count falls. -/
  | loadReply (id : Nat)
  /-- Event (R156): A home acknowledges a store, atomic or reduction and the ST count falls. -/
  | storeAcknowledge (id : Nat)
  /-- Event (R263): A DRAINING task whose counters, binding, write-back and banks are settled becomes DONE. -/
  | taskDone (task : Nat)
  /-- Event (R252): A write to a queue's TAIL grain wakes the queue processor to read entries. -/
  | queueTailWake (die queue : Nat)
  /-- Event (R255): The queue processor takes a launch record, validates and distributes it. -/
  | launchRecord (die queue : Nat)
  /-- Event (R254): The queue processor evaluates a wait entry, registering a watch while it fails. -/
  | semaphoreWait (die queue : Nat)
  /-- Event (R254): The queue processor performs a signal entry after earlier launches complete. -/
  | semaphoreSignal (die queue : Nat)
  /-- Event (R260): A dispatcher offers a task and a core admits it, taking all resources at once. -/
  | taskAdmission (quad : Nat)
  /-- Event (R259): A passed-over task's count reaches 1,000,000 and it is offered alone. -/
  | dispatchStarvation (quad : Nat)
  /-- Event (R259): An idle dispatcher takes a task from a sibling of the same die. -/
  | dispatcherSteal (quad : Nat)
  /-- Event (R266): Once LD and TR drain, the group's frame is written and its resources freed. -/
  | parkFrameWrite (grp : Nat)
  /-- Event (R266): A parked group returns to a partition with room and resumes. -/
  | parkedGroupReturn (core : Nat)
  /-- Event (R271): A periodic or idle-triggered review computes the core's active set. -/
  | footprintReview (core : Nat)
  /-- Event (R269): After 2,048 memory instructions the measured lease is set and the filter emptied. -/
  | measuredLeaseWindow (grp : Nat)
  /-- Event (R267): A write of FPGATE sets every core's F to FDEF. -/
  | fpgateWrite (v : W32)
  /-- Event (R294): A core's ct advances by 1 every 2^ADV clocks. -/
  | logicalTimeTick (core : Nat)
  /-- Event (R295): A write of TSLEASE changes the tick rate and later lease lengths. -/
  | tsleaseWrite (v : W32)
  /-- Event (R296): A read, write or atomic is served at its home slice with timestamps. -/
  | homeAccess (id : Nat)
  /-- Event (R330): Every 2^20 store clocks the frequency counts of a slice halve. -/
  | frequencyAgeHalving (slice : Nat)
  /-- Event (R166): A line lease expires after LLIM clocks and the line returns to its home. -/
  | lineLeaseExpiry (grp line : Nat)
  /-- Event (R167): A watched waiter leaves in registration order after a grain write. -/
  | watchWake (slice : Nat)
  /-- Event (R167): A wait.addr returns cause 3 after WTO x 256 clocks. -/
  | waitAddrTimeout (id : Nat)
  /-- Event (R138): A sleeping fragment or context becomes ready again. -/
  | sleepExpiry (a : Agent)
  /-- Event (R236): A waiting sys.idle ends on a queue write or its limit. -/
  | sysIdleWake (a : Agent)
  /-- Event (R349): A fault record set is written to the die's fault queue once it fits. -/
  | faultSetWrite (die : Nat)
  /-- Event (R355): PREQ mode 0 requests pre-emption of a launch. -/
  | preqPreemptLaunch (die : Nat) (v : W64)
  /-- Event (R355): PREQ mode 1 requests pre-emption of every task on a core. -/
  | preqPreemptCore (die : Nat) (v : W64)
  /-- Event (R355): PREQ mode 2 resumes a pre-empted launch. -/
  | preqResumeLaunch (die : Nat) (v : W64)
  /-- Event (R355): PREQ mode 3 resumes tasks held by mode 1 on a core. -/
  | preqResumeCore (die : Nat) (v : W64)
  /-- Event (R356): A task runs its saved or restartable pre-emption sequence once drained. -/
  | preemptionSequence (task : Nat)
  /-- Event (R237): The pre-emption budget timer expires, forcing MC to 0. -/
  | maskBudgetExpiry (task : Nat)
  /-- Event (R342): A saved task returns to its core, slot and context and is restored. -/
  | savedTaskReturn (task : Nat)
  /-- Event (R180): An engine command is accepted into its context queue and numbered. -/
  | engineCommandAccept (id : Nat)
  /-- Event (R183): A Mortar unit executes a 4 KiB chunk of a command. -/
  | copyChunkExecute (slice : Nat)
  /-- Event (R338): A unit idle for 2 store clocks takes the last chunk of a busy unit. -/
  | chunkSteal (slice : Nat)
  /-- Event (R189): A remote home acknowledges a cp.x write as durable. -/
  | remoteChunkAcknowledge (slice : Nat)
  /-- Event (R201): The Orris engine executes the next KV command in acceptance order. -/
  | kvCommandExecute (task : Nat)
  /-- Event (R388): A refetch brings every absent line of a page into its home. -/
  | kvPageRefetch (tree page : Nat)
  /-- Event (R211): A matrix command is validated and started by the engine. -/
  | matrixCommandStart (ctx : Nat)
  /-- Event (R215): A started matrix command finishes and completes on tc16. -/
  | matrixCommandComplete (ctx : Nat)
  /-- Event (R222): A v.accrd or v.accwr takes effect and the TR count falls. -/
  | accumulatorAccessComplete (id : Nat)
  /-- Event (R207): A context's binding is released after task exit and tc16 completion. -/
  | keystoneBindingRelease (ctx : Nat)
  /-- Event (R318): A switching bank's quiesce ends and it takes its new role. -/
  | bankSwitchPoint (core bank : Nat)
  /-- Event (R331): Writing word 0 with V=1 to an invalid entry requests an install. -/
  | contractInstall (entry : Nat) (v : W64)
  /-- Event (R331): Writing word 2 or 3 of a valid idle entry requests a change. -/
  | contractChange (entry word : Nat) (v : W64)
  /-- Event (R331): Writing word 0 with V=0 and unchanged BASE requests removal. -/
  | contractRemoval (entry : Nat) (v : W64)
  /-- Event (R333): One line of a range in transition moves to its new arrangement. -/
  | contractLineMove (entry line : Nat)
  /-- Event (R376): Writing EN=1 to a disabled tree descriptor checks and starts an enable. -/
  | treeEnable (tree : Nat) (v : W64)
  /-- Event (R376): The engine finishes writing an empty tree and sets EN. -/
  | treeEnableComplete (tree : Nat)
  /-- Event (R376): Writing EN=0 starts disabling a tree. -/
  | treeDisable (tree : Nat) (v : W64)
  /-- Event (R376): Accepted commands finish, BUSY clears and EN becomes 0. -/
  | treeDisableComplete (tree : Nat)
  /-- Event (R419): A write of PUBREQ starts a code publication. -/
  | pubreqWrite (v : W64)
  /-- Event (R420): Sectors are published, kt raised everywhere and BUSY cleared. -/
  | publicationComplete
  /-- Event (R368): The sweeper visits a frame, clearing A or queueing it as cold. -/
  | sweeperVisit
  /-- Event (R337): A traffic window starts and per-class injected counts reset. -/
  | trafficWindowStart (die cls : Nat)
  /-- Event (R233): A write to a register without behaviour of its own. -/
  | controlRegisterWrite (r : RegLoc) (v : W64)
  /-- Event (R428): A segment idle for 64 store clocks decides provisionally to gate. -/
  | ringGateDecision (seg : Nat)
  /-- Event (R428): The provisional window passes without a wake and the segment gates. -/
  | ringSegmentGate (seg : Nat)
  /-- Event (R428): A gated segment finishes waking after 40 store clocks. -/
  | ringSegmentWake (seg : Nat)
  /-- Event (R403): A recalled holder answers and waiting requests are served. -/
  | recallAnswer (line : Nat) (holder : W32)
  /-- Event (R403): A holder returns its line unasked. -/
  | voluntaryReturn (line : Nat) (holder : W32)
  /-- Event (R406): The recall timer expires and the unit is marked owner-lost and poisoned. -/
  | recallTimerExpiry (line : Nat)
  /-- Event (R408): A peer request arrives and is served at its home or forwarded. -/
  | ashlarRequest (r : PeerReq)
  /-- Event (R409): An acknowledgement returns for a tag and the counter falls. -/
  | ashlarAcknowledgement (src tag : Nat) (refused : Bool)
  /-- Event (R410): A link receiver checks a flit's CRC and sequence and delivers or requests retry. -/
  | ashlarFlitReceive (link seq : Nat) (crcOk : Bool) (payload : List PeerReq)
  /-- Event (R410): A sender resends from the sequence number named by a retry request. -/
  | ashlarRetryRequest (link seq : Nat)
  /-- Event (R431): After 16 failed retries a link retrains at half width or fails. -/
  | linkRetrain (link lanes : Nat)
  /-- Event (R413): A remote request unanswered for 2 ms faults or fails. -/
  | remoteRequestTimeout (id : Nat)
  /-- Event (R417): A host CXL.mem request is served at its home as agent kind 5. -/
  | cxlMemRequest (port : Nat) (r : HostReq)
  /-- Event (R418): A host snoop takes effect at a proxy copy before its response. -/
  | hostSnoop (port line : Nat) (exclusive : Bool)
  /-- Event (R418): The host grants global observation, acknowledging a host-window write. -/
  | globalObservation (id : Nat)
  /-- Event (R422): A CXL flit fails integrity and the link goes down. -/
  | ideIntegrityFailure (port : Nat)
  /-- Event (R422): IDE keys are programmed inside an SPDM session. -/
  | ideKm (port : Nat) (cachemem : Bool) (key : Nat)
  /-- Event (R421): SPDM GET_VERSION request answered over DOE. -/
  | getVersion (port : Nat)
  /-- Event (R421): SPDM GET_CAPABILITIES request answered. -/
  | getCapabilities (port : Nat)
  /-- Event (R421): SPDM NEGOTIATE_ALGORITHMS request answered. -/
  | negotiateAlgorithms (port : Nat)
  /-- Event (R421): SPDM GET_DIGESTS request answered. -/
  | getDigests (port : Nat)
  /-- Event (R425): SPDM GET_CERTIFICATE for slot 0 answered with the DICE chain. -/
  | getCertificate (port slot : Nat)
  /-- Event (R421): SPDM CHALLENGE answered with an alias-key signature. -/
  | challenge (port nonce : Nat)
  /-- Event (R421): SPDM GET_MEASUREMENTS answered with indices 1 to 3. -/
  | getMeasurements (port index nonce : Nat)
  /-- Event (R421): SPDM KEY_EXCHANGE starts a session by ECDHE. -/
  | keyExchange (port share : Nat)
  /-- Event (R421): SPDM FINISH completes session establishment. -/
  | finish (port mac : Nat)
  /-- Event (R421): SPDM HEARTBEAT keeps a session alive. -/
  | heartbeat (port : Nat)
  /-- Event (R421): SPDM END_SESSION ends a session. -/
  | endSession (port : Nat)
  /-- Event (R421): Any other SPDM request receives ERROR UnsupportedRequest. -/
  | unsupportedRequest (port code : Nat)
  /-- Event (R423): Package reset runs bring-up to NOMINAL, degraded or FAILED. -/
  | packageReset (r : BringUpReport)
  /-- Event (R430): A corrected error raises a unit's count and may change health. -/
  | correctedError (u : UnitId)
  /-- Event (R430): An uncorrected error counts 16 and poisons the line. -/
  | uncorrectedError (u : UnitId) (line : Nat)
  /-- Event (R430): Every 2^40 store clocks all error counts halve. -/
  | errorCountHalving
  /-- Event (R427): An island's power or clock changes without changing any value. -/
  | islandPowerChange (island level : Nat)
  /-- Event (R208): Each clock the Keystone issues at most one instruction, taken in round-robin order from its ready contexts. -/
  | keystoneIssue (cluster : Nat)
  /-- `s.add` (R66): Scalar 32-bit add of two registers, N form. -/
  | sAdd (h : Hdr) (f : NForm)
  /-- `s.add` (R66): Scalar 32-bit add of a register and imm32, I form. -/
  | sAddImm (h : Hdr) (f : IForm)
  /-- `s.sub` (R66): Scalar 32-bit subtract, N form. -/
  | sSub (h : Hdr) (f : NForm)
  /-- `s.sub` (R66): Scalar 32-bit subtract of imm32, I form. -/
  | sSubImm (h : Hdr) (f : IForm)
  /-- `s.mul` (R66): Scalar multiply keeping the low 32 bits, N form. -/
  | sMul (h : Hdr) (f : NForm)
  /-- `s.mul` (R66): Scalar multiply by imm32, I form. -/
  | sMulImm (h : Hdr) (f : IForm)
  /-- `s.mulhi` (R66): Scalar multiply keeping the high 32 bits, N form. -/
  | sMulhi (h : Hdr) (f : NForm)
  /-- `s.mulhi` (R66): Scalar high multiply by imm32, I form. -/
  | sMulhiImm (h : Hdr) (f : IForm)
  /-- `s.mad` (R66): Scalar multiply-add a*b+c. -/
  | sMad (h : Hdr) (f : NForm)
  /-- `s.and` (R66): Scalar bitwise and, N form. -/
  | sAnd (h : Hdr) (f : NForm)
  /-- `s.and` (R66): Scalar bitwise and with imm32, I form. -/
  | sAndImm (h : Hdr) (f : IForm)
  /-- `s.or` (R66): Scalar bitwise or, N form. -/
  | sOr (h : Hdr) (f : NForm)
  /-- `s.or` (R66): Scalar bitwise or with imm32, I form. -/
  | sOrImm (h : Hdr) (f : IForm)
  /-- `s.xor` (R66): Scalar bitwise xor, N form. -/
  | sXor (h : Hdr) (f : NForm)
  /-- `s.xor` (R66): Scalar bitwise xor with imm32, I form. -/
  | sXorImm (h : Hdr) (f : IForm)
  /-- `s.shl` (R66): Scalar shift left, N form. -/
  | sShl (h : Hdr) (f : NForm)
  /-- `s.shl` (R66): Scalar shift left by imm32, I form. -/
  | sShlImm (h : Hdr) (f : IForm)
  /-- `s.shr` (R66): Scalar logical shift right, N form. -/
  | sShr (h : Hdr) (f : NForm)
  /-- `s.shr` (R66): Scalar logical shift right by imm32, I form. -/
  | sShrImm (h : Hdr) (f : IForm)
  /-- `s.sar` (R66): Scalar arithmetic shift right, N form. -/
  | sSar (h : Hdr) (f : NForm)
  /-- `s.sar` (R66): Scalar arithmetic shift right by imm32, I form. -/
  | sSarImm (h : Hdr) (f : IForm)
  /-- `s.min` (R66): Scalar minimum under the type, N form. -/
  | sMin (h : Hdr) (f : NForm)
  /-- `s.min` (R66): Scalar minimum with imm32, I form. -/
  | sMinImm (h : Hdr) (f : IForm)
  /-- `s.max` (R66): Scalar maximum under the type, N form. -/
  | sMax (h : Hdr) (f : NForm)
  /-- `s.max` (R66): Scalar maximum with imm32, I form. -/
  | sMaxImm (h : Hdr) (f : IForm)
  /-- `s.cmp` (R69): Scalar compare writing a scalar or a predicate, N form. -/
  | sCmp (h : Hdr) (f : NForm)
  /-- `s.cmp` (R69): Scalar compare with imm32, I form. -/
  | sCmpImm (h : Hdr) (f : IForm)
  /-- `s.sel` (R69): Scalar select of a or b by c. -/
  | sSel (h : Hdr) (f : NForm)
  /-- `s.mov` (R66): Scalar register copy. -/
  | sMov (h : Hdr) (f : NForm)
  /-- `s.li` (R66): Load imm32 into a scalar register. -/
  | sLi (h : Hdr) (f : IForm)
  /-- `s.lih` (R67): Load imm32 into the odd register of a scalar pair. -/
  | sLih (h : Hdr) (f : IForm)
  /-- `s.add64` (R67): Scalar 64-bit pair add, N form. -/
  | sAdd64 (h : Hdr) (f : NForm)
  /-- `s.add64` (R67): Scalar 64-bit pair add of extended imm32, I form. -/
  | sAdd64Imm (h : Hdr) (f : IForm)
  /-- `s.sub64` (R67): Scalar 64-bit pair subtract, N form. -/
  | sSub64 (h : Hdr) (f : NForm)
  /-- `s.sub64` (R67): Scalar 64-bit pair subtract of extended imm32, I form. -/
  | sSub64Imm (h : Hdr) (f : IForm)
  /-- `s.mul64` (R67): Scalar 64-bit pair multiply, N form. -/
  | sMul64 (h : Hdr) (f : NForm)
  /-- `s.mul64` (R67): Scalar 64-bit pair multiply by extended imm32, I form. -/
  | sMul64Imm (h : Hdr) (f : IForm)
  /-- `s.popc` (R66): Scalar population count. -/
  | sPopc (h : Hdr) (f : NForm)
  /-- `s.clz` (R66): Scalar count of leading zeros. -/
  | sClz (h : Hdr) (f : NForm)
  /-- `s.bfe` (R77): Scalar bit-field extract, N form. -/
  | sBfe (h : Hdr) (f : NForm)
  /-- `s.bfe` (R77): Scalar bit-field extract with an immediate descriptor, I form. -/
  | sBfeImm (h : Hdr) (f : IForm)
  /-- `s.bfi` (R77): Scalar bit-field insert. -/
  | sBfi (h : Hdr) (f : NForm)
  /-- `s.divs` (R68): Scalar signed divide giving quotient or remainder, N form. -/
  | sDivs (h : Hdr) (f : NForm)
  /-- `s.divs` (R68): Scalar signed divide by imm32, I form. -/
  | sDivsImm (h : Hdr) (f : IForm)
  /-- `s.divn` (R68): Scalar unsigned divide giving quotient or remainder, N form. -/
  | sDivn (h : Hdr) (f : NForm)
  /-- `s.divn` (R68): Scalar unsigned divide by imm32, I form. -/
  | sDivnImm (h : Hdr) (f : IForm)
  /-- `s.ld` (R70): Scalar load from global, scratch or window memory. -/
  | sLd (h : Hdr) (f : MForm)
  /-- `s.st` (R70): Scalar store to global, scratch or window memory. -/
  | sSt (h : Hdr) (f : MForm)
  /-- `s.rdsr` (R71): Copy a special register or predicate mask into scalars. -/
  | sRdsr (h : Hdr) (f : NForm)
  /-- `s.vrd` (R72): Read one lane of a vector register into a scalar. -/
  | sVrd (h : Hdr) (f : NForm)
  /-- `s.vwr` (R72): Write a scalar into one lane of a vector register. -/
  | sVwr (h : Hdr) (f : NForm)
  /-- `v.add` (R75): Vector integer add, N form. -/
  | vAdd (h : Hdr) (f : NForm)
  /-- `v.add` (R75): Vector integer add of imm32, I form. -/
  | vAddImm (h : Hdr) (f : IForm)
  /-- `v.sub` (R75): Vector integer subtract, N form. -/
  | vSub (h : Hdr) (f : NForm)
  /-- `v.sub` (R75): Vector integer subtract of imm32, I form. -/
  | vSubImm (h : Hdr) (f : IForm)
  /-- `v.addx` (R78): Vector add with carry through a predicate. -/
  | vAddx (h : Hdr) (f : NForm)
  /-- `v.subx` (R78): Vector subtract with borrow through a predicate. -/
  | vSubx (h : Hdr) (f : NForm)
  /-- `v.mul` (R75): Vector integer multiply, N form. -/
  | vMul (h : Hdr) (f : NForm)
  /-- `v.mul` (R75): Vector integer multiply by imm32, I form. -/
  | vMulImm (h : Hdr) (f : IForm)
  /-- `v.mulhi` (R75): Vector high multiply, N form. -/
  | vMulhi (h : Hdr) (f : NForm)
  /-- `v.mulhi` (R75): Vector high multiply by imm32, I form. -/
  | vMulhiImm (h : Hdr) (f : IForm)
  /-- `v.mulw` (R75): Vector widening multiply into a pair, N form. -/
  | vMulw (h : Hdr) (f : NForm)
  /-- `v.mulw` (R75): Vector widening multiply by imm32, I form. -/
  | vMulwImm (h : Hdr) (f : IForm)
  /-- `v.mad` (R75): Vector integer multiply-add. -/
  | vMad (h : Hdr) (f : NForm)
  /-- `v.abs` (R75): Vector absolute value. -/
  | vAbs (h : Hdr) (f : NForm)
  /-- `v.neg` (R75): Vector negate. -/
  | vNeg (h : Hdr) (f : NForm)
  /-- `v.min` (R75): Vector minimum, N form. -/
  | vMin (h : Hdr) (f : NForm)
  /-- `v.min` (R75): Vector minimum with imm32, I form. -/
  | vMinImm (h : Hdr) (f : IForm)
  /-- `v.max` (R75): Vector maximum, N form. -/
  | vMax (h : Hdr) (f : NForm)
  /-- `v.max` (R75): Vector maximum with imm32, I form. -/
  | vMaxImm (h : Hdr) (f : IForm)
  /-- `v.and` (R75): Vector bitwise and, N form. -/
  | vAnd (h : Hdr) (f : NForm)
  /-- `v.and` (R75): Vector bitwise and with imm32, I form. -/
  | vAndImm (h : Hdr) (f : IForm)
  /-- `v.or` (R75): Vector bitwise or, N form. -/
  | vOr (h : Hdr) (f : NForm)
  /-- `v.or` (R75): Vector bitwise or with imm32, I form. -/
  | vOrImm (h : Hdr) (f : IForm)
  /-- `v.xor` (R75): Vector bitwise xor, N form. -/
  | vXor (h : Hdr) (f : NForm)
  /-- `v.xor` (R75): Vector bitwise xor with imm32, I form. -/
  | vXorImm (h : Hdr) (f : IForm)
  /-- `v.andn` (R75): Vector and-not, N form. -/
  | vAndn (h : Hdr) (f : NForm)
  /-- `v.andn` (R75): Vector and-not with imm32, I form. -/
  | vAndnImm (h : Hdr) (f : IForm)
  /-- `v.not` (R75): Vector bitwise not. -/
  | vNot (h : Hdr) (f : NForm)
  /-- `v.shl` (R76): Vector shift left, N form. -/
  | vShl (h : Hdr) (f : NForm)
  /-- `v.shl` (R76): Vector shift left by imm32, I form. -/
  | vShlImm (h : Hdr) (f : IForm)
  /-- `v.shr` (R76): Vector logical shift right, N form. -/
  | vShr (h : Hdr) (f : NForm)
  /-- `v.shr` (R76): Vector logical shift right by imm32, I form. -/
  | vShrImm (h : Hdr) (f : IForm)
  /-- `v.sar` (R76): Vector arithmetic shift right, N form. -/
  | vSar (h : Hdr) (f : NForm)
  /-- `v.sar` (R76): Vector arithmetic shift right by imm32, I form. -/
  | vSarImm (h : Hdr) (f : IForm)
  /-- `v.rot` (R76): Vector rotate, N form. -/
  | vRot (h : Hdr) (f : NForm)
  /-- `v.rot` (R76): Vector rotate by imm32, I form. -/
  | vRotImm (h : Hdr) (f : IForm)
  /-- `v.bfe` (R77): Vector bit-field extract, N form. -/
  | vBfe (h : Hdr) (f : NForm)
  /-- `v.bfe` (R77): Vector bit-field extract with immediate descriptor, I form. -/
  | vBfeImm (h : Hdr) (f : IForm)
  /-- `v.bfi` (R77): Vector bit-field insert. -/
  | vBfi (h : Hdr) (f : NForm)
  /-- `v.popc` (R75): Vector population count. -/
  | vPopc (h : Hdr) (f : NForm)
  /-- `v.clz` (R75): Vector count of leading zeros. -/
  | vClz (h : Hdr) (f : NForm)
  /-- `v.ctz` (R75): Vector count of trailing zeros. -/
  | vCtz (h : Hdr) (f : NForm)
  /-- `v.brev` (R75): Vector bit reversal. -/
  | vBrev (h : Hdr) (f : NForm)
  /-- `v.mov` (R75): Vector register move, lanes permuted as given. -/
  | vMov (h : Hdr) (f : NForm)
  /-- `v.li` (R75): Load imm32 into every participating lane. -/
  | vLi (h : Hdr) (f : IForm)
  /-- `v.sat` (R75): Vector clamp between two bounds. -/
  | vSat (h : Hdr) (f : NForm)
  /-- `v.dot4` (R79): Four-way 8-bit dot product with accumulate. -/
  | vDot4 (h : Hdr) (f : NForm)
  /-- `v.dot2` (R79): Two-way 16-bit dot product with accumulate. -/
  | vDot2 (h : Hdr) (f : NForm)
  /-- `v.sad` (R79): Sum of absolute differences with accumulate. -/
  | vSad (h : Hdr) (f : NForm)
  /-- `v.div` (R80): Vector integer quotient, N form. -/
  | vDiv (h : Hdr) (f : NForm)
  /-- `v.div` (R80): Vector integer quotient by imm32, I form. -/
  | vDivImm (h : Hdr) (f : IForm)
  /-- `v.rem` (R80): Vector integer remainder, N form. -/
  | vRem (h : Hdr) (f : NForm)
  /-- `v.rem` (R80): Vector integer remainder by imm32, I form. -/
  | vRemImm (h : Hdr) (f : IForm)
  /-- `v.cmp` (R82): Vector integer compare into a predicate, N form. -/
  | vCmp (h : Hdr) (f : NForm)
  /-- `v.cmp` (R82): Vector integer compare with imm32, I form. -/
  | vCmpImm (h : Hdr) (f : IForm)
  /-- `v.fcmp` (R83): Vector floating compare into a predicate, N form. -/
  | vFcmp (h : Hdr) (f : NForm)
  /-- `v.fcmp` (R83): Vector floating compare with imm32, I form. -/
  | vFcmpImm (h : Hdr) (f : IForm)
  /-- `p.and` (R84): Predicate and with optional inversions. -/
  | pAnd (h : Hdr) (f : NForm)
  /-- `p.or` (R84): Predicate or with optional inversions. -/
  | pOr (h : Hdr) (f : NForm)
  /-- `p.xor` (R84): Predicate xor with optional inversions. -/
  | pXor (h : Hdr) (f : NForm)
  /-- `p.not` (R84): Predicate not. -/
  | pNot (h : Hdr) (f : NForm)
  /-- `p.mov` (R84): Predicate move. -/
  | pMov (h : Hdr) (f : NForm)
  /-- `v.sel` (R85): Vector select by predicate. -/
  | vSel (h : Hdr) (f : NForm)
  /-- `p.tovec` (R85): Predicate to vector 0/1 or mask. -/
  | pTovec (h : Hdr) (f : NForm)
  /-- `p.fromvec` (R85): Vector nonzero test into a predicate. -/
  | pFromvec (h : Hdr) (f : NForm)
  /-- `p.popc` (R86): Count of guarded active lanes where a predicate is true. -/
  | pPopc (h : Hdr) (f : NForm)
  /-- `p.first` (R86): Lowest guarded active lane where a predicate is true. -/
  | pFirst (h : Hdr) (f : NForm)
  /-- `v.fadd` (R94): Vector float add, N form. -/
  | vFadd (h : Hdr) (f : NForm)
  /-- `v.fadd` (R94): Vector float add of imm32, I form. -/
  | vFaddImm (h : Hdr) (f : IForm)
  /-- `v.fsub` (R94): Vector float subtract, N form. -/
  | vFsub (h : Hdr) (f : NForm)
  /-- `v.fsub` (R94): Vector float subtract of imm32, I form. -/
  | vFsubImm (h : Hdr) (f : IForm)
  /-- `v.fmul` (R94): Vector float multiply, N form. -/
  | vFmul (h : Hdr) (f : NForm)
  /-- `v.fmul` (R94): Vector float multiply by imm32, I form. -/
  | vFmulImm (h : Hdr) (f : IForm)
  /-- `v.fma` (R94): Vector fused multiply-add. -/
  | vFma (h : Hdr) (f : NForm)
  /-- `v.fmin` (R95): Vector float minimum, N form. -/
  | vFmin (h : Hdr) (f : NForm)
  /-- `v.fmin` (R95): Vector float minimum with imm32, I form. -/
  | vFminImm (h : Hdr) (f : IForm)
  /-- `v.fmax` (R95): Vector float maximum, N form. -/
  | vFmax (h : Hdr) (f : NForm)
  /-- `v.fmax` (R95): Vector float maximum with imm32, I form. -/
  | vFmaxImm (h : Hdr) (f : IForm)
  /-- `v.frcp` (R96): Vector reciprocal approximation. -/
  | vFrcp (h : Hdr) (f : NForm)
  /-- `v.frsq` (R96): Vector reciprocal square root approximation. -/
  | vFrsq (h : Hdr) (f : NForm)
  /-- `v.fsqrt` (R94): Vector correctly rounded square root. -/
  | vFsqrt (h : Hdr) (f : NForm)
  /-- `v.fdiv` (R94): Vector correctly rounded divide, N form. -/
  | vFdiv (h : Hdr) (f : NForm)
  /-- `v.fdiv` (R94): Vector correctly rounded divide by imm32, I form. -/
  | vFdivImm (h : Hdr) (f : IForm)
  /-- `v.fexp2` (R96): Vector base-2 exponential. -/
  | vFexp2 (h : Hdr) (f : NForm)
  /-- `v.flog2` (R96): Vector base-2 logarithm. -/
  | vFlog2 (h : Hdr) (f : NForm)
  /-- `v.fsin` (R96): Vector sine of a half-turn argument. -/
  | vFsin (h : Hdr) (f : NForm)
  /-- `v.fcos` (R96): Vector cosine of a half-turn argument. -/
  | vFcos (h : Hdr) (f : NForm)
  /-- `v.ffloor` (R97): Vector round towards minus infinity to an integral value. -/
  | vFfloor (h : Hdr) (f : NForm)
  /-- `v.fround` (R97): Vector round to an integral value under the round field. -/
  | vFround (h : Hdr) (f : NForm)
  /-- `v.fclass` (R98): Vector float class mask. -/
  | vFclass (h : Hdr) (f : NForm)
  /-- `v.fscale` (R94): Vector multiply by a power of two, N form. -/
  | vFscale (h : Hdr) (f : NForm)
  /-- `v.fscale` (R94): Vector multiply by a power of two from imm32, I form. -/
  | vFscaleImm (h : Hdr) (f : IForm)
  /-- `v.fgetexp` (R99): Vector unbiased exponent as a float. -/
  | vFgetexp (h : Hdr) (f : NForm)
  /-- `v.fdot2` (R94): Packed 16-bit float dot product into f32 with one rounding. -/
  | vFdot2 (h : Hdr) (f : NForm)
  /-- `v.cvt` (R101): Element-wise format conversion. -/
  | vCvt (h : Hdr) (f : NForm)
  /-- `v.pack` (R102): Convert two wide values into a slot pair of the destination. -/
  | vPack (h : Hdr) (f : NForm)
  /-- `v.unpack` (R103): Widen elements from a chosen slot position. -/
  | vUnpack (h : Hdr) (f : NForm)
  /-- `v.scl` (R104): Compute a block scale from an absolute maximum. -/
  | vScl (h : Hdr) (f : NForm)
  /-- `v.qnt` (R105): Quantise a value against a scale. -/
  | vQnt (h : Hdr) (f : NForm)
  /-- `v.dqnt` (R106): Dequantise one element against a scale. -/
  | vDqnt (h : Hdr) (f : NForm)
  /-- `v.rng` (R107): Set the stochastic generator seed and counter. -/
  | vRngSeed (h : Hdr) (f : NForm)
  /-- `v.rng` (R107): Read the stochastic generator seed. -/
  | vRngGets (h : Hdr) (f : NForm)
  /-- `v.rng` (R107): Read the stochastic generator counter. -/
  | vRngGetc (h : Hdr) (f : NForm)
  /-- `v.rng` (R107): Draw per-lane random words and advance the counter. -/
  | vRngDraw (h : Hdr) (f : NForm)
  /-- `v.shfl` (R111): Read a lane chosen per destination lane within the membership set. -/
  | vShfl (h : Hdr) (f : NForm)
  /-- `v.bcast` (R112): Broadcast one lane's value to participating lanes. -/
  | vBcast (h : Hdr) (f : NForm)
  /-- `v.vote` (R114): Predicate true when any participating lane is true. -/
  | vVoteAny (h : Hdr) (f : NForm)
  /-- `v.vote` (R114): Predicate true when every participating lane is true. -/
  | vVoteAll (h : Hdr) (f : NForm)
  /-- `v.vote` (R114): Predicate true when all participating lanes hold the same value. -/
  | vVoteUni (h : Hdr) (f : NForm)
  /-- `v.vote` (R114): Scalar pair mask of participating lanes where a predicate is true. -/
  | vVoteBallot (h : Hdr) (f : NForm)
  /-- `v.match` (R115): Per-lane mask of participating lanes with equal value. -/
  | vMatch (h : Hdr) (f : NForm)
  /-- `v.scan` (R116): Running combination over participating lanes. -/
  | vScan (h : Hdr) (f : NForm)
  /-- `v.red` (R117): Fixed-tree reduction over participating lanes. -/
  | vRed (h : Hdr) (f : NForm)
  /-- `v.compact` (R113): Pack lanes selected by a predicate. -/
  | vCompact (h : Hdr) (f : NForm)
  /-- `v.expand` (R113): Unpack values into lanes selected by a predicate. -/
  | vExpand (h : Hdr) (f : NForm)
  /-- `v.rank` (R115): Count mask bits below, above or in total. -/
  | vRank (h : Hdr) (f : NForm)
  /-- `v.crc` (R119): Advance a CRC-32C over bytes of each lane. -/
  | vCrc (h : Hdr) (f : NForm)
  /-- `v.mix` (R120): Apply mix64 to the xor of two pairs. -/
  | vMix (h : Hdr) (f : NForm)
  /-- `v.hmul` (R121): Multiply-shift hash, N form. -/
  | vHmul (h : Hdr) (f : NForm)
  /-- `v.hmul` (R121): Multiply-shift hash by imm32, I form. -/
  | vHmulImm (h : Hdr) (f : IForm)
  /-- `v.part` (R122): Map a hash onto a partition by multiply-high. -/
  | vPart (h : Hdr) (f : NForm)
  /-- `v.bkt` (R123): Count scalar splitters at or below each value. -/
  | vBkt (h : Hdr) (f : NForm)
  /-- `v.sld` (R124): Length-bounded string chunk load per lane. -/
  | vSld (h : Hdr) (f : MForm)
  /-- `v.scmp` (R125): Compare two byte chunks. -/
  | vScmp (h : Hdr) (f : NForm)
  /-- `v.bfind` (R126): Find a byte value in a lane, N form. -/
  | vBfind (h : Hdr) (f : NForm)
  /-- `v.bfind` (R126): Find an immediate byte value in a lane, I form. -/
  | vBfindImm (h : Hdr) (f : IForm)
  /-- `v.bmask` (R127): Mask of bytes in a character class. -/
  | vBmask (h : Hdr) (f : NForm)
  /-- `v.ulen` (R128): UTF-8 character count or sequence length. -/
  | vUlen (h : Hdr) (f : NForm)
  /-- `v.fold` (R129): ASCII case folding. -/
  | vFold (h : Hdr) (f : NForm)
  /-- `bra` (R132): Per-lane conditional branch that may split and open a fuse record. -/
  | bra (h : Hdr) (f : BForm)
  /-- `jmp` (R132): Whole-fragment jump when any lane's guard is true. -/
  | jmp (h : Hdr) (f : BForm)
  /-- `brx` (R132): Indirect branch through a register. -/
  | brx (h : Hdr) (f : BForm)
  /-- `call` (R136): Branch writing the return address into a link. -/
  | call (h : Hdr) (f : BForm)
  /-- `ret` (R136): Indirect branch marked as a return. -/
  | ret (h : Hdr) (f : BForm)
  /-- `join` (R135): Group-wide fuse point merging every fragment. -/
  | join (h : Hdr) (f : BForm)
  /-- `exit` (R137): End guarded lanes, and the group or context when none remain. -/
  | exit (h : Hdr) (f : NForm)
  /-- `yield` (R138): Set the fragment's yield request. -/
  | yield (h : Hdr) (f : NForm)
  /-- `bar` (R139): Barrier arrival followed by a wait. -/
  | bar (h : Hdr) (f : IForm)
  /-- `bar.arv` (R139): Barrier arrival without waiting. -/
  | barArv (h : Hdr) (f : IForm)
  /-- `bar.wt` (R139): Wait for the group's latest barrier phase to complete. -/
  | barWt (h : Hdr) (f : IForm)
  /-- `nop` (R138): Occupy the issue slot only. -/
  | nop (h : Hdr) (f : NForm)
  /-- `trap` (R144): Raise trap instruction with a code. -/
  | trap (h : Hdr) (f : IForm)
  /-- `brk` (R144): Raise breakpoint with a code. -/
  | brk (h : Hdr) (f : IForm)
  /-- `waitcnt` (R143): Wait until every outstanding count is at most its limit. -/
  | waitcnt (h : Hdr) (f : IForm)
  /-- `sleep` (R138): Leave the fragment or context not ready for a bounded time. -/
  | sleep (h : Hdr) (f : IForm)
  /-- `launch` (R145): Place a launch record into a device queue. -/
  | launch (h : Hdr) (f : NForm)
  /-- `lease.fp` (R146): Set the group's declared footprint lease. -/
  | leaseFp (h : Hdr) (f : IForm)
  /-- `v.ld` (R156): Vector load from a scalar base. -/
  | vLd (h : Hdr) (f : MForm)
  /-- `v.st` (R156): Vector store to a scalar base. -/
  | vSt (h : Hdr) (f : MForm)
  /-- `v.ldg` (R156): Vector gather from per-lane addresses. -/
  | vLdg (h : Hdr) (f : MForm)
  /-- `v.stg` (R156): Vector scatter to per-lane addresses. -/
  | vStg (h : Hdr) (f : MForm)
  /-- `v.lds` (R156): Vector scratch load. -/
  | vLds (h : Hdr) (f : MForm)
  /-- `v.sts` (R156): Vector scratch store. -/
  | vSts (h : Hdr) (f : MForm)
  /-- `v.ldsw` (R156): Vector sharing-window load. -/
  | vLdsw (h : Hdr) (f : MForm)
  /-- `v.stsw` (R156): Vector sharing-window store. -/
  | vStsw (h : Hdr) (f : MForm)
  /-- `v.ldc` (R156): One load broadcast to all participating lanes. -/
  | vLdc (h : Hdr) (f : MForm)
  /-- `v.pf` (R157): Prefetch lines without architectural effect. -/
  | vPf (h : Hdr) (f : MForm)
  /-- `v.fifo.push` (R158): Append entries to a FIFO bank, waiting for room. -/
  | vFifoPush (h : Hdr) (f : NForm)
  /-- `v.fifo.pop` (R158): Remove entries from a FIFO bank, waiting for data. -/
  | vFifoPop (h : Hdr) (f : NForm)
  /-- `a.add` (R160): Atomic integer add returning the old value. -/
  | aAdd (h : Hdr) (f : MForm)
  /-- `a.min` (R160): Atomic minimum returning the old value. -/
  | aMin (h : Hdr) (f : MForm)
  /-- `a.max` (R160): Atomic maximum returning the old value. -/
  | aMax (h : Hdr) (f : MForm)
  /-- `a.and` (R160): Atomic and returning the old value. -/
  | aAnd (h : Hdr) (f : MForm)
  /-- `a.or` (R160): Atomic or returning the old value. -/
  | aOr (h : Hdr) (f : MForm)
  /-- `a.xor` (R160): Atomic xor returning the old value. -/
  | aXor (h : Hdr) (f : MForm)
  /-- `a.xchg` (R160): Atomic exchange. -/
  | aXchg (h : Hdr) (f : MForm)
  /-- `a.cas` (R160): Atomic compare and swap. -/
  | aCas (h : Hdr) (f : MForm)
  /-- `a.inc` (R160): Atomic wrapping increment. -/
  | aInc (h : Hdr) (f : MForm)
  /-- `a.fadd` (R160): Atomic float add. -/
  | aFadd (h : Hdr) (f : MForm)
  /-- `a.fmin` (R160): Atomic float minimum. -/
  | aFmin (h : Hdr) (f : MForm)
  /-- `a.fmax` (R160): Atomic float maximum. -/
  | aFmax (h : Hdr) (f : MForm)
  /-- `red.add` (R160): Integer reduction without return value. -/
  | redAdd (h : Hdr) (f : MForm)
  /-- `red.fadd` (R160): Float reduction without return value. -/
  | redFadd (h : Hdr) (f : MForm)
  /-- `red.det` (R163): Fold a deterministic contribution into the partition buffer. -/
  | redDet (h : Hdr) (f : MForm)
  /-- `red.flush` (R164): Send the group's deterministic partials to the staging tables. -/
  | redFlushDrain (h : Hdr) (f : NForm)
  /-- `red.flush` (R164): Add staged partials to memory in key order and return NF. -/
  | redFlushCommit (h : Hdr) (f : NForm)
  /-- `lease.acq` (R166): Acquire a bounded exclusive line lease. -/
  | leaseAcq (h : Hdr) (f : MForm)
  /-- `lease.rel` (R166): Return a leased line and report any break. -/
  | leaseRel (h : Hdr) (f : MForm)
  /-- `wait.addr` (R167): Compare a value and register a watch on its grain. -/
  | waitAddr (h : Hdr) (f : MForm)
  /-- `fence` (R168): Order the fragment's accesses at a scope. -/
  | fence (h : Hdr) (f : MForm)
  /-- `fence.code` (R169): Publish written code and advance code time. -/
  | fenceCode (h : Hdr) (f : MForm)
  /-- `fence.eng` (R170): Order earlier writes before later engine command reads. -/
  | fenceEng (h : Hdr) (f : MForm)
  /-- `bank.cfg` (R171): Switch core bank roles with a role from a register. -/
  | bankCfg (h : Hdr) (f : NForm)
  /-- `bank.cfg` (R171): Switch core bank roles with an immediate role. -/
  | bankCfgImm (h : Hdr) (f : IForm)
  /-- `bank.qry` (R172): Read the roles of the core's banks. -/
  | bankQry (h : Hdr) (f : NForm)
  /-- `share.join` (R173): Join a cluster sharing group and receive a slot. -/
  | shareJoin (h : Hdr) (f : NForm)
  /-- `share.leave` (R173): Leave the sharing group after in-flight window accesses. -/
  | shareLeave (h : Hdr) (f : NForm)
  /-- `sp.map` (R174): Map a scratch range onto a global virtual range. -/
  | spMap (h : Hdr) (f : NForm)
  /-- `sp.unmap` (R175): Remove a scratch mapping, writing back or discarding. -/
  | spUnmap (h : Hdr) (f : NForm)
  /-- `sp.wb` (R175): Write back dirty mapped-scratch chunks. -/
  | spWb (h : Hdr) (f : NForm)
  /-- `sp.inv` (R175): Invalidate mapped-scratch chunks. -/
  | spInv (h : Hdr) (f : NForm)
  /-- `cp` (R182): Copy command. -/
  | cp (h : Hdr) (f : EForm)
  /-- `cp.mc` (R188): Multicast copy command. -/
  | cpMc (h : Hdr) (f : EForm)
  /-- `cp.x` (R189): Copy command to or from a peer or host window. -/
  | cpX (h : Hdr) (f : EForm)
  /-- `cp.fill` (R182): Fill command with a 32-bit pattern. -/
  | cpFill (h : Hdr) (f : EForm)
  /-- `cp.gth` (R182): Gather command from an address list. -/
  | cpGth (h : Hdr) (f : EForm)
  /-- `cp.sct` (R182): Scatter command to an address list. -/
  | cpSct (h : Hdr) (f : EForm)
  /-- `tc.wait` (R191): Wait for a timeline counter and acquire its writes. -/
  | tcWait (h : Hdr) (f : EForm)
  /-- `tc.get` (R192): Read a counter's value or last accepted value. -/
  | tcGet (h : Hdr) (f : EForm)
  /-- `tc.err` (R192): Read and optionally clear a counter's error word and FIRST. -/
  | tcErr (h : Hdr) (f : EForm)
  /-- `ch.wp` (R193): Read a channel's write pointer and acquire its writes. -/
  | chWp (h : Hdr) (f : EForm)
  /-- `ch.rst` (R194): Cancel every incomplete command of a channel. -/
  | chRst (h : Hdr) (f : EForm)
  /-- `ch.sum` (R195): Read a channel's running checksum value. -/
  | chSumGet (h : Hdr) (f : EForm)
  /-- `ch.sum` (R195): Set a channel's running checksum value. -/
  | chSumSet (h : Hdr) (f : EForm)
  /-- `ch.sum` (R195): Set a channel's expected checksum word. -/
  | chSumExp (h : Hdr) (f : EForm)
  /-- `rs.hint` (R198): Raise lines of a range to highest replacement priority. -/
  | rsHintKeep (h : Hdr) (f : NForm)
  /-- `rs.hint` (R198): Lower lines of a range to lowest replacement priority. -/
  | rsHintDrop (h : Hdr) (f : NForm)
  /-- `rs.hint` (R198): Bring lines of a range from HBM into their home slices. -/
  | rsHintFetch (h : Hdr) (f : NForm)
  /-- `rs.evict` (R199): Write back dirty store lines of a range and keep them. -/
  | rsEvict (h : Hdr) (f : NForm)
  /-- `rs.evict` (R199): Write back and evict store lines of a range. -/
  | rsEvictInv (h : Hdr) (f : NForm)
  /-- `rs.qry` (R200): Report contract, presence, home and grain of a line. -/
  | rsQry (h : Hdr) (f : NForm)
  /-- `m.tr` (R196): Mortar tile transpose command. -/
  | mTr (h : Hdr) (f : EForm)
  /-- `m.red` (R197): Mortar element-wise reduction command. -/
  | mRed (h : Hdr) (f : EForm)
  /-- `kv.match` (R202): Walk a prefix tree and create a sequence of the matched blocks. -/
  | kvMatch (h : Hdr) (f : EForm)
  /-- `kv.insert` (R202): Publish a sequence's full blocks into the tree. -/
  | kvInsert (h : Hdr) (f : EForm)
  /-- `kv.fork` (R202): Create a sequence sharing the parent's blocks. -/
  | kvFork (h : Hdr) (f : EForm)
  /-- `kv.ref` (R202): Add a holder to a sequence. -/
  | kvRef (h : Hdr) (f : EForm)
  /-- `kv.unref` (R202): Remove a holder, ending the sequence at zero. -/
  | kvUnref (h : Hdr) (f : EForm)
  /-- `kv.append` (R202): Append a token, in place, by copy or on a new page. -/
  | kvAppend (h : Hdr) (f : EForm)
  /-- `kv.xlat` (R204): Translate sequence positions to KV entry addresses with replay bits. -/
  | kvXlat (h : Hdr) (f : NForm)
  /-- `kv.qry` (R202): Read a sequence's length, tail page and block count. -/
  | kvQry (h : Hdr) (f : EForm)
  /-- `k.mma` (R215): Matrix multiply-accumulate into an accumulator. -/
  | kMma (h : Hdr) (f : KForm)
  /-- `k.lda` (R216): Load a tile register from memory. -/
  | kLda (h : Hdr) (f : EForm)
  /-- `k.zero` (R217): Zero an accumulator. -/
  | kZero (h : Hdr) (f : KForm)
  /-- `k.scale` (R217): Scale every accumulator element. -/
  | kScale (h : Hdr) (f : KForm)
  /-- `k.drain` (R218): Write an accumulator to memory with conversion. -/
  | kDrain (h : Hdr) (f : EForm)
  /-- `k.pass` (R220): Send a tile to a neighbour's receive queue. -/
  | kPass (h : Hdr) (f : EForm)
  /-- `k.recv` (R220): Take a tile from a receive queue, storing or dropping it. -/
  | kRecv (h : Hdr) (f : EForm)
  /-- `k.stat` (R221): Read and optionally clear the Keystone context status word. -/
  | kStat (h : Hdr) (f : NForm)
  /-- `v.accrd` (R222): Read accumulator elements into vector lanes. -/
  | vAccrd (h : Hdr) (f : NForm)
  /-- `v.accwr` (R222): Write vector lanes into accumulator elements. -/
  | vAccwr (h : Hdr) (f : NForm)
  /-- `sys.rd` (R234): Read a control register. -/
  | sysRd (h : Hdr) (f : IForm)
  /-- `sys.wr` (R234): Write a control register. -/
  | sysWr (h : Hdr) (f : IForm)
  /-- `sys.rfe` (R234): Return from an in-group trap handler. -/
  | sysRfe (h : Hdr) (f : NForm)
  /-- `sys.tlbi` (R235): Invalidate translations of one page in an address space. -/
  | sysTlbiVa (h : Hdr) (f : NForm)
  /-- `sys.tlbi` (R235): Invalidate every translation of an address space. -/
  | sysTlbiAs (h : Hdr) (f : NForm)
  /-- `sys.tlbi` (R235): Invalidate every translation of the package. -/
  | sysTlbiAll (h : Hdr) (f : NForm)
  /-- `sys.halt` (R236): Remove a core from dispatch. -/
  | sysHaltCore (h : Hdr) (f : NForm)
  /-- `sys.halt` (R236): Return a core to dispatch. -/
  | sysHaltResume (h : Hdr) (f : NForm)
  /-- `sys.idle` (R236): Wait for a fault or retry entry or a clock limit. -/
  | sysIdle (h : Hdr) (f : NForm)
  /-- `pre.mask` (R237): Raise the task's pre-emption mask count. -/
  | preMask (h : Hdr) (f : NForm)
  /-- `pre.unmask` (R237): Lower the task's pre-emption mask count. -/
  | preUnmask (h : Hdr) (f : NForm)
  /-- `sys.sig` (R238): Release and update a 64-bit semaphore by set, add or max. -/
  | sysSig (h : Hdr) (f : NForm)
  /-- `sys.fqack` (R239): Acknowledge a fault set and re-execute the faulting instruction. -/
  | sysFqackRetry (h : Hdr) (f : NForm)
  /-- `sys.fqack` (R239): Acknowledge a trap or breakpoint set and resume after it. -/
  | sysFqackSkip (h : Hdr) (f : NForm)
  /-- `sys.fqack` (R357): Acknowledge a fault set by ending its task. -/
  | sysFqackKill (h : Hdr) (f : NForm)
  /-- `sys.fqack` (R239): Resume a stopped channel or matrix queue from a retry entry. -/
  | sysFqackResume (h : Hdr) (f : NForm)
  /-- `sys.fqack` (R239): Complete a stopped command as failed from a retry entry. -/
  | sysFqackFail (h : Hdr) (f : NForm)
  /-- `sys.dirq` (R240): Read a line's directory state without recall. -/
  | sysDirq (h : Hdr) (f : NForm)
  /-- `sys.dirrc` (R241): Reclaim an owner-lost unit with zero bytes. -/
  | sysDirrcZero (h : Hdr) (f : NForm)
  /-- `sys.dirrc` (R241): Reclaim an owner-lost unit with bytes copied from memory. -/
  | sysDirrcCopy (h : Hdr) (f : NForm)
  /-- `sys.dirrc` (R241): Reclaim an owner-lost unit keeping the home's bytes. -/
  | sysDirrcKeep (h : Hdr) (f : NForm)
  /-- `sys.watch` (R242): Arm or disarm a core watch on a virtual range. -/
  | sysWatch (h : Hdr) (f : NForm)
  /-- `sys.swatch` (R243): Arm or disarm a slice watch at a home. -/
  | sysSwatch (h : Hdr) (f : NForm)
  deriving DecidableEq, Repr

end Sys2Proof
end

