-- ==== Sys2Proof/Machine/Numbers.lean ====
section
/-! DEFINITION. Number formats, rounding and conversion (02_numbers.md, R42-R60), on exact values: a finite value is a
sign and a fraction of naturals, so that no intermediate result is rounded. -/
namespace Sys2Proof.Machine

/-- The floating-point formats of R45. -/
inductive FF | f64 | f32 | f19 | bf16 | f16 | e5m2 | e4m3 | e3m4 | e3m2 | e2m3 | e2m1 | e8m0
  deriving DecidableEq, Repr

/-- Exponent bits (R45). -/
def FF.eb : FF → Nat
  | .f64 => 11 | .f32 => 8 | .f19 => 8 | .bf16 => 8 | .f16 => 5 | .e5m2 => 5 | .e4m3 => 4 | .e3m4 => 3 | .e3m2 => 3
  | .e2m3 => 2 | .e2m1 => 2 | .e8m0 => 8
/-- Mantissa bits (R45). -/
def FF.mb : FF → Nat
  | .f64 => 52 | .f32 => 23 | .f19 => 10 | .bf16 => 7 | .f16 => 10 | .e5m2 => 2 | .e4m3 => 3 | .e3m4 => 4 | .e3m2 => 2
  | .e2m3 => 3 | .e2m1 => 1 | .e8m0 => 0
/-- Exponent bias (R45). -/
def FF.bias : FF → Nat
  | .f64 => 1023 | .f32 => 127 | .f19 => 127 | .bf16 => 127 | .f16 => 15 | .e5m2 => 15 | .e4m3 => 7 | .e3m4 => 3
  | .e3m2 => 3 | .e2m3 => 1 | .e2m1 => 1 | .e8m0 => 127
/-- The five formats with infinities, quiet and signalling NaNs, on which DAZ and FTZ act (R46, R91). -/
def FF.big : FF → Bool
  | .f64 | .f32 | .f19 | .bf16 | .f16 => true
  | _ => false
/-- Formats without a NaN (R45). -/
def FF.noNan : FF → Bool
  | .e3m2 | .e2m3 | .e2m1 => true
  | _ => false
/-- Sign, exponent and mantissa bits together. -/
def FF.bitsN (F : FF) : Nat := F.eb + F.mb + (if F == .e8m0 then 0 else 1)
/-- The exponent and mantissa of the largest finite value, as one number (R45). -/
def FF.maxEnc : FF → Nat
  | .e5m2 => 0x7B | .e4m3 => 0x7E | .e3m4 => 0x7E | .e3m2 => 0x1F | .e2m3 => 0x1F | .e2m1 => 0x7 | .e8m0 => 0xFE
  | F => (2 ^ F.eb - 1) * 2 ^ F.mb - 1
/-- Where the encoding starts in its container: f19 lies in the high bits of an f32 word (R47). -/
def FF.shift : FF → Nat
  | .f19 => 13
  | _ => 0

/-- A value: NaN with sign and its mantissa aligned to 52 bits, infinity, or sign and magnitude n / d. -/
inductive Val
  | nan (sig neg : Bool) (man : Nat)
  | inf (neg : Bool)
  | fin (neg : Bool) (n d : Nat)
  deriving DecidableEq, Repr

/-- The conditions of IEEE 754 (R89). -/
structure FpFlags where
  iv : Bool := false
  dz : Bool := false
  of : Bool := false
  uf : Bool := false
  nx : Bool := false
  deriving DecidableEq, Repr

def FpFlags.or (a b : FpFlags) : FpFlags :=
  { iv := a.iv || b.iv, dz := a.dz || b.dz, of := a.of || b.of, uf := a.uf || b.uf, nx := a.nx || b.nx }
def FpFlags.none : FpFlags := {}
def FpFlags.invalid : FpFlags := { iv := true }
def FpFlags.divZero : FpFlags := { dz := true }

/-- Rounding, saturation, the flush controls and the stochastic draw of one element (R53, R56, R91). -/
structure FEnv where
  mode : Rnd := .rne
  sat : Bool := false
  daz : Bool := false
  ftz : Bool := false
  draw : Nat := 0
  deriving DecidableEq, Repr

/-- A fraction divided by 2^q. -/
def scaleQ (n d : Nat) (q : Int) : Nat × Nat :=
  if 0 ≤ q then (n, d * 2 ^ q.toNat) else (n * 2 ^ (-q).toNat, d)

/-- The floor of log2 of a positive fraction. -/
def floorLog2 (n d : Nat) : Int :=
  let g := (Nat.log2 n : Int) - (Nat.log2 d : Int)
  let (a, b) := scaleQ n d g
  if b ≤ a then g else g - 1

/-- Rounding of the magnitude a / b to an integer under R53, with the sign of the value; and whether it was exact. -/
def roundUnits (m : Rnd) (draw : Nat) (neg : Bool) (a b : Nat) : Nat × Bool :=
  let k := a / b
  let r := a % b
  if r = 0 then (k, true)
  else
    let up : Bool :=
      match m with
      | .rne | .dyn => b < 2 * r || (2 * r == b && k % 2 == 1)
      | .rtz => false
      | .rup => !neg
      | .rdn => neg
      | .rna => b ≤ 2 * r
      | .stoch =>
        if neg then !(draw < (b - r) * 2 ^ 24 / b) else draw < r * 2 ^ 24 / b
    (if up then k + 1 else k, false)

/-- A positive fraction in format F with its exponent range unbounded above (R53): units, their exponent, exactness. -/
def roundFF (F : FF) (m : Rnd) (draw : Nat) (neg : Bool) (n d : Nat) : Nat × Int × Bool :=
  let q := max (floorLog2 n d) (1 - (F.bias : Int)) - F.mb
  let (a, b) := scaleQ n d q
  let (k, ex) := roundUnits m draw neg a b
  (k, q, ex)

/-- Tiny after rounding: the value rounded with an unbounded exponent range lies below the least normal (R59, R92). -/
def tinyAfter (F : FF) (m : Rnd) (draw : Nat) (neg : Bool) (n d : Nat) : Bool :=
  let e := floorLog2 n d
  if 1 - (F.bias : Int) ≤ e then false
  else
    let (a, b) := scaleQ n d (e - F.mb)
    let k := (roundUnits m draw neg a b).1
    !(e + 1 == 1 - (F.bias : Int) && k == 2 ^ (F.mb + 1))

/-- Exponent and mantissa fields, as one number, of k units of 2^q in format F, the exponent unbounded above (R44). -/
def encUnits (F : FF) (k : Nat) (q : Int) : Nat :=
  let qmin := 1 - (F.bias : Int) - F.mb
  let (k, q) := if 2 ^ (F.mb + 1) ≤ k then (k / 2, q + 1) else (k, q)
  if k < 2 ^ F.mb then k else (q - qmin).toNat * 2 ^ F.mb + k

/-- Sign and magnitude encoding placed in the container. -/
def FF.pack (F : FF) (neg : Bool) (enc : Nat) : Nat :=
  ((if neg then 2 ^ (F.eb + F.mb) else 0) + enc) * 2 ^ F.shift

/-- The encoding of infinity of the formats that have one. -/
def FF.infEnc (F : FF) : Nat := (2 ^ F.eb - 1) * 2 ^ F.mb

/-- What R56 writes for a finite overflow. -/
def overflowEnc (F : FF) (m : Rnd) (sat neg : Bool) : Nat :=
  if sat || F.noNan then F.pack neg F.maxEnc
  else
    let toMax : Bool := match m with
      | .rtz => true
      | .rup => neg
      | .rdn => !neg
      | _ => false
    if toMax then F.pack neg F.maxEnc
    else if F == .e4m3 || F == .e3m4 then F.pack neg 0x7F
    else F.pack neg F.infEnc

/-- What R56 writes for an infinite value. -/
def infEncOf (F : FF) (sat neg : Bool) : Nat :=
  if sat || F.noNan then F.pack neg F.maxEnc
  else if F == .e4m3 || F == .e3m4 then F.pack neg 0x7F
  else F.pack neg F.infEnc

/-- The canonical NaN (R45). -/
def FF.canon (F : FF) : Nat :=
  match F with
  | .e5m2 => 0x7E
  | .e4m3 | .e3m4 => 0x7F
  | .e8m0 => 0xFF
  | .e3m2 | .e2m3 | .e2m1 => 0
  | _ => F.pack false (F.infEnc + 2 ^ (F.mb - 1))

/-- A NaN written to format F (R57, R93). -/
def nanEnc (F : FF) (neg : Bool) (man : Nat) : Nat :=
  match F with
  | .e5m2 => F.pack neg 0x7E
  | .e4m3 | .e3m4 => F.pack neg 0x7F
  | .e8m0 => 0xFF
  | .e3m2 | .e2m3 | .e2m1 => 0
  | _ => F.pack neg (F.infEnc + ((man / 2 ^ (52 - F.mb)) ||| 2 ^ (F.mb - 1)))

/-- e8m0 from a positive magnitude (R53, R101). -/
def encE8m0 (m : Rnd) (draw : Nat) (n d : Nat) : Nat × FpFlags :=
  let e := floorLog2 n d
  let (a, b) := scaleQ n d e
  let r := a - b
  let hi : Bool :=
    if r = 0 then false
    else match m with
      | .rne | .dyn => b < 2 * r || (2 * r == b && (e + 127) % 2 != 0)
      | .rtz | .rdn => false
      | .rup => true
      | .rna => b ≤ 2 * r
      | .stoch => draw < r * 2 ^ 24 / b
  let k := if hi then e + 1 else e
  if 127 < k then (254, { of := true, nx := true })
  else if k < -127 then (0, { uf := true, nx := true })
  else ((k + 127).toNat, { nx := r != 0 })

/-- A value rounded once into format F: R53, then R56, R57 and FTZ (R91), with the conditions of R59. -/
def encVal (F : FF) (env : FEnv) (v : Val) : Nat × FpFlags :=
  match v with
  | .nan sig neg man => (nanEnc F neg man, { iv := sig || F.noNan })
  | .inf neg =>
    if F == .e8m0 then (0xFE, .invalid)
    else if F.big || F == .e5m2 then (infEncOf F env.sat neg, { nx := env.sat })
    else (infEncOf F env.sat neg, .invalid)
  | .fin neg n d =>
    if F == .e8m0 then (if n = 0 then (0xFF, .invalid) else encE8m0 env.mode env.draw n d)
    else if n = 0 then (F.pack neg 0, .none)
    else
      let (k, q, ex) := roundFF F env.mode env.draw neg n d
      let e := encUnits F k q
      if F.maxEnc < e then (overflowEnc F env.mode env.sat neg, { of := true, nx := true })
      else
        let tiny := !ex && tinyAfter F env.mode env.draw neg n d
        if env.ftz && F.big && e != 0 && e < 2 ^ F.mb then (F.pack neg 0, { uf := true, nx := true })
        else (F.pack neg e, { uf := tiny, nx := !ex })

/-- Read an encoding (R44-R47); with `daz` a subnormal of the five wide formats reads as a zero (R91). -/
def decVal (F : FF) (daz : Bool) (x : Nat) : Val :=
  let x := x / 2 ^ F.shift % 2 ^ F.bitsN
  match F with
  | .e8m0 =>
    if x = 255 then .nan false false 0
    else if x < 127 then .fin false 1 (2 ^ (127 - x)) else .fin false (2 ^ (x - 127)) 1
  | _ =>
    let neg := x / 2 ^ (F.eb + F.mb) % 2 == 1
    let E := x / 2 ^ F.mb % 2 ^ F.eb
    let M := x % 2 ^ F.mb
    let special := E == 2 ^ F.eb - 1
    if special && (F.big || F == .e5m2) then
      if M = 0 then .inf neg
      else .nan (F.big && M < 2 ^ (F.mb - 1)) neg (M * 2 ^ (52 - F.mb))
    else if (F == .e4m3 || F == .e3m4) && x % 128 == 127 then .nan false neg 0
    else
      let q : Int := (if E = 0 then 1 else (E : Int)) - F.bias - F.mb
      let m := if E = 0 then M else 2 ^ F.mb + M
      if m = 0 || (E == 0 && daz && F.big) then .fin neg 0 1
      else if 0 ≤ q then .fin neg (m * 2 ^ q.toNat) 1 else .fin neg m (2 ^ (-q).toNat)

/-- An integer as a value. -/
def Val.ofInt (i : Int) : Val := .fin (i < 0) i.natAbs 1

def Val.isNan : Val → Bool
  | .nan .. => true
  | _ => false
def Val.isSig : Val → Bool
  | .nan s .. => s
  | _ => false
def Val.isInf : Val → Bool
  | .inf _ => true
  | _ => false
def Val.isZero : Val → Bool
  | .fin _ n _ => n == 0
  | _ => false
def Val.neg? : Val → Bool
  | .nan _ n _ => n
  | .inf n => n
  | .fin n .. => n
def Val.negate : Val → Val
  | .nan s n m => .nan s (!n) m
  | .inf n => .inf (!n)
  | .fin n a b => .fin (!n) a b

/-- The exact product of values that are no NaN; none for 0 × infinity. -/
def Val.mul (a b : Val) : Option Val :=
  match a, b with
  | .fin s n d, .fin t m e => some (.fin (s != t) (n * m) (d * e))
  | .inf s, .fin t m _ => if m = 0 then none else some (.inf (s != t))
  | .fin s n _, .inf t => if n = 0 then none else some (.inf (s != t))
  | .inf s, .inf t => some (.inf (s != t))
  | _, _ => none

/-- The signed numerator over the denominator. -/
def signedNum (neg : Bool) (n : Nat) : Int := if neg then -(n : Int) else n

/-- The exact sum of values that are no NaN; none for infinities of opposite sign. A zero sum takes the sign that
IEEE 754 gives under the rounding mode (R53). -/
def Val.add (m : Rnd) (a b : Val) : Option Val :=
  match a, b with
  | .inf s, .inf t => if s = t then some (.inf s) else none
  | .inf s, .fin .. => some (.inf s)
  | .fin .., .inf t => some (.inf t)
  | .fin s n d, .fin t k e =>
    let x := signedNum s n * e + signedNum t k * d
    if x = 0 then
      if n = 0 && k = 0 && s == t then some (.fin s 0 1) else some (.fin (m == .rdn) 0 1)
    else some (.fin (x < 0) x.natAbs (d * e))
  | _, _ => none

/-- Comparison of values that are no NaN: less than; the zeros are equal. -/
def Val.lt (a b : Val) : Bool :=
  match a, b with
  | .inf s, .inf t => s && !t
  | .inf s, .fin .. => s
  | .fin .., .inf t => !t
  | .fin s n d, .fin t k e => signedNum s n * e < signedNum t k * d
  | _, _ => false
def Val.eqv (a b : Val) : Bool := !a.isNan && !b.isNan && !a.lt b && !b.lt a

/-- The first NaN of a list of inputs. -/
def firstNan : List Val → Option Val
  | [] => none
  | v :: vs => if v.isNan then some v else firstNan vs

/-- The NaN result of R93: the first NaN quieted and converted, invalid for a signalling input. -/
def withNan (F : FF) (vs : List Val) (rest : Unit → Nat × FpFlags) : Nat × FpFlags :=
  match firstNan vs with
  | some (.nan _ neg man) => (nanEnc F neg man, { iv := vs.any Val.isSig })
  | _ => rest ()

/-- The canonical NaN with invalid (R93). -/
def invalidNan (F : FF) : Nat × FpFlags := (F.canon, .invalid)

def encOr (F : FF) (env : FEnv) (v : Option Val) : Nat × FpFlags :=
  match v with
  | some v => encVal F env v
  | none => invalidNan F

/-! The correctly rounded operations of R94. -/
def opAdd (F : FF) (env : FEnv) (a b : Nat) : Nat × FpFlags :=
  let x := decVal F env.daz a
  let y := decVal F env.daz b
  withNan F [x, y] fun _ => encOr F env (x.add env.mode y)

def opSub (F : FF) (env : FEnv) (a b : Nat) : Nat × FpFlags :=
  let x := decVal F env.daz a
  let y := decVal F env.daz b
  withNan F [x, y] fun _ => encOr F env (x.add env.mode y.negate)

def opMul (F : FF) (env : FEnv) (a b : Nat) : Nat × FpFlags :=
  let x := decVal F env.daz a
  let y := decVal F env.daz b
  withNan F [x, y] fun _ => encOr F env (x.mul y)

/-- 0 × infinity among two values. -/
def zeroTimesInf (x y : Val) : Bool := (x.isZero && y.isInf) || (x.isInf && y.isZero)

def opFma (F : FF) (env : FEnv) (a b c : Nat) : Nat × FpFlags :=
  let x := decVal F env.daz a
  let y := decVal F env.daz b
  let z := decVal F env.daz c
  let (r, fl) := withNan F [x, y, z] fun _ => encOr F env ((x.mul y).bind (·.add env.mode z))
  (r, fl.or { iv := zeroTimesInf x y })

def opDiv (F : FF) (env : FEnv) (a b : Nat) : Nat × FpFlags :=
  let x := decVal F env.daz a
  let y := decVal F env.daz b
  withNan F [x, y] fun _ =>
    match x, y with
    | .inf _, .inf _ => invalidNan F
    | .inf s, .fin t _ _ => encVal F env (.inf (s != t))
    | .fin s _ _, .inf t => encVal F env (.fin (s != t) 0 1)
    | .fin s n d, .fin t k e =>
      if k = 0 then
        if n = 0 then invalidNan F
        else let (r, fl) := encVal F env (.inf (s != t)); (r, fl.or .divZero)
      else encVal F env (.fin (s != t) (n * e) (d * k))
    | _, _ => invalidNan F

/-- Floor of a square root by Newton's iteration. -/
def isqrtFrom (n : Nat) : Nat → Nat → Nat
  | 0, x => x
  | f + 1, x =>
    let y := (x + n / x) / 2
    if y < x then isqrtFrom n f y else x

def isqrt (n : Nat) : Nat := if n = 0 then 0 else isqrtFrom n (Nat.log2 n + 8) (2 ^ (Nat.log2 n / 2 + 1))

/-- A root within 2^-t of the exact one, exact where that is rational with denominator 2^t; otherwise strictly between
two neighbours of the grid 2^-t, as the exact root is, so that every rounding of R53 agrees with it. -/
def sqrtFrac (t : Nat) (n d : Nat) : Nat × Nat :=
  let a := n * 2 ^ (2 * t)
  let r := isqrt (a / d)
  if r * r * d = a then (r, 2 ^ t) else (2 * r + 1, 2 ^ (t + 1))

def opSqrt (F : FF) (env : FEnv) (a : Nat) : Nat × FpFlags :=
  let x := decVal F env.daz a
  withNan F [x] fun _ =>
    match x with
    | .fin s n d =>
      if n = 0 then encVal F env (.fin s 0 1)
      else if s then invalidNan F
      else
        let t := (Nat.log2 d + 1) / 2 + 2 * F.mb + 64
        let (p, q) := sqrtFrac t n d
        encVal F env (.fin false p q)
    | .inf s => if s then invalidNan F else encVal F env (.inf false)
    | _ => invalidNan F

/-- a × 2^b, b an integer (R94). -/
def opScale (F : FF) (env : FEnv) (a : Nat) (b : Int) : Nat × FpFlags :=
  let x := decVal F env.daz a
  let b := max (-4400) (min 4400 b)
  withNan F [x] fun _ =>
    match x with
    | .fin s n d => if 0 ≤ b then encVal F env (.fin s (n * 2 ^ b.toNat) d) else encVal F env (.fin s n (d * 2 ^ (-b).toNat))
    | v => encVal F env v

/-- c + a0·b0 + a1·b1 with one rounding to f32 (R94); F is the format of a and b. Of two NaNs in one source, element 0's
is the first (DEDUCED, log 28). -/
def opDot2 (F : FF) (env : FEnv) (a0 a1 b0 b1 c : Nat) : Nat × FpFlags :=
  let x0 := decVal F env.daz a0
  let x1 := decVal F env.daz a1
  let y0 := decVal F env.daz b0
  let y1 := decVal F env.daz b1
  let z := decVal .f32 env.daz c
  let (r, fl) := withNan .f32 [x0, x1, y0, y1, z] fun _ =>
    encOr .f32 env ((x0.mul y0).bind fun p => (x1.mul y1).bind fun q => (p.add env.mode q).bind (·.add env.mode z))
  (r, fl.or { iv := zeroTimesInf x0 y0 || zeroTimesInf x1 y1 })

/-- The order of v.fmin and v.fmax: minus zero below plus zero (R95). -/
def minLt (a b : Val) : Bool := a.lt b || (a.isZero && b.isZero && a.neg? && !b.neg?)

/-- v.fmin and v.fmax (R95): no condition but invalid, whatever FTZ does to the result. -/
def opMinMax (F : FF) (env : FEnv) (isMax : Bool) (a b : Nat) : Nat × FpFlags :=
  let x := decVal F env.daz a
  let y := decVal F env.daz b
  let sig : FpFlags := { iv := x.isSig || y.isSig }
  if x.isNan && y.isNan then withNan F [x, y] fun _ => invalidNan F
  else
    let v := if x.isNan then y else if y.isNan then x
      else if isMax then (if minLt x y then y else x) else (if minLt y x then y else x)
    ((encVal F { env with mode := .rne, sat := false } v).1, sig)

/-- Rounding to an integral value (R97). -/
def opIntegral (F : FF) (env : FEnv) (m : Rnd) (a : Nat) : Nat × FpFlags :=
  let x := decVal F env.daz a
  withNan F [x] fun _ =>
    match x with
    | .fin s n d =>
      let k := (roundUnits m env.draw s n d).1
      ((encVal F { env with mode := .rne, sat := false } (.fin s k 1)).1, .none)
    | v => ((encVal F { env with sat := false } v).1, .none)

/-- The class mask of R98, from the raw bits. -/
def opClass (F : FF) (a : Nat) : Nat :=
  match decVal F false a with
  | .nan s _ _ => if s then 1 else 2
  | .inf s => if s then 4 else 512
  | .fin s n _ =>
    if n = 0 then (if s then 32 else 64)
    else
      let subn := a / 2 ^ F.mb % 2 ^ F.eb == 0
      if s then (if subn then 16 else 8) else (if subn then 128 else 256)

/-- The unbiased exponent as a float (R99). -/
def opGetexp (F : FF) (env : FEnv) (a : Nat) : Nat × FpFlags :=
  let x := decVal F env.daz a
  withNan F [x] fun _ =>
    match x with
    | .inf _ => (infEncOf F false false, .none)
    | .fin _ n d =>
      if n = 0 then (infEncOf F false true, .divZero)
      else ((encVal F {} (Val.ofInt (floorLog2 n d))).1, .none)
    | _ => invalidNan F

/-- The conditions of v.fcmp (R83). -/
def opFcmp (F : FF) (daz : Bool) (op a b : Nat) : Bool × FpFlags :=
  let x := decVal F daz a
  let y := decVal F daz b
  let uno := x.isNan || y.isNan
  let sig : FpFlags := { iv := x.isSig || y.isSig }
  let any : FpFlags := { iv := uno }
  match op with
  | 0 => (!uno && x.eqv y, sig)
  | 1 => (uno || !x.eqv y, sig)
  | 2 => (!uno && x.lt y, any)
  | 3 => (!uno && !y.lt x, any)
  | 4 => (!uno && y.lt x, any)
  | 5 => (!uno && !x.lt y, any)
  | 6 => (!uno, sig)
  | _ => (uno, sig)

/-! Conversions of class 0x4 (R100). -/
/-- An element format of R100: an integer of a width, or a float. -/
inductive Elem
  | int (w : Nat) (signed : Bool)
  | flt (F : FF)
  deriving DecidableEq, Repr

/-- The element formats by their code (R100). -/
def elemOf (c : Nat) : Elem :=
  match c with
  | 0 => .int 32 true | 1 => .int 32 false | 2 => .int 64 true | 3 => .int 64 false
  | 4 => .int 16 true | 5 => .int 16 false | 6 => .int 8 true | 7 => .int 8 false
  | 8 => .flt .f32 | 9 => .flt .f64 | 10 => .flt .f16 | 11 => .flt .bf16 | 12 => .flt .f19
  | 13 => .flt .e4m3 | 14 => .flt .e5m2 | 15 => .flt .e3m4 | 16 => .flt .e2m3 | 17 => .flt .e3m2 | 18 => .flt .e2m1
  | 19 => .flt .e8m0 | 20 => .int 4 true | _ => .int 4 false

/-- The two's-complement or natural value of w bits (R34, R60). -/
def sextNat (w x : Nat) : Int := if 2 ^ (w - 1) ≤ x % 2 ^ w then (x % 2 ^ w : Int) - 2 ^ w else (x % 2 ^ w : Int)
def intVal (w : Nat) (signed : Bool) (x : Nat) : Int := if signed then sextNat w x else (x % 2 ^ w : Int)
/-- The least and the largest value of an integer type. -/
def intMin (w : Nat) (signed : Bool) : Int := if signed then -(2 ^ (w - 1)) else 0
def intMax (w : Nat) (signed : Bool) : Int := if signed then 2 ^ (w - 1) - 1 else 2 ^ w - 1
def clampInt (w : Nat) (signed : Bool) (x : Int) : Int := max (intMin w signed) (min (intMax w signed) x)
/-- The low w bits of an integer. -/
def wrapInt (w : Nat) (x : Int) : Nat := (x % (2 ^ w : Int)).toNat
/-- Clamped with sat, wrapped without (R75). -/
def fitInt (w : Nat) (signed sat : Bool) (x : Int) : Nat := wrapInt w (if sat then clampInt w signed x else x)

/-- The value of an element (R60). -/
def decElem (E : Elem) (daz : Bool) (x : Nat) : Val :=
  match E with
  | .int w s => Val.ofInt (intVal w s x)
  | .flt F => decVal F daz x

/-- The exact float conversions of R58. -/
def exactInto : FF → FF → Bool
  | .e2m1, d => [.e2m3, .e3m2, .e3m4, .e4m3, .e5m2, .f16, .bf16, .f19, .f32, .f64].contains d
  | .e2m3, d => [.e3m4, .e4m3, .f16, .bf16, .f19, .f32, .f64].contains d
  | .e3m2, d => [.e3m4, .e4m3, .e5m2, .f16, .bf16, .f19, .f32, .f64].contains d
  | .e3m4, d | .e4m3, d | .e5m2, d => [.f16, .bf16, .f19, .f32, .f64].contains d
  | .e8m0, d => [.bf16, .f19, .f32, .f64].contains d
  | .f16, d | .bf16, d => [.f19, .f32, .f64].contains d
  | .f19, d => [.f32, .f64].contains d
  | .f32, d => d == .f64
  | .f64, _ => false

/-- A value into an integer type: rounded, then clamped (R53, R56, R59). -/
def encInt (w : Nat) (signed : Bool) (env : FEnv) (v : Val) : Nat × FpFlags :=
  match v with
  | .nan .. => (0, .invalid)
  | .inf s => (wrapInt w (if s then intMin w signed else intMax w signed), .invalid)
  | .fin s n d =>
    let (k, ex) := roundUnits env.mode env.draw s n d
    let x := signedNum s k
    if x < intMin w signed || intMax w signed < x then (wrapInt w (clampInt w signed x), .invalid)
    else (wrapInt w x, { nx := !ex })

/-- One conversion (R53, R56-R59, R91, R100). A conversion that records invalid records nothing else. -/
def convert (S D : Elem) (env : FEnv) (x : Nat) : Nat × FpFlags :=
  let (r, fl) :=
    match S, D with
    | .int w s, .int w' s' => (fitInt w' s' env.sat (intVal w s x), FpFlags.none)
    | .int w s, .flt F => encVal F env (Val.ofInt (intVal w s x))
    | .flt F, .int w s => encInt w s env (decVal F env.daz x)
    | .flt F, .flt G =>
      let v := decVal F env.daz x
      let v := match v with
        | .nan s n m => if F.big then Val.nan s n m else Val.nan false n 0
        | v => v
      encVal G (if F == G || exactInto F G then { env with sat := false } else env) v
  (r, if fl.iv then .invalid else fl)

/-! Scales and block quantisation (R104-R106). -/
/-- Maximum element values of R104 as fractions. -/
def elemMax (e : Nat) : Nat × Nat :=
  match e with
  | 18 => (6, 1) | 16 => (15, 2) | 17 => (28, 1) | 13 => (448, 1) | 14 => (57344, 1) | 6 => (127, 64) | _ => (7, 1)
def elemEmax (e : Nat) : Int :=
  match e with
  | 18 => 2 | 16 => 2 | 17 => 4 | 13 => 8 | 14 => 15 | _ => 0

/-- Scale formats by their code (R104). -/
def scaleFF (c : Nat) : FF :=
  match c with
  | 0 => .e8m0 | 1 => .e4m3 | 2 => .f16 | 3 => .bf16 | _ => .f32

/-- v.scl (R104): the encoding of a block's scale. -/
def sclValue (sfmt efmt : Nat) (env : FEnv) (amax : Nat) : Nat :=
  let F := scaleFF sfmt
  match decVal .f32 env.daz amax with
  | .fin _ n d =>
    if F == .e8m0 then
      if n = 0 then 0 else (max 0 (min 254 (floorLog2 n d - elemEmax efmt + 127))).toNat
    else if n = 0 then 0
    else
      let (p, q) := elemMax efmt
      let (k, u, _) := roundFF F .rup 0 false (n * q) (d * p)
      let e := min F.maxEnc (encUnits F k u)
      if env.ftz && F.big && e < 2 ^ F.mb then 0 else F.pack false e
  | _ => if F == .e8m0 then 0xFF else F.canon

/-- v.qnt (R105): one value against a scale, always saturating. A scale of infinity, which v.scl never writes, gives a
signed zero from a finite value and the NaN of no sign from an infinity (DEDUCED, log 28). -/
def qntValue (efmt sfmt : Nat) (env : FEnv) (a b : Nat) : Nat :=
  let x := decVal .f32 env.daz a
  let s := decVal (scaleFF sfmt) env.daz b
  let y : Val :=
    match x, s with
    | .nan sg n m, _ => .nan sg n m
    | _, .nan _ n m => .nan false n m
    | .fin t n d, .fin u k e =>
      if k = 0 then .fin false 0 1 else .fin (t != u) (n * e) (d * k)
    | .inf t, .fin u k _ => if k = 0 then .fin false 0 1 else .inf (t != u)
    | .fin t _ _, .inf u => .fin (t != u) 0 1
    | .inf _, .inf _ => .nan false false 0
  let y := if efmt = 6 then
      match y with
      | .fin t n d => .fin t (n * 64) d
      | v => v
    else y
  let env := { env with sat := true }
  match elemOf efmt with
  | .int w sg => (encInt w sg env y).1
  | .flt F => (encVal F env y).1

/-- v.dqnt (R106): one element times its scale, to f32. -/
def dqntValue (efmt sfmt : Nat) (env : FEnv) (x b : Nat) : Nat × FpFlags :=
  let v := decElem (elemOf efmt) env.daz x
  let v := if efmt = 6 then
      match v with
      | .fin t n d => .fin t n (d * 64)
      | w => w
    else v
  let v := match v with
    | .nan _ n _ => Val.nan false n 0
    | w => w
  let s := decVal (scaleFF sfmt) env.daz b
  withNan .f32 [v, s] fun _ => encOr .f32 env (v.mul s)

/-- The float format of a vector type. -/
def Ty.ff : Ty → FF
  | .f64 => .f64 | .f16x2 => .f16 | .bf16x2 => .bf16 | _ => .f32

/-! mix64, CRC-32C and the stochastic draw (R34, R55). -/
def mix64 (x : W64) : W64 :=
  let x := x ^^^ (x >>> 31)
  let x := x * 0xD6E8FEB86659FD93#64
  let x := x ^^^ (x >>> 29)
  let x := x * 0xA3B195354A39B70D#64
  x ^^^ (x >>> 32)

def crcBit (c : W32) : W32 := if c.getLsbD 0 then (c >>> 1) ^^^ 0x82F63B78#32 else c >>> 1
def crc32cStep (c : W32) (b : Byte) : W32 :=
  crcBit (crcBit (crcBit (crcBit (crcBit (crcBit (crcBit (crcBit (c ^^^ b.setWidth 32))))))))

/-- The 24-bit draw of R55 for lane or row i and element or column e. -/
def srDraw (S : W64) (C : W32) (i e : Nat) : Nat :=
  ((mix64 (S ^^^ (C.setWidth 64 <<< 32) ^^^ (BitVec.ofNat 64 i <<< 8) ^^^ BitVec.ofNat 64 e ^^^
    0x9E3779B97F4A7C15#64)) >>> 40).toNat % 2 ^ 24

end Sys2Proof.Machine
end

