-- ==== Sys2Proof/Machine/IntOps.lean ====
section
/-! DEFINITION. Element operations of the scalar, vector-integer, compare, hash and string classes (R66-R86, R119-R129),
on naturals of the element's width. -/
namespace Sys2Proof.Machine

/-- Element width of a type (R42). -/
def Ty.width : Ty → Nat
  | .s64 | .n64 | .f64 | .b64 => 64
  | .s16x2 | .n16x2 | .f16x2 | .bf16x2 => 16
  | .s8x4 | .n8x4 => 8
  | _ => 32
/-- Types read as two's complement (R28). -/
def Ty.signed : Ty → Bool
  | .s32 | .s64 | .s16x2 | .s8x4 => true
  | _ => false
/-- Elements in a lane. -/
def Ty.count (t : Ty) : Nat := if Ty.width t = 64 then 1 else 32 / Ty.width t

/-- Element k of a lane (R42). -/
def elemAt (w k : Nat) (x : W64) : Nat := x.toNat / 2 ^ (w * k) % 2 ^ w

/-- A lane from its elements, element 0 lowest. -/
def joinElems (w : Nat) (xs : List Nat) : W64 :=
  BitVec.ofNat 64 (xs.foldr (fun x acc => acc * 2 ^ w + x % 2 ^ w) 0)

/-- The elements of a lane. -/
def elemsOf (w n : Nat) (x : W64) : List Nat := (List.range n).map (fun k => elemAt w k x)

/-- Apply an element operation to every element of a lane. -/
def mapLane (t : Ty) (g : Nat → Nat → Nat → Nat) (a b c : W64) : W64 :=
  let w := Ty.width t
  joinElems w ((List.range (Ty.count t)).map (fun k => g (elemAt w k a) (elemAt w k b) (elemAt w k c)))

/-- An element operation of class 0x1: width, signedness, sat, and the elements of A, B and C. -/
abbrev ElemFn := Nat → Bool → Bool → Nat → Nat → Nat → Nat

def elAdd : ElemFn := fun w sg sat a b _ => fitInt w sg sat (intVal w sg a + intVal w sg b)
def elSub : ElemFn := fun w sg sat a b _ => fitInt w sg sat (intVal w sg a - intVal w sg b)
def elMul : ElemFn := fun w sg sat a b _ => fitInt w sg sat (intVal w sg a * intVal w sg b)
def elMad : ElemFn := fun w sg sat a b c => fitInt w sg sat (intVal w sg a * intVal w sg b + intVal w sg c)
/-- The high half of the exact product (R66, R75). -/
def elMulhi : ElemFn := fun w sg _ a b _ => wrapInt w (intVal w sg a * intVal w sg b / (2 ^ w : Int))
/-- The exact double-width product (R75, v.mulw). -/
def elMulw : ElemFn := fun w sg _ a b _ => wrapInt (2 * w) (intVal w sg a * intVal w sg b)
def elAbs : ElemFn := fun w sg sat a _ _ => fitInt w sg sat ((intVal w sg a).natAbs : Int)
def elNeg : ElemFn := fun w sg sat a _ _ => fitInt w sg sat (-(intVal w sg a))
def elMin : ElemFn := fun w sg _ a b _ => if intVal w sg b < intVal w sg a then b % 2 ^ w else a % 2 ^ w
def elMax : ElemFn := fun w sg _ a b _ => if intVal w sg a < intVal w sg b then b % 2 ^ w else a % 2 ^ w
def elAnd : ElemFn := fun _ _ _ a b _ => a &&& b
def elOr : ElemFn := fun _ _ _ a b _ => a ||| b
def elXor : ElemFn := fun _ _ _ a b _ => a ^^^ b
def elNotNat (w a : Nat) : Nat := 2 ^ w - 1 - a % 2 ^ w
def elAndn : ElemFn := fun w _ _ a b _ => a &&& elNotNat w b
def elNot : ElemFn := fun w _ _ a _ _ => elNotNat w a
def elMov : ElemFn := fun _ _ _ a _ _ => a
/-- min(max(a, b), c) (R75, v.sat). -/
def elClamp : ElemFn := fun w sg _ a b c => elMin w sg false (elMax w sg false a b 0) c 0

/-- The shift count of an element: B's element, or the low 32 bits of a 64-bit one (R76). -/
def shiftCount (w b : Nat) : Nat := if w = 64 then b % 2 ^ 32 else b

/-- Shifts of R76. With sat, the exact value x × 2^n is clamped. -/
def elShl : ElemFn := fun w sg sat a b _ =>
  let n := shiftCount w b
  if sat then
    if a % 2 ^ w = 0 then 0 else fitInt w sg true (intVal w sg a * 2 ^ (min n w))
  else if w ≤ n then 0 else a * 2 ^ n % 2 ^ w
def elShr : ElemFn := fun w _ _ a b _ => let n := shiftCount w b; if w ≤ n then 0 else a % 2 ^ w / 2 ^ n
def elSar : ElemFn := fun w _ _ a b _ =>
  let n := shiftCount w b
  if w ≤ n then (if 2 ^ (w - 1) ≤ a % 2 ^ w then 2 ^ w - 1 else 0) else wrapInt w (sextNat w a / (2 ^ n : Int))
def elRot : ElemFn := fun w _ _ a b _ =>
  let k := shiftCount w b % w
  (a * 2 ^ k ||| a % 2 ^ w / 2 ^ (w - k)) % 2 ^ w

/-- Position and length of a field descriptor (R77). -/
def fieldPos (b : Nat) : Nat := b % 32
def fieldLen (b : Nat) : Nat := min (b / 256 % 64) (32 - b % 32)
def elBfe : ElemFn := fun _ sg _ a b _ =>
  let len := fieldLen b
  if len = 0 then 0 else wrapInt 32 (intVal len sg (a / 2 ^ fieldPos b))
/-- R77: c with a field replaced by the low bits of a; the descriptor is b. -/
def elBfi : ElemFn := fun _ _ _ a b c =>
  let p := fieldPos b
  let len := fieldLen b
  let m := (2 ^ len - 1) * 2 ^ p
  (c &&& elNotNat 32 m) ||| (a % 2 ^ len * 2 ^ p)

/-- The number of 1 bits among the low n. -/
def popcNat : Nat → Nat → Nat
  | 0, _ => 0
  | n + 1, x => x % 2 + popcNat n (x / 2)
def elPopc : ElemFn := fun w _ _ a _ _ => popcNat w a
def elClz : ElemFn := fun w _ _ a _ _ => if a % 2 ^ w = 0 then w else w - 1 - Nat.log2 (a % 2 ^ w)
def ctzNat : Nat → Nat → Nat
  | 0, _ => 0
  | n + 1, x => if x % 2 = 1 then 0 else 1 + ctzNat n (x / 2)
def elCtz : ElemFn := fun w _ _ a _ _ => ctzNat w a
def brevNat : Nat → Nat → Nat
  | 0, _ => 0
  | n + 1, x => x % 2 * 2 ^ n + brevNat n (x / 2)
def elBrev : ElemFn := fun w _ _ a _ _ => brevNat w a

/-- Division of R68: quotient and remainder at width w. -/
def divRem (w : Nat) (sg : Bool) (a b : Nat) : Nat × Nat :=
  let x := intVal w sg a
  let y := intVal w sg b
  if y = 0 then
    (if sg then (if 0 ≤ x then wrapInt w (intMax w true) else wrapInt w (intMin w true)) else 2 ^ w - 1, a % 2 ^ w)
  else (wrapInt w (Int.tdiv x y), wrapInt w (x - y * Int.tdiv x y))
def elDiv : ElemFn := fun w sg _ a b _ => (divRem w sg a b).1
def elRem : ElemFn := fun w sg _ a b _ => (divRem w sg a b).2

/-- Dot products and absolute differences of R79: c and the result are one 32-bit value. -/
def dotSum (t : Ty) (sat : Bool) (f : Int → Int → Int) (a b c : W64) : W64 :=
  let w := Ty.width t
  let sg := Ty.signed t
  let xs := (List.range (Ty.count t)).map (fun k => f (intVal w sg (elemAt w k a)) (intVal w sg (elemAt w k b)))
  BitVec.ofNat 64 (fitInt 32 sg sat (xs.foldl (· + ·) (intVal 32 sg c.toNat)))
def mulInt (a b : Int) : Int := a * b
def absDiff (a b : Int) : Int := ((a - b).natAbs : Int)

/-- The condition codes of R81. -/
def condHolds (w : Nat) (sg : Bool) (op a b : Nat) : Bool :=
  let x := intVal w sg a
  let y := intVal w sg b
  match op with
  | 0 => x == y
  | 1 => x != y
  | 2 => x < y
  | 3 => x ≤ y
  | 4 => y < x
  | 5 => y ≤ x
  | 6 => a &&& b != 0
  | _ => a &&& b == 0

/-! Bytes of a lane value. -/
def byteAt (x : W64) (k : Nat) : Byte := x.extractLsb' (8 * k) 8
def bytesOfLane (w : Nat) (x : W64) : List Byte := (List.range (w / 8)).map (byteAt x)
def laneOfBytes (bs : List Byte) : W64 := bs.foldr (fun b acc => (acc <<< 8) ||| b.setWidth 64) 0#64

/-- v.crc (R119): n bytes of a into the running value c. -/
def crcLane (n : Nat) (init fin : Bool) (a : W64) (c : W32) : W32 :=
  let c := if init then c ^^^ 0xFFFFFFFF#32 else c
  let c := ((List.range n).map (byteAt a)).foldl crc32cStep c
  if fin then c ^^^ 0xFFFFFFFF#32 else c

/-- v.hmul (R121). -/
def hmulLane (w k : Nat) (a b : W64) : W64 := BitVec.ofNat 64 (a.toNat * b.toNat % 2 ^ w / 2 ^ (w - k))
/-- v.part (R122). -/
def partLane (w : Nat) (a b : W64) : W64 := BitVec.ofNat 64 (a.toNat * b.toNat / 2 ^ w)

/-- v.bkt (R123): splitters at or below a value. -/
def bktLane (t : Ty) (splitters : List W32) (a : W64) : Nat :=
  (splitters.filter (fun s =>
    match t with
    | .f32 =>
      let x := decVal .f32 false s.toNat
      let y := decVal .f32 false (a.toNat % 2 ^ 32)
      !x.isNan && !y.isNan && !y.lt x
    | _ => intVal 32 (Ty.signed t) s.toNat ≤ intVal 32 (Ty.signed t) a.toNat)).length

/-- The first byte position below n where two chunks differ (R125). -/
def firstDiff (a b : W64) (n : Nat) : Option Nat := (List.range n).find? (fun k => byteAt a k != byteAt b k)
/-- v.scmp (R125). -/
def scmpLane (w op : Nat) (a b : W64) (c : W32) : W32 :=
  let n := min c.toNat (w / 8)
  match firstDiff a b n with
  | some k => if op = 0 then BitVec.ofNat 32 k else if byteAt a k < byteAt b k then 0xFFFFFFFF#32 else 1#32
  | none => if op = 0 then BitVec.ofNat 32 n else 0#32
/-- v.bfind (R126). -/
def bfindLane (w op : Nat) (a : W64) (b : Byte) : Nat :=
  let ps := (List.range (w / 8)).filter (fun k => byteAt a k == b)
  (if op = 0 then ps.head? else ps.getLast?).getD (w / 8)
/-- The byte classes of v.bmask (R127). -/
def byteClass (op : Nat) (b : W32) (x : Byte) : Bool :=
  let n := x.toNat
  let digit := 0x30 ≤ n && n ≤ 0x39
  let upper := 0x41 ≤ n && n ≤ 0x5A
  let lower := 0x61 ≤ n && n ≤ 0x7A
  match op with
  | 0 => digit
  | 1 => upper
  | 2 => lower
  | 3 => upper || lower
  | 4 => upper || lower || digit
  | 5 => n == 0x20 || (0x09 ≤ n && n ≤ 0x0D)
  | 6 => (0x21 ≤ n && n ≤ 0x2F) || (0x3A ≤ n && n ≤ 0x40) || (0x5B ≤ n && n ≤ 0x60) || (0x7B ≤ n && n ≤ 0x7E)
  | 7 => 0x80 ≤ n
  | 8 => n == b.toNat % 256
  | _ => b.toNat % 256 ≤ n && n ≤ b.toNat / 256 % 256
def bmaskLane (w op : Nat) (a : W64) (b : W32) : W64 :=
  BitVec.ofNat 64 (((List.range (w / 8)).filter (fun k => byteClass op b (byteAt a k))).foldl (fun m k => m + 2 ^ k) 0)
/-- v.ulen (R128). -/
def ulenLane (w op : Nat) (a : W64) (b : W32) : Nat :=
  if op = 0 then
    ((List.range (min b.toNat (w / 8))).filter (fun k => !((byteAt a k).toNat / 64 == 2))).length
  else
    let n := (byteAt a 0).toNat
    if n ≤ 0x7F then 1 else if 0xC2 ≤ n && n ≤ 0xDF then 2 else if 0xE0 ≤ n && n ≤ 0xEF then 3
    else if 0xF0 ≤ n && n ≤ 0xF4 then 4 else 0
/-- v.fold (R129). -/
def foldByte (op : Nat) (x : Byte) : Byte :=
  let n := x.toNat
  if op = 0 then (if 0x41 ≤ n && n ≤ 0x5A then x + 0x20#8 else x)
  else if 0x61 ≤ n && n ≤ 0x7A then x - 0x20#8 else x
def foldLane (w op : Nat) (a : W64) : W64 := laneOfBytes ((bytesOfLane w a).map (foldByte op))

/-! Operations over all lanes. Lane values are lists of 64. -/
/-- Lane l of a list of lane values. -/
def lane (xs : List W64) (l : Nat) : W64 := xs.getD l 0#64

/-- v.shfl's source lane (R111). -/
def shflIndex (mode l : Nat) (b : W32) : Option Nat :=
  match mode with
  | 0 => some b.toNat
  | 1 => if b.toNat ≤ l then some (l - b.toNat) else none
  | 2 => some (l + b.toNat)
  | _ => some (l ^^^ b.toNat)

/-- A[j] when j is a member, otherwise the lane's own value (R110). -/
def memberRead (M : Mask) (a : List W64) (l : Nat) (j : Option Nat) : W64 :=
  match j with
  | some j => if j ≤ 63 && M.getLsbD j then lane a j else lane a l
  | none => lane a l

/-- v.compact and v.expand (R113): lane and value written. -/
def compactWrites (part pb : Mask) (a : List W64) : List (Nat × W64) :=
  (lanesOf part).zip ((lanesOf (part &&& pb)).map (lane a))
def expandWrites (part pb : Mask) (a : List W64) : List (Nat × W64) :=
  (lanesOf (part &&& pb)).zip ((lanesOf part).map (lane a))

/-- v.match (R115): the participating lanes of equal value. -/
def matchLane (part : Mask) (a : List W64) (l : Nat) : W64 :=
  maskOf ((lanesOf part).filter (fun j => lane a j == lane a l))

/-- v.rank (R115). -/
def rankLane (op l : Nat) (m : W64) : Nat :=
  ((lanesOf m).filter (fun j => match op with
    | 0 => j < l
    | 1 => l < j
    | _ => true)).length

/-- comb of R116 for one operator and type: integers, bits, or floats with the conditions of the step. -/
def combElem (t : Ty) (opr : Nat) (env : FEnv) (a b : W64) : W64 × FpFlags :=
  let w := Ty.width t
  let sg := Ty.signed t
  let pack := fun n => (BitVec.ofNat 64 n, FpFlags.none)
  match opr with
  | 0 =>
    match t with
    | .f32 | .f64 => let (r, fl) := opAdd (Ty.ff t) { env with sat := false } a.toNat b.toNat; (BitVec.ofNat 64 r, fl)
    | _ => pack (elAdd w sg env.sat a.toNat b.toNat 0)
  | 1 | 2 =>
    match t with
    | .f32 | .f64 => let (r, fl) := opMinMax (Ty.ff t) env (opr == 2) a.toNat b.toNat; (BitVec.ofNat 64 r, fl)
    | _ => pack ((if opr == 2 then elMax else elMin) w sg false a.toNat b.toNat 0)
  | 3 => (a &&& b, .none)
  | 4 => (a ||| b, .none)
  | _ => (a ^^^ b, .none)

/-- The identities of R116. -/
def identityOf (t : Ty) (opr : Nat) : W64 :=
  let w := Ty.width t
  match opr with
  | 0 =>
    match t with
    | .f32 => 0x80000000#64
    | .f64 => 0x8000000000000000#64
    | _ => 0#64
  | 1 =>
    match t with
    | .f32 => 0x7F800000#64
    | .f64 => 0x7FF0000000000000#64
    | _ => BitVec.ofNat 64 (wrapInt w (intMax w (Ty.signed t)))
  | 2 =>
    match t with
    | .f32 => 0xFF800000#64
    | .f64 => 0xFFF0000000000000#64
    | _ => BitVec.ofNat 64 (wrapInt w (intMin w (Ty.signed t)))
  | 3 => BitVec.ofNat 64 (2 ^ w - 1)
  | _ => 0#64

/-- An element as a scan or a reduction takes it (R91, R93): with DAZ a subnormal is zero, and a NaN is quieted, a
signalling one raising invalid (DEDUCED, log 28, for an element that meets no comb). -/
def elemIn (t : Ty) (env : FEnv) (a : W64) : W64 × FpFlags :=
  match t with
  | .f32 | .f64 =>
    match decVal (Ty.ff t) env.daz a.toNat with
    | .nan sig neg man => (BitVec.ofNat 64 (nanEnc (Ty.ff t) neg man), { iv := sig })
    | v => (BitVec.ofNat 64 (encVal (Ty.ff t) {} v).1, .none)
  | _ => (a, .none)
/-- A result that met no comb as it is written (R91): with FTZ a subnormal is zero, and .add raises its conditions. -/
def elemOut (t : Ty) (opr : Nat) (env : FEnv) (a : W64) : W64 × FpFlags :=
  match t with
  | .f32 | .f64 =>
    match decVal (Ty.ff t) false a.toNat with
    | .nan _ _ _ => (a, .none)
    | v =>
      let (r, fl) := encVal (Ty.ff t) { env with mode := .rne, sat := false } v
      (BitVec.ofNat 64 r, if opr = 0 then fl else .none)
  | _ => (a, .none)

/-- The running state of a scan: last value, writes and conditions by lane. -/
structure ScanAcc where
  r : Option W64
  out : List (Nat × W64)
  fl : List (Nat × FpFlags)

/-- v.scan (R116) over the participating lanes in ascending order. `env l` gives the rounding of lane l. -/
def scanLanes (t : Ty) (opr : Nat) (ex : Bool) (heads : Mask) (env : Nat → FEnv) (a : List W64) (part : Mask) : ScanAcc :=
  (lanesOf part).foldl (fun s l =>
    let r := if heads.getLsbD l then none else s.r
    let (x, fl) := match r with
      | none => elemIn t (env l) (lane a l)
      | some y => combElem t opr (env l) y (lane a l)
    let (d, fl2) := elemOut t opr (env l) (if ex then r.getD (identityOf t opr) else x)
    { r := some x, out := s.out ++ [(l, d)], fl := s.fl ++ [(l, fl.or fl2)] }) { r := none, out := [], fl := [] }

/-- join of R117 at a level whose left subtree starts at lane i. -/
def redJoin (t : Ty) (opr : Nat) (env : FEnv) (x y : Option W64 × FpFlags) : Option W64 × FpFlags :=
  match x.1, y.1 with
  | none, _ => (y.1, x.2.or y.2)
  | some _, none => (x.1, x.2.or y.2)
  | some a, some b => let (r, fl) := combElem t opr env a b; (some r, (x.2.or y.2).or fl)

/-- One level of the tree of R117: neighbours joined; `span` lanes under each entry, the first at lane `base`. -/
def redPairs (t : Ty) (opr : Nat) (env : Nat → FEnv) (span : Nat) :
    Nat → List (Option W64 × FpFlags) → List (Option W64 × FpFlags)
  | base, x :: y :: rest => redJoin t opr (env base) x y :: redPairs t opr env span (base + 2 * span) rest
  | _, xs => xs

/-- v.red (R117): the fixed tree of six levels. -/
def redTree (t : Ty) (opr : Nat) (env : Nat → FEnv) (a : List W64) (part : Mask) : Option W64 × FpFlags :=
  let t0 := (List.range 64).map fun l =>
    if part.getLsbD l then ((fun x => (some x.1, x.2)) (elemIn t (env l) (lane a l))) else (none, FpFlags.none)
  let tr := [1, 2, 4, 8, 16, 32].foldl (fun xs span => redPairs t opr env span 0 xs) t0
  match tr.headD (none, .none) with
  | (some x, fl) => let (y, fl2) := elemOut t opr (env 0) x; (some y, fl.or fl2)
  | r => r

/-- The lane that a permutation reads (R19, R34). -/
def permLane (code : BitVec 4) (aux : BitVec 6) (i : Nat) : Nat :=
  let c := code.toNat
  if c = 0 then i
  else if c ≤ 6 then i ^^^ 2 ^ (c - 1)
  else if c = 7 then 63 - i
  else if c = 8 then aux.toNat
  else i / 8 * 8 + (i + (c - 8)) % 8

end Sys2Proof.Machine
end

