-- ==== Sys2Proof/WellFormed.lean ====
section
/-! DEFINITION. Which terms are instructions of a stream: the operand classes, codes and zero fields that R16, R19-R29
and each entry accept. `check` lists the sub-causes of illegal operand (R32) that a term meets; a well-formed term meets
none. -/
namespace Sys2Proof

/-- Width of an operand: one register, the even-odd pair of a 64-bit type, always a pair, or a run of four (R20, R42). -/
inductive Wid | one | ty | pair | quad | oct
  deriving DecidableEq, Repr

/-- What an operand field accepts. `zero`: an all-zero field stands for no operand. -/
structure Slot where
  v : Bool := false
  s : Bool := false
  sp : Bool := false
  p : Bool := false
  ta : Bool := false
  acc : Bool := false
  wid : Wid := .one
  zero : Bool := false
  deriving DecidableEq, Repr

/-- A type of 64-bit width (R28). -/
def Ty.is64 : Ty → Bool
  | .s64 | .n64 | .f64 | .b64 => true
  | _ => false

/-- Source A, B or C is all zero (R27). -/
def Src.isZero (x : Src) : Bool := x.cls == .vec && x.idx == 0#8 && x.perm == 0#4
/-- D is all zero (R27). -/
def Dst.isZero (x : Dst) : Bool := x.cls == .vec && x.idx == 0#8

/-- The indices of the 32-bit special registers (R17). -/
def isSpecial32 (i : BitVec 8) : Bool :=
  let n := i.toNat
  (0x10 ≤ n && n ≤ 0x16) || (0x18 ≤ n && n ≤ 0x1F)

/-- Whether class and index name a register that the slot accepts (R16, R17, R18, R30, R74). -/
def Slot.accepts (sl : Slot) (st : Stream) (w64 : Bool) (c : Cls) (i : BitVec 8) : Bool :=
  match c with
  | .vec => sl.v && st == .vector
  | .scl => sl.s && i.toNat < 128
  | .spec => if i.toNat < 16 then sl.p else sl.sp && (if w64 then i == 0x20#8 else isSpecial32 i)
  | .eng => (sl.ta && i.toNat < 8) || (sl.acc && 0x10 ≤ i.toNat && i.toNat < 0x20)

/-- Whether the slot reads 64 bits. -/
def Slot.wide (sl : Slot) (ty64 : Bool) : Bool :=
  match sl.wid with
  | .one => false
  | .ty => ty64
  | _ => true

/-- The alignment that the slot's register index needs (R20, R150). -/
def Slot.align (sl : Slot) (ty64 : Bool) : Nat :=
  match sl.wid with
  | .one => 1
  | .ty => if ty64 then 2 else 1
  | .pair => 2
  | .quad => 4
  | .oct => 8

/-- The sub-cause list of one condition. -/
def sub (bad : Bool) (n : Nat) : List Nat := if bad then [n] else []

/-- Sub-causes 1 and 5 of a register operand; an unused one must be zero (sub-cause 4, R27). -/
def regCheck (st : Stream) (ty64 : Bool) (sl : Option Slot) (zero : Bool) (c : Cls) (i : BitVec 8) : List Nat :=
  match sl with
  | none => sub (!zero) 4
  | some sl =>
    if sl.zero && zero then []
    else sub (!sl.accepts st (sl.wide ty64) c i) 1 ++
      sub (c != .spec && i.toNat % sl.align ty64 != 0) 5

/-- Checks of a source: class and index, pair, and a permutation on a source that is not a vector (R19). -/
def srcCheck (st : Stream) (ty64 : Bool) (sl : Option Slot) (x : Src) : List Nat :=
  regCheck st ty64 sl x.isZero x.cls x.idx ++
  (if sl.isSome then sub (x.cls != .vec && x.perm != 0#4) 2 else [])

def dstCheck (st : Stream) (ty64 : Bool) (sl : Option Slot) (x : Dst) : List Nat :=
  regCheck st ty64 sl x.isZero x.cls x.idx

/-- How an entry uses aux: as the replication lane of R19, as that lane but 0 only, or with a meaning of its own. -/
inductive Aux
  | rep
  | lane0
  | own (ok : Bool)
  deriving DecidableEq, Repr

/-- A used source carries permutation code 8. -/
def isRep (sl : Option Slot) (x : Src) : Bool := sl.isSome && x.cls == .vec && x.perm == 8#4

/-- The rules of R19 for permutation code 8 and of R27 for aux. -/
def auxCheck (a : Aux) (aux : BitVec 6) (reps : Nat) : List Nat :=
  match a with
  | .rep => sub (1 < reps) 2 ++ sub (reps == 0 && aux != 0#6) 3
  | .lane0 => sub (1 < reps) 2 ++ sub (aux != 0#6) 3
  | .own ok => sub (0 < reps) 2 ++ sub (!ok) 3

/-- What an N- or I-format entry accepts. -/
structure NRow where
  d : Option Slot := none
  a : Option Slot := none
  b : Option Slot := none
  c : Option Slot := none
  tys : List Ty := []
  rnd : Bool := false
  sat : Bool := false
  aux : Aux := .rep
  op : Bool := false
  extra : List Nat := []

/-- A listed type, or type 0 where none is listed (R28). -/
def tyCheck (tys : List Ty) (t : Ty) : List Nat :=
  sub (!(if tys.isEmpty then t == .s32 else tys.contains t)) 3

def nCheck (st : Stream) (f : NForm) (r : NRow) : List Nat :=
  let w := f.ty.is64
  dstCheck st w r.d f.d ++ srcCheck st w r.a f.a ++ srcCheck st w r.b f.b ++ srcCheck st w r.c f.c ++
  tyCheck r.tys f.ty ++ sub (!r.rnd && f.rnd != .rne) 3 ++ sub (!r.sat && f.sat) 3 ++
  auxCheck r.aux f.aux ((isRep r.a f.a).toNat + (isRep r.b f.b).toNat + (isRep r.c f.c).toNat) ++
  sub (!r.op && f.op != 0#5) 3 ++ r.extra

def iCheck (st : Stream) (f : IForm) (r : NRow) : List Nat :=
  let w := f.ty.is64
  dstCheck st w r.d f.d ++ srcCheck st w r.a f.a ++
  tyCheck r.tys f.ty ++ sub (!r.sat && f.sat) 3 ++
  auxCheck r.aux f.aux (isRep r.a f.a).toNat ++
  sub (!r.op && f.op != 0#5) 3 ++ r.extra

/-- What an M-format entry accepts; the registers of D follow the size where `dBySize`. -/
structure MRow where
  d : Option Slot := none
  a : Option Slot := none
  b : Option Slot := none
  off : Bool := true
  sizes : List Sz := [.b]
  scale : Bool := false
  orders : List Order := [.rlx]
  scope : Bool := true
  policy : Bool := true
  subs : List Nat := [0]
  extra : List Nat := []

/-- The run of registers that a size needs (R150). -/
def Sz.wid : Sz → Wid
  | .b | .h | .w => .one
  | .d => .pair
  | .q => .quad
  | .o => .oct

/-- An order that the entry does not accept is sub-cause 3 (R153), also where the entry uses no order (fence.code,
fence.eng), though R27 and R32 do not name order among the coded fields (DEDUCED, log 7). -/
def mCheck (st : Stream) (f : MForm) (r : MRow) : List Nat :=
  dstCheck st false r.d f.d ++ srcCheck st false r.a f.a ++ srcCheck st false r.b f.b ++
  sub (isRep r.a f.a || isRep r.b f.b) 2 ++
  sub (!r.off && f.off != 0#20) 4 ++ sub (!r.sizes.contains f.size) 3 ++ sub (!r.scale && f.scale != 0#2) 4 ++
  sub (!r.orders.contains f.order) 3 ++ sub (!r.scope && f.scope != .grp) 3 ++
  sub (!r.policy && f.policy != .dflt) 3 ++ sub (!r.subs.contains f.sub.toNat) 3 ++ r.extra

def bCheck (st : Stream) (f : BForm) (d a : Option Slot) (tgt rcv hint : Bool) : List Nat :=
  dstCheck st true d f.d ++ srcCheck st true a f.a ++ sub (isRep a f.a) 2 ++
  sub (!tgt && f.tgt != 0#23) 4 ++ sub (!rcv && f.rcv != 0#23) 4 ++ sub (!hint && f.hint != 0#2) 4 ++ sub f.mbz 4

/-- What an E-format entry accepts. -/
structure ERow where
  d : Option Slot := none
  a : Option Slot := none
  b : Option Slot := none
  c : Option Slot := none
  chan : Bool := false
  flags : Bool := false
  sub : Nat := 0
  extra : List Nat := []

def eCheck (st : Stream) (f : EForm) (r : ERow) : List Nat :=
  dstCheck st false r.d f.d ++ srcCheck st false r.a f.a ++ srcCheck st false r.b f.b ++ srcCheck st false r.c f.c ++
  sub (isRep r.a f.a || isRep r.b f.b || isRep r.c f.c) 2 ++
  sub (!r.chan && f.chan != 0#5) 3 ++ sub (!r.flags && f.flags != 0#8) 3 ++ sub (f.sub.toNat != r.sub) 3 ++ r.extra

def kCheck (st : Stream) (f : KForm) (d a b c : Option Slot) (fmts subOk : Bool) : List Nat :=
  dstCheck st false d f.d ++ srcCheck st false a f.a ++ srcCheck st false b f.b ++ srcCheck st false c f.c ++
  sub (isRep a f.a || isRep b f.b || isRep c f.c) 2 ++
  sub (!fmts && (f.afmt != 0#5 || f.bfmt != 0#5 || f.kc != 0#2 || f.hold || f.zacc || f.bkind != 0#2)) 4 ++
  sub (!subOk) 3

/-! Slots. -/
def V : Option Slot := some (.mk true false false false false false .one false)
def VT : Option Slot := some (.mk true false false false false false .ty false)
def VP : Option Slot := some (.mk true false false false false false .pair false)
def V0 : Option Slot := some (.mk true false false false false false .one true)
def S : Option Slot := some (.mk false true false false false false .one false)
def S0 : Option Slot := some (.mk false true false false false false .one true)
def SP : Option Slot := some (.mk false true false false false false .pair false)
def S4 : Option Slot := some (.mk false true false false false false .quad false)
def VS : Option Slot := some (.mk true true false false false false .one false)
def VSP : Option Slot := some (.mk true true false false false false .pair false)
def P : Option Slot := some (.mk false false false true false false .one false)
def X : Option Slot := some (.mk true true true false false false .ty false)
def X1 : Option Slot := some (.mk true true true false false false .one false)
def X2 : Option Slot := some (.mk true true true false false false .pair false)
def SX : Option Slot := some (.mk false true true false false false .one false)
def TA : Option Slot := some (.mk false false false false true false .one false)
def ACC : Option Slot := some (.mk false false false false false true .one false)
def ACCP : Option Slot := some (.mk false false false false false true .pair false)
def vec (w : Wid) : Option Slot := some (.mk true false false false false false w false)
def scl (w : Wid) : Option Slot := some (.mk false true false false false false w false)

/-! Type lists (R75, R94). -/
def tInt : List Ty := [.s32, .n32, .s64, .n64, .s16x2, .n16x2, .s8x4, .n8x4]
def tSint : List Ty := [.s32, .s64, .s16x2, .s8x4]
def tBits : List Ty := [.b32, .b64]
def tW32 : List Ty := [.s32, .n32]
def tFlt : List Ty := [.f32, .f64, .f16x2, .bf16x2]
def tApx : List Ty := [.f32, .f16x2, .bf16x2]
def tDiv : List Ty := [.s32, .n32, .s64, .n64]
def tCmp : List Ty := [.s32, .n32, .s64, .n64, .b32, .b64]

/-- Element format codes of class 0x4 (R100): slot width in bits, 0 for a reserved code. -/
def fmtWidth (c : Nat) : Nat :=
  match c with
  | 0 | 1 | 8 | 12 => 32
  | 2 | 3 | 9 => 64
  | 4 | 5 | 10 | 11 => 16
  | 6 | 7 | 13 | 14 | 15 | 16 | 17 | 19 => 8
  | 18 | 20 | 21 => 4
  | _ => 0

/-- Integer format codes of R100. -/
def fmtIsInt (c : Nat) : Bool := c ≤ 7 || c == 20 || c == 21

/-- A conversion with e8m0 on one side needs a float on the other (R101); e8m0 itself does not count as one (DEDUCED, log
28). -/
def e8m0Ok (x y : Nat) : Bool :=
  !(x == 19 && (fmtIsInt y || y == 19)) && !(y == 19 && (fmtIsInt x || x == 19))

/-- The wide formats of v.pack and v.unpack (R102, R103) as codes of R100. -/
def wideCode (c : Nat) : Nat :=
  match c with
  | 0 => 8
  | 1 => 10
  | 2 => 11
  | 3 => 0
  | _ => 1

/-- The scale formats of v.scl (R104) as codes of R100. -/
def scaleCode (c : Nat) : Nat :=
  match c with
  | 0 => 19
  | 1 => 13
  | 2 => 10
  | 3 => 11
  | _ => 8

/-- Element codes of v.scl (R104). -/
def sclElem (c : Nat) : Bool := [18, 16, 17, 13, 14, 6, 20].contains c

/-- Condition codes of s.cmp and v.cmp (R81). -/
def condCheck (t : Ty) (op : BitVec 5) : List Nat :=
  sub (8 ≤ op.toNat || ((t == .b32 || t == .b64) && 2 ≤ op.toNat && op.toNat ≤ 5)) 3

/-- Types of a v.scan or v.red operator (R116). -/
def scanTys (opr : Nat) : List Ty :=
  match opr with
  | 0 | 1 | 2 => [.s32, .n32, .s64, .n64, .f32, .f64]
  | 3 | 4 | 5 => [.b32, .b64]
  | _ => []

def scanRow (t : Ty) (op : BitVec 5) (c : Option Slot) (opOk : Bool) : NRow :=
  let opr := op.toNat % 8
  let add := opr == 0
  { d := VT, a := X, c := c, tys := scanTys opr,
    rnd := add && (t == .f32 || t == .f64), sat := add && t != .f32 && t != .f64,
    op := true, extra := sub (!opOk || 5 < opr) 3 }

/-- The type that size and scale select in class 0x9 (R160). -/
def atomTy (sz : Sz) (k : BitVec 2) : Option (Ty × Ty) :=
  match sz, k.toNat with
  | .w, 0 => some (.s32, .s32)
  | .w, 1 => some (.n32, .b32)
  | .w, 2 => some (.f32, .f32)
  | .w, 3 => some (.bf16x2, .bf16x2)
  | .d, 0 => some (.s64, .s64)
  | .d, 1 => some (.n64, .b64)
  | .d, 2 => some (.f64, .f64)
  | _, _ => none

def atomTyOk (f : MForm) (tys : List Ty) : Bool :=
  match atomTy f.size f.scale with
  | some (t, u) => tys.contains t || tys.contains u
  | none => false

/-- The base operand of a global, scratch or window access (R149). -/
def baseSlot (global scalarOk vectorOk : Bool) : Option Slot :=
  some { v := vectorOk, s := scalarOk, wid := if global then .pair else .one }

/-- Rows of class 0x9 read-modify-write forms (R148, R159, R160). -/
def atomRow (f : MForm) (tys : List Ty) (orders : List Order) (cas : Bool) (subs : List Nat) : MRow :=
  let w := if f.size == .d then Wid.pair else .one
  { d := vec w, a := baseSlot (f.sub.toNat ≤ 2) true true, b := if cas then vec w else none,
    sizes := [.b, .h, .w, .d, .q, .o], scale := true, orders := orders,
    policy := f.sub.toNat ≤ 2, subs := subs, extra := sub (!atomTyOk f tys) 3 }

def allOrders : List Order := [.rlx, .acq, .rel, .acqrel]
def ldOrders : List Order := [.rlx, .acq]
def stOrders : List Order := [.rlx, .rel]
def allSizes : List Sz := [.b, .h, .w, .d, .q, .o]

/-- Rows of the class 0x8 loads and stores (R148-R150, R156). -/
def memRow (f : MForm) (space : Nat) (sOk vOk : Bool) (orders : List Order) : MRow :=
  { d := vec f.size.wid, a := baseSlot (space == 0) sOk vOk, b := V0, sizes := allSizes, scale := true,
    orders := orders, policy := space == 0, subs := [space] }

/-- s.ld and s.st (R70). -/
def sMemRow (st : Stream) (f : MForm) (orders : List Order) : MRow :=
  { d := scl f.size.wid, a := scl (if f.sub == 0#3 then .pair else .one), sizes := [.b, .h, .w, .d], orders := orders,
    subs := if st == .keystone then [0] else [0, 1, 2] }

/-- Flags of the copy commands (R181): the accepted ones, ck, and chain and cmp only with a checksum. -/
def cpFlags (st : Stream) (fl : BitVec 8) (ssp dsp : Bool) : Bool :=
  let vs := st == .vector
  !fl.getLsbD 7 && (fl >>> 2) &&& 3#8 != 3#8 &&
  ((fl >>> 2) &&& 3#8 != 0#8 || (!fl.getLsbD 4 && !fl.getLsbD 5)) &&
  (!fl.getLsbD 1 || (ssp && vs)) && (!fl.getLsbD 0 || (dsp && vs))

/-- A channel of the stream (R176, R180). -/
def chanOk (st : Stream) (c : BitVec 5) : Bool := if st == .keystone then c == 0#5 else c.toNat ≤ 15
/-- A timeline counter of the stream (R176, R180). -/
def ctrOk (st : Stream) (c : BitVec 5) : Bool := if st == .keystone then c == 16#5 else c.toNat ≤ 17

def cpRow (st : Stream) (f : EForm) (a b : Option Slot) (ssp dsp : Bool) : ERow :=
  { d := SP, a := a, b := b, c := S, chan := true, flags := true,
    extra := sub (!chanOk st f.chan) 3 ++ sub (!cpFlags st f.flags ssp dsp) 3 }

/-- A copy address: an even pair, or a scratch offset (R181). -/
def cpAddr (scratch : Bool) : Option Slot := scl (if scratch then .one else .pair)

def scopeFlags (fl : BitVec 8) : Bool := fl.toNat ≤ 4

def kvRow (f : EForm) : ERow := { d := SP, a := SP, chan := true, extra := sub (f.chan != 17#5) 3 }

/-- The matrix format pairings of R61: accumulator type, or none. -/
def pairing (a b : Nat) : Option Ty :=
  let isI8 := fun x => x == 2 || x == 3
  let isI4 := fun x => x == 0 || x == 1
  let f8 := fun x => x == 8 || x == 9 || x == 10
  let f6 := fun x => x == 5 || x == 6 || x == 7
  let h16 := fun x => x == 11 || x == 12
  let mx4 := fun x => x == 16 || x == 18 || x == 19
  let mx8 := fun x => x == 20 || x == 21
  let q := fun x => x == 17 || x == 26
  let g := fun x => x == 23 || x == 24 || x == 25
  if (isI8 a || isI4 a) && (isI8 b || isI4 b) then some .s32
  else if a == 4 && b == 4 then some .s32
  else if (f8 a || f6 a) && (f8 b || f6 b) then some .f32
  else if h16 a && h16 b then some .f32
  else if a == 13 && b == 13 then some .f32
  else if a == 14 && b == 14 then some .f32
  else if a == 15 && b == 15 then some .f64
  else if (mx4 a || mx8 a) && (mx4 b || mx8 b) then some .f32
  else if a == 22 && b == 22 then some .f32
  else if q a && q b then some .f32
  else if g a && a == b then some .f32
  else if (g a && (h16 b || b == 8)) || (g b && (h16 a || a == 8)) then some .f32
  else if (a == 27 && (b == 27 || b == 8)) || (a == 8 && b == 27) then some .f32
  else none

/-- K of the kc field (R26). -/
def kOf (kc : BitVec 2) : Nat := 32 * 2 ^ kc.toNat

/-- The K limits of R50 for one format. -/
def kAllowed (fmt k : Nat) : Bool :=
  match fmt with
  | 15 => k ≤ 64
  | 13 | 14 => k ≤ 128
  | 24 => 64 ≤ k
  | 25 => 128 ≤ k
  | _ => true

/-- k.mma (R214, R50, R61). -/
def mmaCheck (st : Stream) (f : KForm) : List Nat :=
  let a := f.afmt.toNat
  let b := f.bfmt.toNat
  let link := f.bkind == 1#2 || f.bkind == 2#2
  let known := a < 28 && b < 28
  kCheck st f (if a == 15 && b == 15 then ACCP else ACC) TA (if link then none else S4)
    (if a == 26 || b == 26 then SP else none) true
    (f.sub >>> 1 == 0#5 && (link || !f.sub.getLsbD 0) &&
      (!known || ((pairing a b).isSome && kAllowed a (kOf f.kc) && kAllowed b (kOf f.kc))))

/-- Registers that sys.rd and sys.wr name (R229): width in bits, or none when the number is unassigned. -/
def ctlWidth (n : Nat) : Option Nat :=
  if n == 0x000 || n == 0x001 || n == 0x009 || n == 0x010 || n == 0x040 || n == 0x048 || n == 0x050 || n == 0x060 then
    some 32
  else if n == 0x008 || n == 0x00A || (0x018 ≤ n && n ≤ 0x01B) || n == 0x020 || n == 0x021 || n == 0x024 || n == 0x025 ||
      n == 0x030 || n == 0x038 || (0x400 ≤ n && n ≤ 0x7FF) then some 64
  else none

/-- The register operand of sys.rd and sys.wr: a pair for a 64-bit register. -/
def ctlSlot (imm : W32) : Option Slot := scl (if ctlWidth (imm.toNat % 4096) == some 64 then .pair else .one)

/-- Rows of class 0xE in N form: no replication, no type (R227). -/
def sysRow (d a b c : Option Slot) : NRow := { d := d, a := a, b := b, c := c, aux := .own true, op := true }

def sysCheck (st : Stream) (f : NForm) (d a b c : Option Slot) (op : Bool) : List Nat :=
  nCheck st f { sysRow d a b c with aux := .own (f.aux == 0#6), extra := sub (!op) 3 }

/-- An N-format entry without type, round, sat and aux (R131, R176). -/
def plain (f : NForm) (d a b c : Option Slot) (op : Bool) : NRow :=
  { d := d, a := a, b := b, c := c, aux := .own (f.aux == 0#6), op := true, extra := sub (!op) 3 }

def cvtCheck (st : Stream) (f : NForm) : List Nat :=
  let s := f.op.toNat
  let d := f.aux.toNat % 32
  nCheck st f
    { d := vec (if fmtWidth d == 64 then .pair else .one), a := if fmtWidth s == 64 then X2 else X1,
      rnd := true, sat := true, op := true,
      aux := .own (!f.aux.getLsbD 5 && fmtWidth d != 0), extra := sub (fmtWidth s == 0 || !e8m0Ok s d) 3 }

def packCheck (st : Stream) (f : NForm) : List Nat :=
  let s := f.op.toNat % 8
  let j := f.op.toNat / 8
  let d := f.aux.toNat % 32
  let w := fmtWidth d
  nCheck st f
    { d := V, a := X1, b := X1, c := X1, rnd := true, sat := true, op := true,
      aux := .own (!f.aux.getLsbD 5 && w != 0 && w ≤ 16),
      extra := sub (4 < s || (w != 0 && w ≤ 16 && (32 / w) / 2 ≤ j) || !e8m0Ok (wideCode s) d) 3 }

def unpackCheck (st : Stream) (f : NForm) : List Nat :=
  let d := wideCode (f.op.toNat % 8)
  let s := f.aux.toNat % 32
  let k := f.op.toNat / 8 + (if f.aux.getLsbD 5 then 4 else 0)
  let ws := fmtWidth s
  let p := 32 / fmtWidth d
  nCheck st f
    { d := V, a := X1, rnd := true, sat := true, op := true,
      aux := .own (ws != 0 && ws ≤ 16),
      extra := sub (4 < f.op.toNat % 8 || (ws == 16 && fmtWidth d == 16) || (ws != 0 && 32 / ws < (k + 1) * p) ||
        !e8m0Ok s d) 3 }

def sclCheck (st : Stream) (f : NForm) : List Nat :=
  let e := f.aux.toNat % 32
  nCheck st f
    { d := V, a := X1, op := true, aux := .own (!f.aux.getLsbD 5 && sclElem e),
      extra := sub (4 < f.op.toNat || (e == 20 && f.op.toNat == 0)) 3 }

/-- v.qnt (R105). s4 and n4 elements go with every scale format, e8m0 too (DEDUCED, log 28: R104 refuses s4 with e8m0 where
it computes a scale). -/
def qntCheck (st : Stream) (f : NForm) : List Nat :=
  let e := f.aux.toNat % 32
  nCheck st f
    { d := V, a := X1, b := X1, rnd := true, op := true,
      aux := .own (!f.aux.getLsbD 5 && (sclElem e || e == 21)), extra := sub (4 < f.op.toNat) 3 }

/-- v.dqnt (R105), with the formats of v.qnt. -/
def dqntCheck (st : Stream) (f : NForm) : List Nat :=
  let e := f.aux.toNat % 32
  let k := f.op.toNat / 8 + (if f.aux.getLsbD 5 then 4 else 0)
  nCheck st f
    { d := V, a := X1, b := X1, rnd := true, op := true,
      aux := .own (sclElem e || e == 21),
      extra := sub (4 < f.op.toNat % 8 || (fmtWidth e != 0 && 32 / fmtWidth e ≤ k)) 3 }

/-- s.rdsr (R71): D is a pair for sr.clk and for a predicate. -/
def rdsrCheck (st : Stream) (f : NForm) : List Nat :=
  let wide := f.a.cls == .spec && (f.a.idx.toNat < 16 || f.a.idx == 0x20#8)
  nCheck st f
    { d := if wide then SP else S, aux := .own (f.aux == 0#6),
      a := some { sp := true, p := true, wid := if f.a.idx == 0x20#8 then .pair else .one } }

/-- s.cmp's destination: a scalar register or a predicate (R69). -/
def SPr : Option Slot := some (.mk false true false true false false .one false)

/-- An op value above the listed ones (R27). -/
def opLe (op : BitVec 5) (n : Nat) : List Nat := sub (n < op.toNat) 3

/-- k.pass (R220). -/
def passRow (f : EForm) : ERow :=
  let mem := f.flags.toNat / 4 % 4 == 0 || f.flags.toNat / 4 % 4 == 3
  { d := SP, b := if mem then S4 else none, c := if mem then S else none, flags := true,
    extra := sub (1 < f.flags.toNat % 4 || 15 < f.flags.toNat) 3 }

/-- The 10-bit opcode (R13, R31) of an instruction; 0 for a device event, which no word encodes. -/
def Instr.opcode : Instr → Nat
  | .sAdd _ _ => 0x001
  | .sAddImm _ _ => 0x001
  | .sSub _ _ => 0x002
  | .sSubImm _ _ => 0x002
  | .sMul _ _ => 0x003
  | .sMulImm _ _ => 0x003
  | .sMulhi _ _ => 0x004
  | .sMulhiImm _ _ => 0x004
  | .sMad _ _ => 0x005
  | .sAnd _ _ => 0x006
  | .sAndImm _ _ => 0x006
  | .sOr _ _ => 0x007
  | .sOrImm _ _ => 0x007
  | .sXor _ _ => 0x008
  | .sXorImm _ _ => 0x008
  | .sShl _ _ => 0x009
  | .sShlImm _ _ => 0x009
  | .sShr _ _ => 0x00A
  | .sShrImm _ _ => 0x00A
  | .sSar _ _ => 0x00B
  | .sSarImm _ _ => 0x00B
  | .sMin _ _ => 0x00C
  | .sMinImm _ _ => 0x00C
  | .sMax _ _ => 0x00D
  | .sMaxImm _ _ => 0x00D
  | .sCmp _ _ => 0x00E
  | .sCmpImm _ _ => 0x00E
  | .sSel _ _ => 0x00F
  | .sMov _ _ => 0x010
  | .sLi _ _ => 0x011
  | .sLih _ _ => 0x012
  | .sAdd64 _ _ => 0x013
  | .sAdd64Imm _ _ => 0x013
  | .sSub64 _ _ => 0x014
  | .sSub64Imm _ _ => 0x014
  | .sMul64 _ _ => 0x015
  | .sMul64Imm _ _ => 0x015
  | .sPopc _ _ => 0x016
  | .sClz _ _ => 0x017
  | .sBfe _ _ => 0x018
  | .sBfeImm _ _ => 0x018
  | .sBfi _ _ => 0x019
  | .sDivs _ _ => 0x01A
  | .sDivsImm _ _ => 0x01A
  | .sDivn _ _ => 0x01B
  | .sDivnImm _ _ => 0x01B
  | .sLd _ _ => 0x01C
  | .sSt _ _ => 0x01D
  | .sRdsr _ _ => 0x01E
  | .sVrd _ _ => 0x01F
  | .sVwr _ _ => 0x020
  | .vAdd _ _ => 0x041
  | .vAddImm _ _ => 0x041
  | .vSub _ _ => 0x042
  | .vSubImm _ _ => 0x042
  | .vAddx _ _ => 0x043
  | .vSubx _ _ => 0x044
  | .vMul _ _ => 0x045
  | .vMulImm _ _ => 0x045
  | .vMulhi _ _ => 0x046
  | .vMulhiImm _ _ => 0x046
  | .vMulw _ _ => 0x047
  | .vMulwImm _ _ => 0x047
  | .vMad _ _ => 0x048
  | .vAbs _ _ => 0x049
  | .vNeg _ _ => 0x04A
  | .vMin _ _ => 0x04B
  | .vMinImm _ _ => 0x04B
  | .vMax _ _ => 0x04C
  | .vMaxImm _ _ => 0x04C
  | .vAnd _ _ => 0x04D
  | .vAndImm _ _ => 0x04D
  | .vOr _ _ => 0x04E
  | .vOrImm _ _ => 0x04E
  | .vXor _ _ => 0x04F
  | .vXorImm _ _ => 0x04F
  | .vAndn _ _ => 0x050
  | .vAndnImm _ _ => 0x050
  | .vNot _ _ => 0x051
  | .vShl _ _ => 0x052
  | .vShlImm _ _ => 0x052
  | .vShr _ _ => 0x053
  | .vShrImm _ _ => 0x053
  | .vSar _ _ => 0x054
  | .vSarImm _ _ => 0x054
  | .vRot _ _ => 0x055
  | .vRotImm _ _ => 0x055
  | .vBfe _ _ => 0x056
  | .vBfeImm _ _ => 0x056
  | .vBfi _ _ => 0x057
  | .vPopc _ _ => 0x058
  | .vClz _ _ => 0x059
  | .vCtz _ _ => 0x05A
  | .vBrev _ _ => 0x05B
  | .vMov _ _ => 0x05C
  | .vLi _ _ => 0x05D
  | .vSat _ _ => 0x05E
  | .vDot4 _ _ => 0x05F
  | .vDot2 _ _ => 0x060
  | .vSad _ _ => 0x061
  | .vDiv _ _ => 0x062
  | .vDivImm _ _ => 0x062
  | .vRem _ _ => 0x063
  | .vRemImm _ _ => 0x063
  | .vCmp _ _ => 0x081
  | .vCmpImm _ _ => 0x081
  | .vFcmp _ _ => 0x082
  | .vFcmpImm _ _ => 0x082
  | .pAnd _ _ => 0x083
  | .pOr _ _ => 0x084
  | .pXor _ _ => 0x085
  | .pNot _ _ => 0x086
  | .pMov _ _ => 0x087
  | .vSel _ _ => 0x088
  | .pTovec _ _ => 0x089
  | .pFromvec _ _ => 0x08A
  | .pPopc _ _ => 0x08B
  | .pFirst _ _ => 0x08C
  | .vFadd _ _ => 0x0C1
  | .vFaddImm _ _ => 0x0C1
  | .vFsub _ _ => 0x0C2
  | .vFsubImm _ _ => 0x0C2
  | .vFmul _ _ => 0x0C3
  | .vFmulImm _ _ => 0x0C3
  | .vFma _ _ => 0x0C4
  | .vFmin _ _ => 0x0C5
  | .vFminImm _ _ => 0x0C5
  | .vFmax _ _ => 0x0C6
  | .vFmaxImm _ _ => 0x0C6
  | .vFrcp _ _ => 0x0C7
  | .vFrsq _ _ => 0x0C8
  | .vFsqrt _ _ => 0x0C9
  | .vFdiv _ _ => 0x0CA
  | .vFdivImm _ _ => 0x0CA
  | .vFexp2 _ _ => 0x0CB
  | .vFlog2 _ _ => 0x0CC
  | .vFsin _ _ => 0x0CD
  | .vFcos _ _ => 0x0CE
  | .vFfloor _ _ => 0x0CF
  | .vFround _ _ => 0x0D0
  | .vFclass _ _ => 0x0D1
  | .vFscale _ _ => 0x0D2
  | .vFscaleImm _ _ => 0x0D2
  | .vFgetexp _ _ => 0x0D3
  | .vFdot2 _ _ => 0x0D4
  | .vCvt _ _ => 0x101
  | .vPack _ _ => 0x102
  | .vUnpack _ _ => 0x103
  | .vScl _ _ => 0x104
  | .vQnt _ _ => 0x105
  | .vDqnt _ _ => 0x106
  | .vRngSeed _ _ => 0x107
  | .vRngGets _ _ => 0x107
  | .vRngGetc _ _ => 0x107
  | .vRngDraw _ _ => 0x107
  | .vShfl _ _ => 0x141
  | .vBcast _ _ => 0x142
  | .vVoteAny _ _ => 0x143
  | .vVoteAll _ _ => 0x143
  | .vVoteUni _ _ => 0x143
  | .vVoteBallot _ _ => 0x143
  | .vMatch _ _ => 0x144
  | .vScan _ _ => 0x145
  | .vRed _ _ => 0x146
  | .vCompact _ _ => 0x147
  | .vExpand _ _ => 0x148
  | .vRank _ _ => 0x149
  | .vCrc _ _ => 0x181
  | .vMix _ _ => 0x182
  | .vHmul _ _ => 0x183
  | .vHmulImm _ _ => 0x183
  | .vPart _ _ => 0x184
  | .vBkt _ _ => 0x185
  | .vSld _ _ => 0x186
  | .vScmp _ _ => 0x187
  | .vBfind _ _ => 0x188
  | .vBfindImm _ _ => 0x188
  | .vBmask _ _ => 0x189
  | .vUlen _ _ => 0x18A
  | .vFold _ _ => 0x18B
  | .bra _ _ => 0x1C1
  | .jmp _ _ => 0x1C2
  | .brx _ _ => 0x1C3
  | .call _ _ => 0x1C4
  | .ret _ _ => 0x1C5
  | .join _ _ => 0x1C6
  | .exit _ _ => 0x1C7
  | .yield _ _ => 0x1C8
  | .bar _ _ => 0x1C9
  | .barArv _ _ => 0x1CA
  | .barWt _ _ => 0x1CB
  | .nop _ _ => 0x1CC
  | .trap _ _ => 0x1CD
  | .brk _ _ => 0x1CE
  | .waitcnt _ _ => 0x1CF
  | .sleep _ _ => 0x1D0
  | .launch _ _ => 0x1D1
  | .leaseFp _ _ => 0x1D2
  | .vLd _ _ => 0x201
  | .vSt _ _ => 0x202
  | .vLdg _ _ => 0x203
  | .vStg _ _ => 0x204
  | .vLds _ _ => 0x205
  | .vSts _ _ => 0x206
  | .vLdsw _ _ => 0x207
  | .vStsw _ _ => 0x208
  | .vLdc _ _ => 0x209
  | .vPf _ _ => 0x20A
  | .vFifoPush _ _ => 0x20B
  | .vFifoPop _ _ => 0x20C
  | .aAdd _ _ => 0x241
  | .aMin _ _ => 0x242
  | .aMax _ _ => 0x243
  | .aAnd _ _ => 0x244
  | .aOr _ _ => 0x245
  | .aXor _ _ => 0x246
  | .aXchg _ _ => 0x247
  | .aCas _ _ => 0x248
  | .aInc _ _ => 0x249
  | .aFadd _ _ => 0x24A
  | .aFmin _ _ => 0x24B
  | .aFmax _ _ => 0x24C
  | .redAdd _ _ => 0x24D
  | .redFadd _ _ => 0x24E
  | .redDet _ _ => 0x24F
  | .redFlushDrain _ _ => 0x250
  | .redFlushCommit _ _ => 0x250
  | .leaseAcq _ _ => 0x251
  | .leaseRel _ _ => 0x252
  | .waitAddr _ _ => 0x253
  | .fence _ _ => 0x281
  | .fenceCode _ _ => 0x282
  | .fenceEng _ _ => 0x283
  | .bankCfg _ _ => 0x284
  | .bankCfgImm _ _ => 0x284
  | .bankQry _ _ => 0x285
  | .shareJoin _ _ => 0x286
  | .shareLeave _ _ => 0x287
  | .spMap _ _ => 0x288
  | .spUnmap _ _ => 0x289
  | .spWb _ _ => 0x28A
  | .spInv _ _ => 0x28B
  | .cp _ _ => 0x2C1
  | .cpMc _ _ => 0x2C2
  | .cpX _ _ => 0x2C3
  | .cpFill _ _ => 0x2C4
  | .cpGth _ _ => 0x2C5
  | .cpSct _ _ => 0x2C6
  | .tcWait _ _ => 0x2C7
  | .tcGet _ _ => 0x2C8
  | .tcErr _ _ => 0x2C9
  | .chWp _ _ => 0x2CA
  | .chRst _ _ => 0x2CB
  | .chSumGet _ _ => 0x2CC
  | .chSumSet _ _ => 0x2CC
  | .chSumExp _ _ => 0x2CC
  | .rsHintKeep _ _ => 0x301
  | .rsHintDrop _ _ => 0x301
  | .rsHintFetch _ _ => 0x301
  | .rsEvict _ _ => 0x302
  | .rsEvictInv _ _ => 0x302
  | .rsQry _ _ => 0x303
  | .mTr _ _ => 0x304
  | .mRed _ _ => 0x305
  | .kvMatch _ _ => 0x306
  | .kvInsert _ _ => 0x307
  | .kvFork _ _ => 0x308
  | .kvRef _ _ => 0x309
  | .kvUnref _ _ => 0x30A
  | .kvAppend _ _ => 0x30B
  | .kvXlat _ _ => 0x30C
  | .kvQry _ _ => 0x30D
  | .kMma _ _ => 0x341
  | .kLda _ _ => 0x342
  | .kZero _ _ => 0x343
  | .kScale _ _ => 0x344
  | .kDrain _ _ => 0x345
  | .kPass _ _ => 0x346
  | .kRecv _ _ => 0x347
  | .kStat _ _ => 0x348
  | .vAccrd _ _ => 0x349
  | .vAccwr _ _ => 0x34A
  | .sysRd _ _ => 0x381
  | .sysWr _ _ => 0x382
  | .sysRfe _ _ => 0x383
  | .sysTlbiVa _ _ => 0x384
  | .sysTlbiAs _ _ => 0x384
  | .sysTlbiAll _ _ => 0x384
  | .sysHaltCore _ _ => 0x385
  | .sysHaltResume _ _ => 0x385
  | .sysIdle _ _ => 0x386
  | .preMask _ _ => 0x387
  | .preUnmask _ _ => 0x388
  | .sysSig _ _ => 0x389
  | .sysFqackRetry _ _ => 0x38A
  | .sysFqackSkip _ _ => 0x38A
  | .sysFqackKill _ _ => 0x38A
  | .sysFqackResume _ _ => 0x38A
  | .sysFqackFail _ _ => 0x38A
  | .sysDirq _ _ => 0x38B
  | .sysDirrcZero _ _ => 0x38C
  | .sysDirrcCopy _ _ => 0x38C
  | .sysDirrcKeep _ _ => 0x38C
  | .sysWatch _ _ => 0x38D
  | .sysSwatch _ _ => 0x38E
  | .partitionIssueSelection _ _ => 0
  | .candidatePromotion _ _ _ => 0
  | .stallHoldEnd _ => 0
  | .fixedLatencyWriteback _ => 0
  | .loadReply _ => 0
  | .storeAcknowledge _ => 0
  | .taskDone _ => 0
  | .queueTailWake _ _ => 0
  | .launchRecord _ _ => 0
  | .semaphoreWait _ _ => 0
  | .semaphoreSignal _ _ => 0
  | .taskAdmission _ => 0
  | .dispatchStarvation _ => 0
  | .dispatcherSteal _ => 0
  | .parkFrameWrite _ => 0
  | .parkedGroupReturn _ => 0
  | .footprintReview _ => 0
  | .measuredLeaseWindow _ => 0
  | .fpgateWrite _ => 0
  | .logicalTimeTick _ => 0
  | .tsleaseWrite _ => 0
  | .homeAccess _ => 0
  | .frequencyAgeHalving _ => 0
  | .lineLeaseExpiry _ _ => 0
  | .watchWake _ => 0
  | .waitAddrTimeout _ => 0
  | .sleepExpiry _ => 0
  | .sysIdleWake _ => 0
  | .faultSetWrite _ => 0
  | .preqPreemptLaunch _ _ => 0
  | .preqPreemptCore _ _ => 0
  | .preqResumeLaunch _ _ => 0
  | .preqResumeCore _ _ => 0
  | .preemptionSequence _ => 0
  | .maskBudgetExpiry _ => 0
  | .savedTaskReturn _ => 0
  | .engineCommandAccept _ => 0
  | .copyChunkExecute _ => 0
  | .chunkSteal _ => 0
  | .remoteChunkAcknowledge _ => 0
  | .kvCommandExecute _ => 0
  | .kvPageRefetch _ _ => 0
  | .matrixCommandStart _ => 0
  | .matrixCommandComplete _ => 0
  | .accumulatorAccessComplete _ => 0
  | .keystoneBindingRelease _ => 0
  | .bankSwitchPoint _ _ => 0
  | .contractInstall _ _ => 0
  | .contractChange _ _ _ => 0
  | .contractRemoval _ _ => 0
  | .contractLineMove _ _ => 0
  | .treeEnable _ _ => 0
  | .treeEnableComplete _ => 0
  | .treeDisable _ _ => 0
  | .treeDisableComplete _ => 0
  | .pubreqWrite _ => 0
  | .publicationComplete => 0
  | .sweeperVisit => 0
  | .trafficWindowStart _ _ => 0
  | .controlRegisterWrite _ _ => 0
  | .ringGateDecision _ => 0
  | .ringSegmentGate _ => 0
  | .ringSegmentWake _ => 0
  | .recallAnswer _ _ => 0
  | .voluntaryReturn _ _ => 0
  | .recallTimerExpiry _ => 0
  | .ashlarRequest _ => 0
  | .ashlarAcknowledgement _ _ _ => 0
  | .ashlarFlitReceive _ _ _ _ => 0
  | .ashlarRetryRequest _ _ => 0
  | .linkRetrain _ _ => 0
  | .remoteRequestTimeout _ => 0
  | .cxlMemRequest _ _ => 0
  | .hostSnoop _ _ _ => 0
  | .globalObservation _ => 0
  | .ideIntegrityFailure _ => 0
  | .ideKm _ _ _ => 0
  | .getVersion _ => 0
  | .getCapabilities _ => 0
  | .negotiateAlgorithms _ => 0
  | .getDigests _ => 0
  | .getCertificate _ _ => 0
  | .challenge _ _ => 0
  | .getMeasurements _ _ _ => 0
  | .keyExchange _ _ => 0
  | .finish _ _ => 0
  | .heartbeat _ => 0
  | .endSession _ => 0
  | .unsupportedRequest _ _ => 0
  | .packageReset _ => 0
  | .correctedError _ => 0
  | .uncorrectedError _ _ => 0
  | .errorCountHalving => 0
  | .islandPowerChange _ _ => 0
  | .keystoneIssue _ => 0

/-- The sub-causes of illegal operand that a term meets (R27, R32), whatever the word's other faults. A device event
meets none. -/
def Instr.check (st : Stream) : Instr → List Nat
  | .sAdd _ f => nCheck st f { d := S, a := S, b := S }
  | .sAddImm _ f => iCheck st f { d := S, a := S, b := S }
  | .sSub _ f => nCheck st f { d := S, a := S, b := S }
  | .sSubImm _ f => iCheck st f { d := S, a := S, b := S }
  | .sMul _ f => nCheck st f { d := S, a := S, b := S }
  | .sMulImm _ f => iCheck st f { d := S, a := S, b := S }
  | .sMulhi _ f => nCheck st f { d := S, a := S, b := S, tys := tW32 }
  | .sMulhiImm _ f => iCheck st f { d := S, a := S, b := S, tys := tW32 }
  | .sMad _ f => nCheck st f { d := S, a := S, b := S, c := S }
  | .sAnd _ f => nCheck st f { d := S, a := S, b := S }
  | .sAndImm _ f => iCheck st f { d := S, a := S, b := S }
  | .sOr _ f => nCheck st f { d := S, a := S, b := S }
  | .sOrImm _ f => iCheck st f { d := S, a := S, b := S }
  | .sXor _ f => nCheck st f { d := S, a := S, b := S }
  | .sXorImm _ f => iCheck st f { d := S, a := S, b := S }
  | .sShl _ f => nCheck st f { d := S, a := S, b := S }
  | .sShlImm _ f => iCheck st f { d := S, a := S, b := S }
  | .sShr _ f => nCheck st f { d := S, a := S, b := S }
  | .sShrImm _ f => iCheck st f { d := S, a := S, b := S }
  | .sSar _ f => nCheck st f { d := S, a := S, b := S }
  | .sSarImm _ f => iCheck st f { d := S, a := S, b := S }
  | .sMin _ f => nCheck st f { d := S, a := S, b := S, tys := tW32 }
  | .sMinImm _ f => iCheck st f { d := S, a := S, b := S, tys := tW32 }
  | .sMax _ f => nCheck st f { d := S, a := S, b := S, tys := tW32 }
  | .sMaxImm _ f => iCheck st f { d := S, a := S, b := S, tys := tW32 }
  | .sCmp _ f => nCheck st f { d := SPr, a := S, b := S, tys := tW32, op := true, extra := condCheck f.ty f.op }
  | .sCmpImm _ f => iCheck st f { d := SPr, a := S, b := S, tys := tW32, op := true, extra := condCheck f.ty f.op }
  | .sSel _ f => nCheck st f { d := S, a := S, b := S, c := S }
  | .sMov _ f => nCheck st f { d := S, a := S }
  | .sLi _ f => iCheck st f { d := S }
  | .sLih _ f => iCheck st f { d := SP }
  | .sAdd64 _ f => nCheck st f { d := SP, a := SP, b := SP, tys := [.s64, .n64] }
  | .sAdd64Imm _ f => iCheck st f { d := SP, a := SP, b := SP, tys := [.s64, .n64] }
  | .sSub64 _ f => nCheck st f { d := SP, a := SP, b := SP, tys := [.s64, .n64] }
  | .sSub64Imm _ f => iCheck st f { d := SP, a := SP, b := SP, tys := [.s64, .n64] }
  | .sMul64 _ f => nCheck st f { d := SP, a := SP, b := SP, tys := [.s64, .n64] }
  | .sMul64Imm _ f => iCheck st f { d := SP, a := SP, b := SP, tys := [.s64, .n64] }
  | .sPopc _ f => nCheck st f { d := S, a := S }
  | .sClz _ f => nCheck st f { d := S, a := S }
  | .sBfe _ f => nCheck st f { d := S, a := S, b := S, tys := tW32 }
  | .sBfeImm _ f => iCheck st f { d := S, a := S, b := S, tys := tW32 }
  | .sBfi _ f => nCheck st f { d := S, a := S, b := S, c := S }
  | .sDivs _ f => nCheck st f { d := S, a := S, b := S, op := true, extra := opLe f.op 1 }
  | .sDivsImm _ f => iCheck st f { d := S, a := S, b := S, op := true, extra := opLe f.op 1 }
  | .sDivn _ f => nCheck st f { d := S, a := S, b := S, op := true, extra := opLe f.op 1 }
  | .sDivnImm _ f => iCheck st f { d := S, a := S, b := S, op := true, extra := opLe f.op 1 }
  | .sLd _ f => mCheck st f (sMemRow st f ldOrders)
  | .sSt _ f => mCheck st f (sMemRow st f stOrders)
  | .sRdsr _ f => rdsrCheck st f
  | .sVrd _ f => nCheck st f { d := S, a := V, b := S }
  | .sVwr _ f => nCheck st f { d := V, a := S, b := S }
  | .vAdd _ f => nCheck st f { d := VT, a := X, b := X, tys := tInt, sat := true }
  | .vAddImm _ f => iCheck st f { d := VT, a := X, b := X, tys := tInt, sat := true }
  | .vSub _ f => nCheck st f { d := VT, a := X, b := X, tys := tInt, sat := true }
  | .vSubImm _ f => iCheck st f { d := VT, a := X, b := X, tys := tInt, sat := true }
  | .vAddx _ f => nCheck st f { d := V, a := X1, b := X1, c := P, tys := [.n32] }
  | .vSubx _ f => nCheck st f { d := V, a := X1, b := X1, c := P, tys := [.n32] }
  | .vMul _ f => nCheck st f { d := VT, a := X, b := X, tys := tInt, sat := true }
  | .vMulImm _ f => iCheck st f { d := VT, a := X, b := X, tys := tInt, sat := true }
  | .vMulhi _ f => nCheck st f { d := V, a := X1, b := X1, tys := tW32 }
  | .vMulhiImm _ f => iCheck st f { d := V, a := X1, b := X1, tys := tW32 }
  | .vMulw _ f => nCheck st f { d := VP, a := X1, b := X1, tys := tW32 }
  | .vMulwImm _ f => iCheck st f { d := VP, a := X1, b := X1, tys := tW32 }
  | .vMad _ f => nCheck st f { d := VT, a := X, b := X, c := X, tys := tInt, sat := true }
  | .vAbs _ f => nCheck st f { d := VT, a := X, tys := tSint, sat := true }
  | .vNeg _ f => nCheck st f { d := VT, a := X, tys := tSint, sat := true }
  | .vMin _ f => nCheck st f { d := VT, a := X, b := X, tys := tInt }
  | .vMinImm _ f => iCheck st f { d := VT, a := X, b := X, tys := tInt }
  | .vMax _ f => nCheck st f { d := VT, a := X, b := X, tys := tInt }
  | .vMaxImm _ f => iCheck st f { d := VT, a := X, b := X, tys := tInt }
  | .vAnd _ f => nCheck st f { d := VT, a := X, b := X, tys := tBits }
  | .vAndImm _ f => iCheck st f { d := VT, a := X, b := X, tys := tBits }
  | .vOr _ f => nCheck st f { d := VT, a := X, b := X, tys := tBits }
  | .vOrImm _ f => iCheck st f { d := VT, a := X, b := X, tys := tBits }
  | .vXor _ f => nCheck st f { d := VT, a := X, b := X, tys := tBits }
  | .vXorImm _ f => iCheck st f { d := VT, a := X, b := X, tys := tBits }
  | .vAndn _ f => nCheck st f { d := VT, a := X, b := X, tys := tBits }
  | .vAndnImm _ f => iCheck st f { d := VT, a := X, b := X, tys := tBits }
  | .vNot _ f => nCheck st f { d := VT, a := X, tys := tBits }
  | .vShl _ f => nCheck st f { d := VT, a := X, b := X, tys := tInt ++ tBits, sat := !tBits.contains f.ty }
  | .vShlImm _ f => iCheck st f { d := VT, a := X, b := X, tys := tInt ++ tBits, sat := !tBits.contains f.ty }
  | .vShr _ f => nCheck st f { d := VT, a := X, b := X, tys := tInt ++ tBits }
  | .vShrImm _ f => iCheck st f { d := VT, a := X, b := X, tys := tInt ++ tBits }
  | .vSar _ f => nCheck st f { d := VT, a := X, b := X, tys := tSint }
  | .vSarImm _ f => iCheck st f { d := VT, a := X, b := X, tys := tSint }
  | .vRot _ f => nCheck st f { d := VT, a := X, b := X, tys := tBits }
  | .vRotImm _ f => iCheck st f { d := VT, a := X, b := X, tys := tBits }
  | .vBfe _ f => nCheck st f { d := V, a := X1, b := X1, tys := tW32 }
  | .vBfeImm _ f => iCheck st f { d := V, a := X1, b := X1, tys := tW32 }
  | .vBfi _ f => nCheck st f { d := V, a := X1, b := X1, c := X1, tys := [.b32] }
  | .vPopc _ f => nCheck st f { d := VT, a := X, tys := tBits }
  | .vClz _ f => nCheck st f { d := VT, a := X, tys := tBits }
  | .vCtz _ f => nCheck st f { d := VT, a := X, tys := tBits }
  | .vBrev _ f => nCheck st f { d := VT, a := X, tys := tBits }
  | .vMov _ f => nCheck st f { d := VT, a := X, tys := tBits }
  | .vLi _ f => iCheck st f { d := VT, tys := [.b32, .f32, .s64, .n64, .f64] }
  | .vSat _ f => nCheck st f { d := VT, a := X, b := X, c := X, tys := tInt }
  | .vDot4 _ f => nCheck st f { d := V, a := X1, b := X1, c := X1, tys := [.s8x4, .n8x4], sat := true }
  | .vDot2 _ f => nCheck st f { d := V, a := X1, b := X1, c := X1, tys := [.s16x2, .n16x2], sat := true }
  | .vSad _ f => nCheck st f { d := V, a := X1, b := X1, c := X1, tys := [.n8x4, .n16x2], sat := true }
  | .vDiv _ f => nCheck st f { d := VT, a := X, b := X, tys := tDiv }
  | .vDivImm _ f => iCheck st f { d := VT, a := X, b := X, tys := tDiv }
  | .vRem _ f => nCheck st f { d := VT, a := X, b := X, tys := tDiv }
  | .vRemImm _ f => iCheck st f { d := VT, a := X, b := X, tys := tDiv }
  | .vCmp _ f => nCheck st f { d := P, a := X, b := X, tys := tCmp, op := true, extra := condCheck f.ty f.op }
  | .vCmpImm _ f => iCheck st f { d := P, a := X, b := X, tys := tCmp, op := true, extra := condCheck f.ty f.op }
  | .vFcmp _ f => nCheck st f { d := P, a := X, b := X, tys := [.f32, .f64], op := true, extra := opLe f.op 7 }
  | .vFcmpImm _ f => iCheck st f { d := P, a := X, b := X, tys := [.f32, .f64], op := true, extra := opLe f.op 7 }
  | .pAnd _ f => nCheck st f { d := P, a := P, b := P, op := true, extra := opLe f.op 3 }
  | .pOr _ f => nCheck st f { d := P, a := P, b := P, op := true, extra := opLe f.op 3 }
  | .pXor _ f => nCheck st f { d := P, a := P, b := P, op := true, extra := opLe f.op 3 }
  | .pNot _ f => nCheck st f { d := P, a := P }
  | .pMov _ f => nCheck st f { d := P, a := P }
  | .vSel _ f => nCheck st f { d := VT, a := X, b := X, c := P, tys := tBits }
  | .pTovec _ f => nCheck st f { d := V, a := P, op := true, extra := opLe f.op 1 }
  | .pFromvec _ f => nCheck st f { d := P, a := X1 }
  | .pPopc _ f => nCheck st f { d := S, a := P }
  | .pFirst _ f => nCheck st f { d := S, a := P }
  | .vFadd _ f => nCheck st f { d := VT, a := X, b := X, tys := tFlt, rnd := true, sat := true }
  | .vFaddImm _ f => iCheck st f { d := VT, a := X, b := X, tys := tFlt, rnd := true, sat := true }
  | .vFsub _ f => nCheck st f { d := VT, a := X, b := X, tys := tFlt, rnd := true, sat := true }
  | .vFsubImm _ f => iCheck st f { d := VT, a := X, b := X, tys := tFlt, rnd := true, sat := true }
  | .vFmul _ f => nCheck st f { d := VT, a := X, b := X, tys := tFlt, rnd := true, sat := true }
  | .vFmulImm _ f => iCheck st f { d := VT, a := X, b := X, tys := tFlt, rnd := true, sat := true }
  | .vFma _ f => nCheck st f { d := VT, a := X, b := X, c := X, tys := tFlt, rnd := true, sat := true }
  | .vFmin _ f => nCheck st f { d := VT, a := X, b := X, tys := tFlt }
  | .vFminImm _ f => iCheck st f { d := VT, a := X, b := X, tys := tFlt }
  | .vFmax _ f => nCheck st f { d := VT, a := X, b := X, tys := tFlt }
  | .vFmaxImm _ f => iCheck st f { d := VT, a := X, b := X, tys := tFlt }
  | .vFrcp _ f => nCheck st f { d := V, a := X1, tys := tApx }
  | .vFrsq _ f => nCheck st f { d := V, a := X1, tys := tApx }
  | .vFsqrt _ f => nCheck st f { d := VT, a := X, tys := tFlt, rnd := true }
  | .vFdiv _ f => nCheck st f { d := VT, a := X, b := X, tys := tFlt, rnd := true }
  | .vFdivImm _ f => iCheck st f { d := VT, a := X, b := X, tys := tFlt, rnd := true }
  | .vFexp2 _ f => nCheck st f { d := V, a := X1, tys := tApx }
  | .vFlog2 _ f => nCheck st f { d := V, a := X1, tys := tApx }
  | .vFsin _ f => nCheck st f { d := V, a := X1, tys := tApx }
  | .vFcos _ f => nCheck st f { d := V, a := X1, tys := tApx }
  | .vFfloor _ f => nCheck st f { d := VT, a := X, tys := tFlt }
  | .vFround _ f => nCheck st f { d := VT, a := X, tys := tFlt, rnd := true }
  | .vFclass _ f => nCheck st f { d := VT, a := X, tys := tFlt }
  | .vFscale _ f => nCheck st f { d := VT, a := X, b := X1, tys := tFlt, rnd := true, sat := true }
  | .vFscaleImm _ f => iCheck st f { d := VT, a := X, b := X1, tys := tFlt, rnd := true, sat := true }
  | .vFgetexp _ f => nCheck st f { d := VT, a := X, tys := tFlt }
  | .vFdot2 _ f =>
      nCheck st f { d := V, a := X1, b := X1, c := X1, tys := [.f16x2, .bf16x2], rnd := true, sat := true }
  | .vCvt _ f => cvtCheck st f
  | .vPack _ f => packCheck st f
  | .vUnpack _ f => unpackCheck st f
  | .vScl _ f => sclCheck st f
  | .vQnt _ f => qntCheck st f
  | .vDqnt _ f => dqntCheck st f
  | .vRngSeed _ f => nCheck st f (plain f none SP S none (f.op == 0#5))
  | .vRngGets _ f => nCheck st f (plain f SP none none none (f.op == 1#5))
  | .vRngGetc _ f => nCheck st f (plain f S none none none (f.op == 2#5))
  | .vRngDraw _ f => nCheck st f (plain f V none none none (f.op == 3#5))
  | .vShfl _ f => nCheck st f { d := VT, a := X, b := X1, c := P, tys := tBits, op := true, extra := opLe f.op 3 }
  | .vBcast _ f =>
      nCheck st f { d := VT, a := X, b := if f.op == 1#5 then none else SX, tys := tBits, op := true,
                    extra := opLe f.op 1 }
  | .vVoteAny _ f => nCheck st f { d := P, a := P, op := true, extra := sub (f.op != 0#5) 3 }
  | .vVoteAll _ f => nCheck st f { d := P, a := P, op := true, extra := sub (f.op != 1#5) 3 }
  | .vVoteUni _ f => nCheck st f { d := P, a := X, tys := tBits, op := true, extra := sub (f.op != 2#5) 3 }
  | .vVoteBallot _ f => nCheck st f { d := SP, a := P, op := true, extra := sub (f.op != 3#5) 3 }
  | .vMatch _ f => nCheck st f { d := VP, a := X, tys := tBits }
  | .vScan _ f => nCheck st f { scanRow f.ty f.op (if f.op.getLsbD 4 then P else none) true with d := VT }
  | .vRed _ f => nCheck st f (scanRow f.ty f.op none (f.op.toNat < 8))
  | .vCompact _ f => nCheck st f { d := VT, a := X, b := P, tys := tBits }
  | .vExpand _ f => nCheck st f { d := VT, a := X, b := P, tys := tBits }
  | .vRank _ f => nCheck st f { d := V, a := X2, op := true, extra := opLe f.op 2 }
  | .vCrc _ f =>
      nCheck st f { d := V, a := X, b := X1, tys := tBits, op := true,
                    extra := sub (f.op.getLsbD 4 || (f.op &&& 3#5 == 3#5 && f.ty == .b32)) 3 }
  | .vMix _ f =>
      nCheck st f { d := if f.op == 1#5 then V else VT, a := X, b := X, tys := [.b64], op := true,
                    extra := opLe f.op 1 }
  | .vHmul _ f =>
      nCheck st f { d := VT, a := X, b := X, tys := tBits,
                    aux := .own (1 ≤ f.aux.toNat && f.aux.toNat ≤ (if f.ty == .b64 then 63 else 32)) }
  | .vHmulImm _ f =>
      iCheck st f { d := VT, a := X, b := X, tys := tBits,
                    aux := .own (1 ≤ f.aux.toNat && f.aux.toNat ≤ (if f.ty == .b64 then 63 else 32)) }
  | .vPart _ f => nCheck st f { d := VT, a := X, b := X, tys := [.n32, .n64] }
  | .vBkt _ f =>
      nCheck st f { d := V, a := X1, b := S, tys := [.s32, .n32, .f32],
                    aux := .own (1 ≤ f.aux.toNat && f.aux.toNat ≤ 32), extra := sub (128 < f.b.idx.toNat + f.aux.toNat) 3 }
  | .vSld _ f =>
      mCheck st f { d := vec f.size.wid, a := baseSlot (f.sub == 0#3) false true, b := X1, sizes := [.w, .d, .q],
                    orders := ldOrders, subs := [0, 1, 2] }
  | .vScmp _ f => nCheck st f { d := V, a := X, b := X, c := X1, tys := tBits, op := true, extra := opLe f.op 1 }
  | .vBfind _ f => nCheck st f { d := V, a := X, b := X1, tys := tBits, op := true, extra := opLe f.op 1 }
  | .vBfindImm _ f => iCheck st f { d := V, a := X, b := X1, tys := tBits, op := true, extra := opLe f.op 1 }
  | .vBmask _ f =>
      nCheck st f { d := VT, a := X, b := if f.op == 8#5 || f.op == 9#5 then X1 else none, tys := tBits,
                    op := true, extra := opLe f.op 9 }
  | .vUlen _ f =>
      nCheck st f { d := V, a := X, b := if f.op == 1#5 then none else X1, tys := tBits, op := true,
                    extra := opLe f.op 1 }
  | .vFold _ f => nCheck st f { d := VT, a := X, tys := tBits, op := true, extra := opLe f.op 1 }
  | .bra _ f => bCheck st f none none true true true
  | .jmp _ f => bCheck st f none none true false true
  | .brx _ f => bCheck st f none VSP false true true
  | .call _ f => bCheck st f VSP none true true true
  | .ret _ f => bCheck st f none VSP false true true
  | .join h f => bCheck st f none none false false false ++ sub (h.gneg || h.gpred != 15#4) 4
  | .exit _ f => nCheck st f (plain f none none none none (f.op == 0#5))
  | .yield _ f => nCheck st f (plain f none none none none (f.op == 0#5))
  | .bar _ f => iCheck st f { a := S0, aux := .own (f.aux == 0#6), extra := sub (15 < f.imm.toNat) 4 }
  | .barArv _ f => iCheck st f { a := S0, aux := .own (f.aux == 0#6), extra := sub (15 < f.imm.toNat) 4 }
  | .barWt _ f => iCheck st f { a := S0, aux := .own (f.aux == 0#6), extra := sub (15 < f.imm.toNat) 4 }
  | .nop _ f => nCheck st f (plain f none none none none (f.op == 0#5))
  | .trap _ f => iCheck st f { aux := .own (f.aux == 0#6) }
  | .brk _ f => iCheck st f { aux := .own (f.aux == 0#6) }
  | .waitcnt _ f => iCheck st f { aux := .own (f.aux == 0#6), extra := sub (f.imm &&& 0xF0E0C0C0#32 != 0#32) 4 }
  | .sleep _ f => iCheck st f { aux := .own (f.aux == 0#6) }
  | .launch _ f => nCheck st f (plain f S SP S none (f.op == 0#5))
  | .leaseFp _ f => iCheck st f { aux := .own (f.aux == 0#6) }
  | .vLd _ f => mCheck st f (memRow f 0 true false ldOrders)
  | .vSt _ f => mCheck st f (memRow f 0 true false stOrders)
  | .vLdg _ f => mCheck st f (memRow f 0 false true ldOrders)
  | .vStg _ f => mCheck st f (memRow f 0 false true stOrders)
  | .vLds _ f => mCheck st f (memRow f 1 true true ldOrders)
  | .vSts _ f => mCheck st f (memRow f 1 true true stOrders)
  | .vLdsw _ f => mCheck st f (memRow f 2 true true ldOrders)
  | .vStsw _ f => mCheck st f (memRow f 2 true true stOrders)
  | .vLdc _ f => mCheck st f { memRow f 0 true false ldOrders with b := none, scale := false }
  | .vPf _ f => mCheck st f { memRow f 0 true true [.rlx] with d := none }
  | .vFifoPush _ f => nCheck st f { a := VT, b := S, tys := tBits, aux := .lane0 }
  | .vFifoPop _ f => nCheck st f { d := VT, b := S, tys := tBits, aux := .own (f.aux == 0#6) }
  | .aAdd _ f => mCheck st f (atomRow f [.s32, .n32, .s64, .n64] allOrders false [0, 1, 2, 3, 4])
  | .aMin _ f => mCheck st f (atomRow f [.s32, .n32, .s64, .n64] allOrders false [0, 1, 2, 3, 4])
  | .aMax _ f => mCheck st f (atomRow f [.s32, .n32, .s64, .n64] allOrders false [0, 1, 2, 3, 4])
  | .aAnd _ f => mCheck st f (atomRow f [.b32, .b64] allOrders false [0, 1, 2, 3, 4])
  | .aOr _ f => mCheck st f (atomRow f [.b32, .b64] allOrders false [0, 1, 2, 3, 4])
  | .aXor _ f => mCheck st f (atomRow f [.b32, .b64] allOrders false [0, 1, 2, 3, 4])
  | .aXchg _ f => mCheck st f (atomRow f [.b32, .b64] allOrders false [0, 1, 2, 3, 4])
  | .aCas _ f => mCheck st f (atomRow f [.b32, .b64] allOrders true [0, 1, 2, 3, 4])
  | .aInc _ f => mCheck st f (atomRow f [.n32] allOrders false [0, 1, 2, 3, 4])
  | .aFadd _ f => mCheck st f (atomRow f [.f32, .f64, .bf16x2] allOrders false [0, 1, 2, 3, 4])
  | .aFmin _ f => mCheck st f (atomRow f [.f32, .f64] allOrders false [0, 1, 2, 3, 4])
  | .aFmax _ f => mCheck st f (atomRow f [.f32, .f64] allOrders false [0, 1, 2, 3, 4])
  | .redAdd _ f => mCheck st f (atomRow f [.s32, .n32, .s64, .n64] stOrders false [0, 1, 2, 3, 4])
  | .redFadd _ f => mCheck st f (atomRow f [.f32, .f64, .bf16x2] stOrders false [0, 1, 2, 3, 4])
  | .redDet _ f => mCheck st f (atomRow f [.f32, .f64] stOrders false [0])
  | .redFlushDrain _ f => nCheck st f (plain f none none none none (f.op == 0#5))
  | .redFlushCommit _ f => nCheck st f (plain f S none none none (f.op == 1#5))
  | .leaseAcq _ f => mCheck st f { d := P, a := SP, orders := ldOrders, policy := false }
  | .leaseRel _ f => mCheck st f { d := P, a := SP, orders := stOrders, policy := false }
  | .waitAddr _ f =>
      mCheck st f { d := S, a := SP, b := scl (if f.size == .d then .pair else .one), sizes := [.w, .d],
                    orders := ldOrders }
  | .fence _ f => mCheck st f { off := false, orders := [.acq, .rel, .acqrel], policy := false }
  | .fenceCode _ f => mCheck st f { off := false, policy := false }
  | .fenceEng _ f => mCheck st f { off := false, policy := false }
  | .bankCfg _ f => nCheck st f (plain f S S S none (f.op == 0#5))
  | .bankCfgImm _ f => iCheck st f { d := S, a := S, aux := .own (f.aux == 0#6), extra := sub (2 < f.imm.toNat) 3 }
  | .bankQry _ f => nCheck st f (plain f SP none none none (f.op == 0#5))
  | .shareJoin _ f => nCheck st f (plain f S S none none (f.op == 0#5))
  | .shareLeave _ f => nCheck st f (plain f none none none none (f.op == 0#5))
  | .spMap _ f => nCheck st f (plain f S SP S S (f.op == 0#5))
  | .spUnmap _ f => nCheck st f (plain f S SP none none (f.op.toNat ≤ 1))
  | .spWb _ f => nCheck st f (plain f none SP S none (f.op == 0#5))
  | .spInv _ f => nCheck st f (plain f none SP S none (f.op == 0#5))
  | .cp _ f => eCheck st f (cpRow st f (cpAddr (f.flags.getLsbD 0)) (cpAddr (f.flags.getLsbD 1)) true true)
  | .cpMc _ f => eCheck st f (cpRow st f SP SP false false)
  | .cpX _ f => eCheck st f (cpRow st f SP SP false false)
  | .cpFill _ f => eCheck st f (cpRow st f (cpAddr (f.flags.getLsbD 0)) S false true)
  | .cpGth _ f => eCheck st f (cpRow st f (cpAddr (f.flags.getLsbD 0)) SP false true)
  | .cpSct _ f => eCheck st f (cpRow st f SP (cpAddr (f.flags.getLsbD 1)) true false)
  | .tcWait _ f =>
      eCheck st f { d := P, a := SP, chan := true, flags := true,
                    extra := sub (!ctrOk st f.chan || !scopeFlags f.flags) 3 }
  | .tcGet _ f =>
      eCheck st f { d := SP, chan := true, flags := true, extra := sub (!ctrOk st f.chan || 1 < f.flags.toNat) 3 }
  | .tcErr _ f =>
      eCheck st f { d := SP, chan := true, flags := true, extra := sub (!ctrOk st f.chan || 1 < f.flags.toNat) 3 }
  | .chWp _ f =>
      eCheck st f { d := S4, chan := true, flags := true, extra := sub (!chanOk st f.chan || !scopeFlags f.flags) 3 }
  | .chRst _ f => eCheck st f { d := SP, chan := true, extra := sub (!chanOk st f.chan) 3 }
  | .chSumGet _ f => eCheck st f { d := S, chan := true, sub := 0, extra := sub (!chanOk st f.chan) 3 }
  | .chSumSet _ f => eCheck st f { a := S, chan := true, sub := 1, extra := sub (!chanOk st f.chan) 3 }
  | .chSumExp _ f => eCheck st f { a := S, chan := true, sub := 2, extra := sub (!chanOk st f.chan) 3 }
  | .rsHintKeep _ f => nCheck st f (plain f none SP S none (f.op == 0#5))
  | .rsHintDrop _ f => nCheck st f (plain f none SP S none (f.op == 1#5))
  | .rsHintFetch _ f => nCheck st f (plain f none SP S none (f.op == 2#5))
  | .rsEvict _ f => nCheck st f (plain f S SP S none (f.op == 0#5))
  | .rsEvictInv _ f => nCheck st f (plain f S SP S none (f.op == 1#5))
  | .rsQry _ f => nCheck st f (plain f S4 SP none none (f.op == 0#5))
  | .mTr _ f =>
      eCheck st f { d := SP, a := SP, b := SP, c := S4, chan := true, flags := true,
                    extra := sub (!chanOk st f.chan || 3 < f.flags.toNat) 3 }
  | .mRed _ f =>
      eCheck st f { d := SP, a := SP, b := SP, c := S, chan := true, flags := true,
                    extra := sub (!chanOk st f.chan || 6 < f.flags.toNat % 16 || 2 < f.flags.toNat / 16) 3 }
  | .kvMatch _ f => eCheck st f (kvRow f)
  | .kvInsert _ f => eCheck st f (kvRow f)
  | .kvFork _ f => eCheck st f (kvRow f)
  | .kvRef _ f => eCheck st f (kvRow f)
  | .kvUnref _ f => eCheck st f (kvRow f)
  | .kvAppend _ f => eCheck st f (kvRow f)
  | .kvXlat _ f => nCheck st f { d := VP, a := X1, b := X1, c := P, aux := .lane0 }
  | .kvQry _ f => eCheck st f (kvRow f)
  | .kMma _ f => mmaCheck st f
  | .kLda _ f => eCheck st f { d := SP, a := TA, b := SP, c := SP }
  | .kZero _ f => kCheck st f ACC none none none false (f.sub == 0#5)
  |
      
        .kScale _ f => kCheck st f (if f.sub == 1#5 then ACCP else ACC) none none (if f.sub == 1#5 then SP else S) false (f.sub.toNat ≤ 2)
  | .kDrain _ f =>
      eCheck st f { d := SP, a := if f.flags &&& 15#8 == 8#8 then ACCP else ACC, b := SP, c := S, flags := true,
                    extra := sub (8 < f.flags.toNat % 16 || f.flags.toNat / 16 % 8 == 7) 3 }
  | .kPass _ f => eCheck st f (passRow f)
  | .kRecv _ f =>
      eCheck st f { d := SP, b := if f.flags.getLsbD 1 then none else S4, flags := true,
                    extra := sub (3 < f.flags.toNat) 3 }
  | .kStat _ f => nCheck st f (plain f S none none none (f.op.toNat ≤ 1))
  | .vAccrd _ f => nCheck st f { d := V, a := ACC, b := S, aux := .own (f.aux == 0#6) }
  | .vAccwr _ f => nCheck st f { d := ACC, a := V, b := S }
  | .sysRd _ f => iCheck st f { d := ctlSlot f.imm, aux := .own (f.aux == 0#6), extra := sub (4095 < f.imm.toNat) 4 }
  | .sysWr _ f => iCheck st f { a := ctlSlot f.imm, aux := .own (f.aux == 0#6), extra := sub (4095 < f.imm.toNat) 4 }
  | .sysRfe _ f => nCheck st f (plain f none none none none (f.op == 0#5))
  | .sysTlbiVa _ f => nCheck st f (plain f none SP S none (f.op == 0#5))
  | .sysTlbiAs _ f => nCheck st f (plain f none none S none (f.op == 1#5))
  | .sysTlbiAll _ f => nCheck st f (plain f none none none none (f.op == 2#5))
  | .sysHaltCore _ f => nCheck st f (plain f S S none none (f.op == 0#5))
  | .sysHaltResume _ f => nCheck st f (plain f S S none none (f.op == 1#5))
  | .sysIdle _ f => nCheck st f (plain f S S none none (f.op == 0#5))
  | .preMask _ f => nCheck st f (plain f S none none none (f.op == 0#5))
  | .preUnmask _ f => nCheck st f (plain f S none none none (f.op == 0#5))
  | .sysSig _ f => nCheck st f (plain f none SP SP none (f.op.toNat % 4 ≤ 2 && f.op.toNat / 4 ≤ 4))
  | .sysFqackRetry _ f => nCheck st f (plain f S S S none (f.op == 0#5))
  | .sysFqackSkip _ f => nCheck st f (plain f S S S none (f.op == 1#5))
  | .sysFqackKill _ f => nCheck st f (plain f S S S none (f.op == 2#5))
  | .sysFqackResume _ f => nCheck st f (plain f S S S none (f.op == 3#5))
  | .sysFqackFail _ f => nCheck st f (plain f S S S none (f.op == 4#5))
  | .sysDirq _ f => nCheck st f (plain f S4 SP none none (f.op == 0#5))
  | .sysDirrcZero _ f => nCheck st f (plain f S SP none none (f.op == 0#5))
  | .sysDirrcCopy _ f => nCheck st f (plain f S SP SP none (f.op == 1#5))
  | .sysDirrcKeep _ f => nCheck st f (plain f S SP none none (f.op == 2#5))
  | .sysWatch _ f => nCheck st f (plain f S SP S S (f.op == 0#5))
  | .sysSwatch _ f => nCheck st f (plain f S SP S none (f.op == 0#5))
  | .partitionIssueSelection _ _ => []
  | .candidatePromotion _ _ _ => []
  | .stallHoldEnd _ => []
  | .fixedLatencyWriteback _ => []
  | .loadReply _ => []
  | .storeAcknowledge _ => []
  | .taskDone _ => []
  | .queueTailWake _ _ => []
  | .launchRecord _ _ => []
  | .semaphoreWait _ _ => []
  | .semaphoreSignal _ _ => []
  | .taskAdmission _ => []
  | .dispatchStarvation _ => []
  | .dispatcherSteal _ => []
  | .parkFrameWrite _ => []
  | .parkedGroupReturn _ => []
  | .footprintReview _ => []
  | .measuredLeaseWindow _ => []
  | .fpgateWrite _ => []
  | .logicalTimeTick _ => []
  | .tsleaseWrite _ => []
  | .homeAccess _ => []
  | .frequencyAgeHalving _ => []
  | .lineLeaseExpiry _ _ => []
  | .watchWake _ => []
  | .waitAddrTimeout _ => []
  | .sleepExpiry _ => []
  | .sysIdleWake _ => []
  | .faultSetWrite _ => []
  | .preqPreemptLaunch _ _ => []
  | .preqPreemptCore _ _ => []
  | .preqResumeLaunch _ _ => []
  | .preqResumeCore _ _ => []
  | .preemptionSequence _ => []
  | .maskBudgetExpiry _ => []
  | .savedTaskReturn _ => []
  | .engineCommandAccept _ => []
  | .copyChunkExecute _ => []
  | .chunkSteal _ => []
  | .remoteChunkAcknowledge _ => []
  | .kvCommandExecute _ => []
  | .kvPageRefetch _ _ => []
  | .matrixCommandStart _ => []
  | .matrixCommandComplete _ => []
  | .accumulatorAccessComplete _ => []
  | .keystoneBindingRelease _ => []
  | .bankSwitchPoint _ _ => []
  | .contractInstall _ _ => []
  | .contractChange _ _ _ => []
  | .contractRemoval _ _ => []
  | .contractLineMove _ _ => []
  | .treeEnable _ _ => []
  | .treeEnableComplete _ => []
  | .treeDisable _ _ => []
  | .treeDisableComplete _ => []
  | .pubreqWrite _ => []
  | .publicationComplete => []
  | .sweeperVisit => []
  | .trafficWindowStart _ _ => []
  | .controlRegisterWrite _ _ => []
  | .ringGateDecision _ => []
  | .ringSegmentGate _ => []
  | .ringSegmentWake _ => []
  | .recallAnswer _ _ => []
  | .voluntaryReturn _ _ => []
  | .recallTimerExpiry _ => []
  | .ashlarRequest _ => []
  | .ashlarAcknowledgement _ _ _ => []
  | .ashlarFlitReceive _ _ _ _ => []
  | .ashlarRetryRequest _ _ => []
  | .linkRetrain _ _ => []
  | .remoteRequestTimeout _ => []
  | .cxlMemRequest _ _ => []
  | .hostSnoop _ _ _ => []
  | .globalObservation _ => []
  | .ideIntegrityFailure _ => []
  | .ideKm _ _ _ => []
  | .getVersion _ => []
  | .getCapabilities _ => []
  | .negotiateAlgorithms _ => []
  | .getDigests _ => []
  | .getCertificate _ _ => []
  | .challenge _ _ => []
  | .getMeasurements _ _ _ => []
  | .keyExchange _ _ => []
  | .finish _ _ => []
  | .heartbeat _ => []
  | .endSession _ => []
  | .unsupportedRequest _ _ => []
  | .packageReset _ => []
  | .correctedError _ => []
  | .uncorrectedError _ _ => []
  | .errorCountHalving => []
  | .islandPowerChange _ _ => []
  | .keystoneIssue _ => []

/-- The instruction set of a stream (R30, R228): vector streams execute all but the Keystone-only forms. -/
def Stream.allows (st : Stream) (op : Nat) : Bool :=
  let cls := op / 64
  let m := op % 64
  match st with
  | .vector => !(cls == 0xD && m ≤ 8)
  | .keystone =>
    match cls with
    | 0x0 => m < 0x1F
    | 0x7 => [0x01, 0x02, 0x04, 0x05, 0x07, 0x0C, 0x0D, 0x0F, 0x10].contains m
    | 0xB => true
    | 0xD => m ≤ 8
    | 0xE => [0x01, 0x02, 0x07, 0x08, 0x09].contains m
    | _ => false

/-- Instructions that raise privilege at user privilege (R228). -/
def supervisorOnly (op : Nat) : Bool :=
  [0x383, 0x384, 0x385, 0x386, 0x38A, 0x38B, 0x38C, 0x38D, 0x38E].contains op

/-- A reserved matrix format code (R26). -/
def Instr.reservedFormat : Instr → Bool
  | .kMma _ f => 28 ≤ f.afmt.toNat || 28 ≤ f.bfmt.toNat
  | _ => false

/-- A valid instruction of a stream: in the stream's set, meeting no condition of R32 but privilege. -/
def Instr.wf (st : Stream) (i : Instr) : Bool :=
  i.opcode != 0 && st.allows i.opcode && (i.check st).isEmpty && !i.reservedFormat

end Sys2Proof
end

