-- ==== Sys2Proof/Decode.lean ====
section
/-! DEFINITION. The instruction word: its fields (R12-R26), decoding with the fate of words that are not instructions
(R32, R33), and the encoder from the same tables. -/
namespace Sys2Proof

/-! Codes of the fields (R16, R23, R28, R29). -/
def Cls.code : Cls → BitVec 2
  | .vec => 0 | .scl => 1 | .spec => 2 | .eng => 3
def Cls.ofCode (c : BitVec 2) : Cls :=
  match c.toNat with
  | 0 => .vec | 1 => .scl | 2 => .spec | _ => .eng

def Ty.code : Ty → Nat
  | .s32 => 0 | .n32 => 1 | .s64 => 2 | .n64 => 3 | .s16x2 => 4 | .n16x2 => 5 | .s8x4 => 6 | .n8x4 => 7
  | .f32 => 8 | .f64 => 9 | .f16x2 => 10 | .bf16x2 => 11 | .b32 => 12 | .b64 => 13
def Ty.ofCode (n : Nat) : Option Ty :=
  match n with
  | 0 => some .s32 | 1 => some .n32 | 2 => some .s64 | 3 => some .n64 | 4 => some .s16x2 | 5 => some .n16x2
  | 6 => some .s8x4 | 7 => some .n8x4 | 8 => some .f32 | 9 => some .f64 | 10 => some .f16x2 | 11 => some .bf16x2
  | 12 => some .b32 | 13 => some .b64 | _ => none

def Rnd.code : Rnd → Nat
  | .rne => 0 | .rtz => 1 | .rup => 2 | .rdn => 3 | .rna => 4 | .stoch => 5 | .dyn => 6
def Rnd.ofCode (n : Nat) : Option Rnd :=
  match n with
  | 0 => some .rne | 1 => some .rtz | 2 => some .rup | 3 => some .rdn | 4 => some .rna | 5 => some .stoch
  | 6 => some .dyn | _ => none

def Sz.code : Sz → Nat
  | .b => 0 | .h => 1 | .w => 2 | .d => 3 | .q => 4 | .o => 5
def Sz.ofCode (n : Nat) : Option Sz :=
  match n with
  | 0 => some .b | 1 => some .h | 2 => some .w | 3 => some .d | 4 => some .q | 5 => some .o | _ => none

def Order.code : Order → Nat
  | .rlx => 0 | .acq => 1 | .rel => 2 | .acqrel => 3
def Order.ofCode (n : Nat) : Order :=
  match n with
  | 0 => .rlx | 1 => .acq | 2 => .rel | _ => .acqrel

def Scope.code : Scope → Nat
  | .grp => 0 | .core => 1 | .clu => 2 | .pkg => 3 | .sys => 4
def Scope.ofCode (n : Nat) : Option Scope :=
  match n with
  | 0 => some .grp | 1 => some .core | 2 => some .clu | 3 => some .pkg | 4 => some .sys | _ => none

def Policy.code : Policy → Nat
  | .dflt => 0 | .stream => 1 | .nostore => 2
def Policy.ofCode (n : Nat) : Option Policy :=
  match n with
  | 0 => some .dflt | 1 => some .stream | 2 => some .nostore | _ => none

/-! Fields of a word. -/
/-- The field of `n` bits whose lowest bit is `lo`. -/
def fieldAt (w : IWord) (lo n : Nat) : BitVec n := w.extractLsb' lo n
/-- The same field as a number. -/
def fieldNat (w : IWord) (lo n : Nat) : Nat := (fieldAt w lo n).toNat

def srcOf (x : BitVec 14) : Src :=
  { cls := .ofCode (x.extractLsb' 12 2), idx := x.extractLsb' 4 8, perm := x.extractLsb' 0 4 }
def dstOf (x : BitVec 10) : Dst := { cls := .ofCode (x.extractLsb' 8 2), idx := x.extractLsb' 0 8 }
def Src.bitsOf (x : Src) : BitVec 14 := x.cls.code ++ x.idx ++ x.perm
def Dst.bitsOf (x : Dst) : BitVec 10 := x.cls.code ++ x.idx

/-- The common header (R13). -/
def hdrOf (w : IWord) : Hdr :=
  { gneg := w.getLsbD 85, gpred := fieldAt w 81 4, stall := fieldAt w 78 3, yield := w.getLsbD 77,
    pair := w.getLsbD 76, lra := w.getLsbD 75, lrb := w.getLsbD 74, lrc := w.getLsbD 73 }

/-- N format (R21); a reserved type or round code reads as code 0 and `nReserved` names it. -/
def nFormOf (w : IWord) : NForm :=
  { d := dstOf (fieldAt w 63 10), a := srcOf (fieldAt w 49 14), b := srcOf (fieldAt w 35 14),
    c := srcOf (fieldAt w 21 14), ty := (Ty.ofCode (fieldNat w 16 5)).getD .s32,
    rnd := (Rnd.ofCode (fieldNat w 13 3)).getD .rne, sat := w.getLsbD 12, aux := fieldAt w 6 6, op := fieldAt w 0 5 }
def nReserved (w : IWord) : List Nat :=
  sub ((Ty.ofCode (fieldNat w 16 5)).isNone || (Rnd.ofCode (fieldNat w 13 3)).isNone) 3

/-- I format (R22). -/
def iFormOf (w : IWord) : IForm :=
  { d := dstOf (fieldAt w 63 10), a := srcOf (fieldAt w 49 14), imm := fieldAt w 17 32,
    ty := (Ty.ofCode (fieldNat w 13 4)).getD .s32, sat := w.getLsbD 12, aux := fieldAt w 6 6, op := fieldAt w 0 5 }
def iReserved (w : IWord) : List Nat := sub (Ty.ofCode (fieldNat w 13 4)).isNone 3

/-- M format (R23). -/
def mFormOf (w : IWord) : MForm :=
  { d := dstOf (fieldAt w 63 10), a := srcOf (fieldAt w 49 14), b := srcOf (fieldAt w 35 14), off := fieldAt w 15 20,
    size := (Sz.ofCode (fieldNat w 12 3)).getD .b, scale := fieldAt w 10 2, order := .ofCode (fieldNat w 8 2),
    scope := (Scope.ofCode (fieldNat w 5 3)).getD .grp, policy := (Policy.ofCode (fieldNat w 3 2)).getD .dflt,
    sub := fieldAt w 0 3 }
def mReserved (w : IWord) : List Nat :=
  sub ((Sz.ofCode (fieldNat w 12 3)).isNone || (Scope.ofCode (fieldNat w 5 3)).isNone ||
    (Policy.ofCode (fieldNat w 3 2)).isNone) 3

/-- B format (R24). -/
def bFormOf (w : IWord) : BForm :=
  { d := dstOf (fieldAt w 63 10), a := srcOf (fieldAt w 49 14), tgt := fieldAt w 26 23, rcv := fieldAt w 3 23,
    hint := fieldAt w 1 2, mbz := w.getLsbD 0 }

/-- E format (R25). -/
def eFormOf (w : IWord) : EForm :=
  { d := dstOf (fieldAt w 63 10), a := srcOf (fieldAt w 49 14), b := srcOf (fieldAt w 35 14),
    c := srcOf (fieldAt w 21 14), chan := fieldAt w 16 5, flags := fieldAt w 8 8, sub := fieldAt w 0 8 }
def eReserved (w : IWord) : List Nat := sub (17 < fieldNat w 16 5) 3

/-- K format (R26). -/
def kFormOf (w : IWord) : KForm :=
  { d := dstOf (fieldAt w 63 10), a := srcOf (fieldAt w 49 14), b := srcOf (fieldAt w 35 14),
    c := srcOf (fieldAt w 21 14), afmt := fieldAt w 16 5, bfmt := fieldAt w 11 5, kc := fieldAt w 9 2,
    hold := w.getLsbD 8, zacc := w.getLsbD 7, bkind := fieldAt w 5 2, sub := fieldAt w 0 5 }

/-- The format letters of the opcode map (R31). -/
inductive Fmt | n | i | ni | m | b | e | k
  deriving DecidableEq, Repr

/-! The opcode map (R31), class by class: the format of each assigned minor. -/

/-- The format of an assigned minor; none where R31 assigns nothing. -/
def formatOf (cls minor : Nat) : Option Fmt :=
  match cls with
  | 0x0 =>
    if [0x01, 0x02, 0x03, 0x04, 0x06, 0x07, 0x08, 0x09, 0x0A, 0x0B, 0x0C, 0x0D, 0x0E, 0x13, 0x14, 0x15, 0x18, 0x1A, 0x1B].contains minor then some .ni
    else if [0x05, 0x0F, 0x10, 0x16, 0x17, 0x19, 0x1E, 0x1F, 0x20].contains minor then some .n
    else if [0x11, 0x12].contains minor then some .i
    else if [0x1C, 0x1D].contains minor then some .m
    else none
  | 0x1 =>
    if [0x01, 0x02, 0x05, 0x06, 0x07, 0x0B, 0x0C, 0x0D, 0x0E, 0x0F, 0x10, 0x12, 0x13, 0x14, 0x15, 0x16, 0x22, 0x23].contains minor then some .ni
    else if [0x03, 0x04, 0x08, 0x09, 0x0A, 0x11, 0x17, 0x18, 0x19, 0x1A, 0x1B, 0x1C, 0x1E, 0x1F, 0x20, 0x21].contains minor then some .n
    else if [0x1D].contains minor then some .i
    else none
  | 0x2 =>
    if [0x01, 0x02].contains minor then some .ni
    else if [0x03, 0x04, 0x05, 0x06, 0x07, 0x08, 0x09, 0x0A, 0x0B, 0x0C].contains minor then some .n
    else none
  | 0x3 =>
    if [0x01, 0x02, 0x03, 0x05, 0x06, 0x0A, 0x12].contains minor then some .ni
    else if [0x04, 0x07, 0x08, 0x09, 0x0B, 0x0C, 0x0D, 0x0E, 0x0F, 0x10, 0x11, 0x13, 0x14].contains minor then some .n
    else none
  | 0x4 =>
    if [0x01, 0x02, 0x03, 0x04, 0x05, 0x06, 0x07].contains minor then some .n
    else none
  | 0x5 =>
    if [0x01, 0x02, 0x03, 0x04, 0x05, 0x06, 0x07, 0x08, 0x09].contains minor then some .n
    else none
  | 0x6 =>
    if [0x01, 0x02, 0x04, 0x05, 0x07, 0x09, 0x0A, 0x0B].contains minor then some .n
    else if [0x03, 0x08].contains minor then some .ni
    else if [0x06].contains minor then some .m
    else none
  | 0x7 =>
    if [0x01, 0x02, 0x03, 0x04, 0x05, 0x06].contains minor then some .b
    else if [0x07, 0x08, 0x0C, 0x11].contains minor then some .n
    else if [0x09, 0x0A, 0x0B, 0x0D, 0x0E, 0x0F, 0x10, 0x12].contains minor then some .i
    else none
  | 0x8 =>
    if [0x01, 0x02, 0x03, 0x04, 0x05, 0x06, 0x07, 0x08, 0x09, 0x0A].contains minor then some .m
    else if [0x0B, 0x0C].contains minor then some .n
    else none
  | 0x9 =>
    if [0x01, 0x02, 0x03, 0x04, 0x05, 0x06, 0x07, 0x08, 0x09, 0x0A, 0x0B, 0x0C, 0x0D, 0x0E, 0x0F, 0x11, 0x12, 0x13].contains minor then some .m
    else if [0x10].contains minor then some .n
    else none
  | 0xA =>
    if [0x01, 0x02, 0x03].contains minor then some .m
    else if [0x04].contains minor then some .ni
    else if [0x05, 0x06, 0x07, 0x08, 0x09, 0x0A, 0x0B].contains minor then some .n
    else none
  | 0xB =>
    if [0x01, 0x02, 0x03, 0x04, 0x05, 0x06, 0x07, 0x08, 0x09, 0x0A, 0x0B, 0x0C].contains minor then some .e
    else none
  | 0xC =>
    if [0x01, 0x02, 0x03, 0x0C].contains minor then some .n
    else if [0x04, 0x05, 0x06, 0x07, 0x08, 0x09, 0x0A, 0x0B, 0x0D].contains minor then some .e
    else none
  | 0xD =>
    if [0x01, 0x03, 0x04].contains minor then some .k
    else if [0x02, 0x05, 0x06, 0x07].contains minor then some .e
    else if [0x08, 0x09, 0x0A].contains minor then some .n
    else none
  | 0xE =>
    if [0x01, 0x02].contains minor then some .i
    else if [0x03, 0x04, 0x05, 0x06, 0x07, 0x08, 0x09, 0x0A, 0x0B, 0x0C, 0x0D, 0x0E].contains minor then some .n
    else none
  | _ => none

/-- The instruction that opcode class 0x0 names; sub-operations that are rows of their own by op or sub. -/
noncomputable def build0 (w : IWord) : Option Instr :=
  let h := hdrOf w
  match fieldNat w 86 6 with
  | 0x01 => some (if w.getLsbD 5 then .sAddImm h (iFormOf w) else .sAdd h (nFormOf w))
  | 0x02 => some (if w.getLsbD 5 then .sSubImm h (iFormOf w) else .sSub h (nFormOf w))
  | 0x03 => some (if w.getLsbD 5 then .sMulImm h (iFormOf w) else .sMul h (nFormOf w))
  | 0x04 => some (if w.getLsbD 5 then .sMulhiImm h (iFormOf w) else .sMulhi h (nFormOf w))
  | 0x05 => some (.sMad h (nFormOf w))
  | 0x06 => some (if w.getLsbD 5 then .sAndImm h (iFormOf w) else .sAnd h (nFormOf w))
  | 0x07 => some (if w.getLsbD 5 then .sOrImm h (iFormOf w) else .sOr h (nFormOf w))
  | 0x08 => some (if w.getLsbD 5 then .sXorImm h (iFormOf w) else .sXor h (nFormOf w))
  | 0x09 => some (if w.getLsbD 5 then .sShlImm h (iFormOf w) else .sShl h (nFormOf w))
  | 0x0A => some (if w.getLsbD 5 then .sShrImm h (iFormOf w) else .sShr h (nFormOf w))
  | 0x0B => some (if w.getLsbD 5 then .sSarImm h (iFormOf w) else .sSar h (nFormOf w))
  | 0x0C => some (if w.getLsbD 5 then .sMinImm h (iFormOf w) else .sMin h (nFormOf w))
  | 0x0D => some (if w.getLsbD 5 then .sMaxImm h (iFormOf w) else .sMax h (nFormOf w))
  | 0x0E => some (if w.getLsbD 5 then .sCmpImm h (iFormOf w) else .sCmp h (nFormOf w))
  | 0x0F => some (.sSel h (nFormOf w))
  | 0x10 => some (.sMov h (nFormOf w))
  | 0x11 => some (.sLi h (iFormOf w))
  | 0x12 => some (.sLih h (iFormOf w))
  | 0x13 => some (if w.getLsbD 5 then .sAdd64Imm h (iFormOf w) else .sAdd64 h (nFormOf w))
  | 0x14 => some (if w.getLsbD 5 then .sSub64Imm h (iFormOf w) else .sSub64 h (nFormOf w))
  | 0x15 => some (if w.getLsbD 5 then .sMul64Imm h (iFormOf w) else .sMul64 h (nFormOf w))
  | 0x16 => some (.sPopc h (nFormOf w))
  | 0x17 => some (.sClz h (nFormOf w))
  | 0x18 => some (if w.getLsbD 5 then .sBfeImm h (iFormOf w) else .sBfe h (nFormOf w))
  | 0x19 => some (.sBfi h (nFormOf w))
  | 0x1A => some (if w.getLsbD 5 then .sDivsImm h (iFormOf w) else .sDivs h (nFormOf w))
  | 0x1B => some (if w.getLsbD 5 then .sDivnImm h (iFormOf w) else .sDivn h (nFormOf w))
  | 0x1C => some (.sLd h (mFormOf w))
  | 0x1D => some (.sSt h (mFormOf w))
  | 0x1E => some (.sRdsr h (nFormOf w))
  | 0x1F => some (.sVrd h (nFormOf w))
  | 0x20 => some (.sVwr h (nFormOf w))
  | _ => none

/-- The instruction that opcode class 0x1 names; sub-operations that are rows of their own by op or sub. -/
noncomputable def build1 (w : IWord) : Option Instr :=
  let h := hdrOf w
  match fieldNat w 86 6 with
  | 0x01 => some (if w.getLsbD 5 then .vAddImm h (iFormOf w) else .vAdd h (nFormOf w))
  | 0x02 => some (if w.getLsbD 5 then .vSubImm h (iFormOf w) else .vSub h (nFormOf w))
  | 0x03 => some (.vAddx h (nFormOf w))
  | 0x04 => some (.vSubx h (nFormOf w))
  | 0x05 => some (if w.getLsbD 5 then .vMulImm h (iFormOf w) else .vMul h (nFormOf w))
  | 0x06 => some (if w.getLsbD 5 then .vMulhiImm h (iFormOf w) else .vMulhi h (nFormOf w))
  | 0x07 => some (if w.getLsbD 5 then .vMulwImm h (iFormOf w) else .vMulw h (nFormOf w))
  | 0x08 => some (.vMad h (nFormOf w))
  | 0x09 => some (.vAbs h (nFormOf w))
  | 0x0A => some (.vNeg h (nFormOf w))
  | 0x0B => some (if w.getLsbD 5 then .vMinImm h (iFormOf w) else .vMin h (nFormOf w))
  | 0x0C => some (if w.getLsbD 5 then .vMaxImm h (iFormOf w) else .vMax h (nFormOf w))
  | 0x0D => some (if w.getLsbD 5 then .vAndImm h (iFormOf w) else .vAnd h (nFormOf w))
  | 0x0E => some (if w.getLsbD 5 then .vOrImm h (iFormOf w) else .vOr h (nFormOf w))
  | 0x0F => some (if w.getLsbD 5 then .vXorImm h (iFormOf w) else .vXor h (nFormOf w))
  | 0x10 => some (if w.getLsbD 5 then .vAndnImm h (iFormOf w) else .vAndn h (nFormOf w))
  | 0x11 => some (.vNot h (nFormOf w))
  | 0x12 => some (if w.getLsbD 5 then .vShlImm h (iFormOf w) else .vShl h (nFormOf w))
  | 0x13 => some (if w.getLsbD 5 then .vShrImm h (iFormOf w) else .vShr h (nFormOf w))
  | 0x14 => some (if w.getLsbD 5 then .vSarImm h (iFormOf w) else .vSar h (nFormOf w))
  | 0x15 => some (if w.getLsbD 5 then .vRotImm h (iFormOf w) else .vRot h (nFormOf w))
  | 0x16 => some (if w.getLsbD 5 then .vBfeImm h (iFormOf w) else .vBfe h (nFormOf w))
  | 0x17 => some (.vBfi h (nFormOf w))
  | 0x18 => some (.vPopc h (nFormOf w))
  | 0x19 => some (.vClz h (nFormOf w))
  | 0x1A => some (.vCtz h (nFormOf w))
  | 0x1B => some (.vBrev h (nFormOf w))
  | 0x1C => some (.vMov h (nFormOf w))
  | 0x1D => some (.vLi h (iFormOf w))
  | 0x1E => some (.vSat h (nFormOf w))
  | 0x1F => some (.vDot4 h (nFormOf w))
  | 0x20 => some (.vDot2 h (nFormOf w))
  | 0x21 => some (.vSad h (nFormOf w))
  | 0x22 => some (if w.getLsbD 5 then .vDivImm h (iFormOf w) else .vDiv h (nFormOf w))
  | 0x23 => some (if w.getLsbD 5 then .vRemImm h (iFormOf w) else .vRem h (nFormOf w))
  | _ => none

/-- The instruction that opcode class 0x2 names; sub-operations that are rows of their own by op or sub. -/
noncomputable def build2 (w : IWord) : Option Instr :=
  let h := hdrOf w
  match fieldNat w 86 6 with
  | 0x01 => some (if w.getLsbD 5 then .vCmpImm h (iFormOf w) else .vCmp h (nFormOf w))
  | 0x02 => some (if w.getLsbD 5 then .vFcmpImm h (iFormOf w) else .vFcmp h (nFormOf w))
  | 0x03 => some (.pAnd h (nFormOf w))
  | 0x04 => some (.pOr h (nFormOf w))
  | 0x05 => some (.pXor h (nFormOf w))
  | 0x06 => some (.pNot h (nFormOf w))
  | 0x07 => some (.pMov h (nFormOf w))
  | 0x08 => some (.vSel h (nFormOf w))
  | 0x09 => some (.pTovec h (nFormOf w))
  | 0x0A => some (.pFromvec h (nFormOf w))
  | 0x0B => some (.pPopc h (nFormOf w))
  | 0x0C => some (.pFirst h (nFormOf w))
  | _ => none

/-- The instruction that opcode class 0x3 names; sub-operations that are rows of their own by op or sub. -/
noncomputable def build3 (w : IWord) : Option Instr :=
  let h := hdrOf w
  match fieldNat w 86 6 with
  | 0x01 => some (if w.getLsbD 5 then .vFaddImm h (iFormOf w) else .vFadd h (nFormOf w))
  | 0x02 => some (if w.getLsbD 5 then .vFsubImm h (iFormOf w) else .vFsub h (nFormOf w))
  | 0x03 => some (if w.getLsbD 5 then .vFmulImm h (iFormOf w) else .vFmul h (nFormOf w))
  | 0x04 => some (.vFma h (nFormOf w))
  | 0x05 => some (if w.getLsbD 5 then .vFminImm h (iFormOf w) else .vFmin h (nFormOf w))
  | 0x06 => some (if w.getLsbD 5 then .vFmaxImm h (iFormOf w) else .vFmax h (nFormOf w))
  | 0x07 => some (.vFrcp h (nFormOf w))
  | 0x08 => some (.vFrsq h (nFormOf w))
  | 0x09 => some (.vFsqrt h (nFormOf w))
  | 0x0A => some (if w.getLsbD 5 then .vFdivImm h (iFormOf w) else .vFdiv h (nFormOf w))
  | 0x0B => some (.vFexp2 h (nFormOf w))
  | 0x0C => some (.vFlog2 h (nFormOf w))
  | 0x0D => some (.vFsin h (nFormOf w))
  | 0x0E => some (.vFcos h (nFormOf w))
  | 0x0F => some (.vFfloor h (nFormOf w))
  | 0x10 => some (.vFround h (nFormOf w))
  | 0x11 => some (.vFclass h (nFormOf w))
  | 0x12 => some (if w.getLsbD 5 then .vFscaleImm h (iFormOf w) else .vFscale h (nFormOf w))
  | 0x13 => some (.vFgetexp h (nFormOf w))
  | 0x14 => some (.vFdot2 h (nFormOf w))
  | _ => none

/-- The instruction that opcode class 0x4 names; sub-operations that are rows of their own by op or sub. -/
noncomputable def build4 (w : IWord) : Option Instr :=
  let h := hdrOf w
  match fieldNat w 86 6 with
  | 0x01 => some (.vCvt h (nFormOf w))
  | 0x02 => some (.vPack h (nFormOf w))
  | 0x03 => some (.vUnpack h (nFormOf w))
  | 0x04 => some (.vScl h (nFormOf w))
  | 0x05 => some (.vQnt h (nFormOf w))
  | 0x06 => some (.vDqnt h (nFormOf w))
  | 0x07 =>
    some (match fieldNat w 0 5 with
      | 1 => .vRngGets h (nFormOf w)
      | 2 => .vRngGetc h (nFormOf w)
      | 3 => .vRngDraw h (nFormOf w)
      | _ => .vRngSeed h (nFormOf w))
  | _ => none

/-- The instruction that opcode class 0x5 names; sub-operations that are rows of their own by op or sub. -/
noncomputable def build5 (w : IWord) : Option Instr :=
  let h := hdrOf w
  match fieldNat w 86 6 with
  | 0x01 => some (.vShfl h (nFormOf w))
  | 0x02 => some (.vBcast h (nFormOf w))
  | 0x03 =>
    some (match fieldNat w 0 5 with
      | 1 => .vVoteAll h (nFormOf w)
      | 2 => .vVoteUni h (nFormOf w)
      | 3 => .vVoteBallot h (nFormOf w)
      | _ => .vVoteAny h (nFormOf w))
  | 0x04 => some (.vMatch h (nFormOf w))
  | 0x05 => some (.vScan h (nFormOf w))
  | 0x06 => some (.vRed h (nFormOf w))
  | 0x07 => some (.vCompact h (nFormOf w))
  | 0x08 => some (.vExpand h (nFormOf w))
  | 0x09 => some (.vRank h (nFormOf w))
  | _ => none

/-- The instruction that opcode class 0x6 names; sub-operations that are rows of their own by op or sub. -/
noncomputable def build6 (w : IWord) : Option Instr :=
  let h := hdrOf w
  match fieldNat w 86 6 with
  | 0x01 => some (.vCrc h (nFormOf w))
  | 0x02 => some (.vMix h (nFormOf w))
  | 0x03 => some (if w.getLsbD 5 then .vHmulImm h (iFormOf w) else .vHmul h (nFormOf w))
  | 0x04 => some (.vPart h (nFormOf w))
  | 0x05 => some (.vBkt h (nFormOf w))
  | 0x06 => some (.vSld h (mFormOf w))
  | 0x07 => some (.vScmp h (nFormOf w))
  | 0x08 => some (if w.getLsbD 5 then .vBfindImm h (iFormOf w) else .vBfind h (nFormOf w))
  | 0x09 => some (.vBmask h (nFormOf w))
  | 0x0A => some (.vUlen h (nFormOf w))
  | 0x0B => some (.vFold h (nFormOf w))
  | _ => none

/-- The instruction that opcode class 0x7 names; sub-operations that are rows of their own by op or sub. -/
noncomputable def build7 (w : IWord) : Option Instr :=
  let h := hdrOf w
  match fieldNat w 86 6 with
  | 0x01 => some (.bra h (bFormOf w))
  | 0x02 => some (.jmp h (bFormOf w))
  | 0x03 => some (.brx h (bFormOf w))
  | 0x04 => some (.call h (bFormOf w))
  | 0x05 => some (.ret h (bFormOf w))
  | 0x06 => some (.join h (bFormOf w))
  | 0x07 => some (.exit h (nFormOf w))
  | 0x08 => some (.yield h (nFormOf w))
  | 0x09 => some (.bar h (iFormOf w))
  | 0x0A => some (.barArv h (iFormOf w))
  | 0x0B => some (.barWt h (iFormOf w))
  | 0x0C => some (.nop h (nFormOf w))
  | 0x0D => some (.trap h (iFormOf w))
  | 0x0E => some (.brk h (iFormOf w))
  | 0x0F => some (.waitcnt h (iFormOf w))
  | 0x10 => some (.sleep h (iFormOf w))
  | 0x11 => some (.launch h (nFormOf w))
  | 0x12 => some (.leaseFp h (iFormOf w))
  | _ => none

/-- The instruction that opcode class 0x8 names; sub-operations that are rows of their own by op or sub. -/
noncomputable def build8 (w : IWord) : Option Instr :=
  let h := hdrOf w
  match fieldNat w 86 6 with
  | 0x01 => some (.vLd h (mFormOf w))
  | 0x02 => some (.vSt h (mFormOf w))
  | 0x03 => some (.vLdg h (mFormOf w))
  | 0x04 => some (.vStg h (mFormOf w))
  | 0x05 => some (.vLds h (mFormOf w))
  | 0x06 => some (.vSts h (mFormOf w))
  | 0x07 => some (.vLdsw h (mFormOf w))
  | 0x08 => some (.vStsw h (mFormOf w))
  | 0x09 => some (.vLdc h (mFormOf w))
  | 0x0A => some (.vPf h (mFormOf w))
  | 0x0B => some (.vFifoPush h (nFormOf w))
  | 0x0C => some (.vFifoPop h (nFormOf w))
  | _ => none

/-- The instruction that opcode class 0x9 names; sub-operations that are rows of their own by op or sub. -/
noncomputable def build9 (w : IWord) : Option Instr :=
  let h := hdrOf w
  match fieldNat w 86 6 with
  | 0x01 => some (.aAdd h (mFormOf w))
  | 0x02 => some (.aMin h (mFormOf w))
  | 0x03 => some (.aMax h (mFormOf w))
  | 0x04 => some (.aAnd h (mFormOf w))
  | 0x05 => some (.aOr h (mFormOf w))
  | 0x06 => some (.aXor h (mFormOf w))
  | 0x07 => some (.aXchg h (mFormOf w))
  | 0x08 => some (.aCas h (mFormOf w))
  | 0x09 => some (.aInc h (mFormOf w))
  | 0x0A => some (.aFadd h (mFormOf w))
  | 0x0B => some (.aFmin h (mFormOf w))
  | 0x0C => some (.aFmax h (mFormOf w))
  | 0x0D => some (.redAdd h (mFormOf w))
  | 0x0E => some (.redFadd h (mFormOf w))
  | 0x0F => some (.redDet h (mFormOf w))
  | 0x10 =>
    some (match fieldNat w 0 5 with
      | 1 => .redFlushCommit h (nFormOf w)
      | _ => .redFlushDrain h (nFormOf w))
  | 0x11 => some (.leaseAcq h (mFormOf w))
  | 0x12 => some (.leaseRel h (mFormOf w))
  | 0x13 => some (.waitAddr h (mFormOf w))
  | _ => none

/-- The instruction that opcode class 0xA names; sub-operations that are rows of their own by op or sub. -/
noncomputable def buildA (w : IWord) : Option Instr :=
  let h := hdrOf w
  match fieldNat w 86 6 with
  | 0x01 => some (.fence h (mFormOf w))
  | 0x02 => some (.fenceCode h (mFormOf w))
  | 0x03 => some (.fenceEng h (mFormOf w))
  | 0x04 => some (if w.getLsbD 5 then .bankCfgImm h (iFormOf w) else .bankCfg h (nFormOf w))
  | 0x05 => some (.bankQry h (nFormOf w))
  | 0x06 => some (.shareJoin h (nFormOf w))
  | 0x07 => some (.shareLeave h (nFormOf w))
  | 0x08 => some (.spMap h (nFormOf w))
  | 0x09 => some (.spUnmap h (nFormOf w))
  | 0x0A => some (.spWb h (nFormOf w))
  | 0x0B => some (.spInv h (nFormOf w))
  | _ => none

/-- The instruction that opcode class 0xB names; sub-operations that are rows of their own by op or sub. -/
noncomputable def buildB (w : IWord) : Option Instr :=
  let h := hdrOf w
  match fieldNat w 86 6 with
  | 0x01 => some (.cp h (eFormOf w))
  | 0x02 => some (.cpMc h (eFormOf w))
  | 0x03 => some (.cpX h (eFormOf w))
  | 0x04 => some (.cpFill h (eFormOf w))
  | 0x05 => some (.cpGth h (eFormOf w))
  | 0x06 => some (.cpSct h (eFormOf w))
  | 0x07 => some (.tcWait h (eFormOf w))
  | 0x08 => some (.tcGet h (eFormOf w))
  | 0x09 => some (.tcErr h (eFormOf w))
  | 0x0A => some (.chWp h (eFormOf w))
  | 0x0B => some (.chRst h (eFormOf w))
  | 0x0C =>
    some (match fieldNat w 0 8 with
      | 1 => .chSumSet h (eFormOf w)
      | 2 => .chSumExp h (eFormOf w)
      | _ => .chSumGet h (eFormOf w))
  | _ => none

/-- The instruction that opcode class 0xC names; sub-operations that are rows of their own by op or sub. -/
noncomputable def buildC (w : IWord) : Option Instr :=
  let h := hdrOf w
  match fieldNat w 86 6 with
  | 0x01 =>
    some (match fieldNat w 0 5 with
      | 1 => .rsHintDrop h (nFormOf w)
      | 2 => .rsHintFetch h (nFormOf w)
      | _ => .rsHintKeep h (nFormOf w))
  | 0x02 =>
    some (match fieldNat w 0 5 with
      | 1 => .rsEvictInv h (nFormOf w)
      | _ => .rsEvict h (nFormOf w))
  | 0x03 => some (.rsQry h (nFormOf w))
  | 0x04 => some (.mTr h (eFormOf w))
  | 0x05 => some (.mRed h (eFormOf w))
  | 0x06 => some (.kvMatch h (eFormOf w))
  | 0x07 => some (.kvInsert h (eFormOf w))
  | 0x08 => some (.kvFork h (eFormOf w))
  | 0x09 => some (.kvRef h (eFormOf w))
  | 0x0A => some (.kvUnref h (eFormOf w))
  | 0x0B => some (.kvAppend h (eFormOf w))
  | 0x0C => some (.kvXlat h (nFormOf w))
  | 0x0D => some (.kvQry h (eFormOf w))
  | _ => none

/-- The instruction that opcode class 0xD names; sub-operations that are rows of their own by op or sub. -/
noncomputable def buildD (w : IWord) : Option Instr :=
  let h := hdrOf w
  match fieldNat w 86 6 with
  | 0x01 => some (.kMma h (kFormOf w))
  | 0x02 => some (.kLda h (eFormOf w))
  | 0x03 => some (.kZero h (kFormOf w))
  | 0x04 => some (.kScale h (kFormOf w))
  | 0x05 => some (.kDrain h (eFormOf w))
  | 0x06 => some (.kPass h (eFormOf w))
  | 0x07 => some (.kRecv h (eFormOf w))
  | 0x08 => some (.kStat h (nFormOf w))
  | 0x09 => some (.vAccrd h (nFormOf w))
  | 0x0A => some (.vAccwr h (nFormOf w))
  | _ => none

/-- The instruction that opcode class 0xE names; sub-operations that are rows of their own by op or sub. -/
noncomputable def buildE (w : IWord) : Option Instr :=
  let h := hdrOf w
  match fieldNat w 86 6 with
  | 0x01 => some (.sysRd h (iFormOf w))
  | 0x02 => some (.sysWr h (iFormOf w))
  | 0x03 => some (.sysRfe h (nFormOf w))
  | 0x04 =>
    some (match fieldNat w 0 5 with
      | 1 => .sysTlbiAs h (nFormOf w)
      | 2 => .sysTlbiAll h (nFormOf w)
      | _ => .sysTlbiVa h (nFormOf w))
  | 0x05 =>
    some (match fieldNat w 0 5 with
      | 1 => .sysHaltResume h (nFormOf w)
      | _ => .sysHaltCore h (nFormOf w))
  | 0x06 => some (.sysIdle h (nFormOf w))
  | 0x07 => some (.preMask h (nFormOf w))
  | 0x08 => some (.preUnmask h (nFormOf w))
  | 0x09 => some (.sysSig h (nFormOf w))
  | 0x0A =>
    some (match fieldNat w 0 5 with
      | 1 => .sysFqackSkip h (nFormOf w)
      | 2 => .sysFqackKill h (nFormOf w)
      | 3 => .sysFqackResume h (nFormOf w)
      | 4 => .sysFqackFail h (nFormOf w)
      | _ => .sysFqackRetry h (nFormOf w))
  | 0x0B => some (.sysDirq h (nFormOf w))
  | 0x0C =>
    some (match fieldNat w 0 5 with
      | 1 => .sysDirrcCopy h (nFormOf w)
      | 2 => .sysDirrcKeep h (nFormOf w)
      | _ => .sysDirrcZero h (nFormOf w))
  | 0x0D => some (.sysWatch h (nFormOf w))
  | 0x0E => some (.sysSwatch h (nFormOf w))
  | _ => none

/-- The instruction of the word's opcode (R31), its reserved codes read as 0. The builders are noncomputable only because
Lean's code generator refuses a constructor past the 244th; the kernel evaluates them. -/
noncomputable def build (w : IWord) : Option Instr :=
  match fieldNat w 92 4 with
  | 0x0 => build0 w
  | 0x1 => build1 w
  | 0x2 => build2 w
  | 0x3 => build3 w
  | 0x4 => build4 w
  | 0x5 => build5 w
  | 0x6 => build6 w
  | 0x7 => build7 w
  | 0x8 => build8 w
  | 0x9 => build9 w
  | 0xA => buildA w
  | 0xB => buildB w
  | 0xC => buildC w
  | 0xD => buildD w
  | 0xE => buildE w
  | _ => none

/-- The reserved codes of the word under its format (R22, R23, R25, R28, R29). -/
def reservedCodes (f : Fmt) (w : IWord) : List Nat :=
  match f with
  | .n => nReserved w ++ sub (w.getLsbD 5) 6
  | .i => iReserved w ++ sub (!w.getLsbD 5) 6
  | .ni => if w.getLsbD 5 then iReserved w else nReserved w
  | .m => mReserved w
  | .e => eReserved w
  | .b | .k => []

/-- Entries whose operands depend on an op or sub that the word leaves unlisted (DEDUCED, log 7). -/
def formUnlisted (w : IWord) : Bool :=
  match fieldNat w 92 4, fieldNat w 86 6 with
  | 0x4, 0x07 | 0x5, 0x03 => 4 ≤ fieldNat w 0 5
  | 0x9, 0x10 => 2 ≤ fieldNat w 0 5
  | 0xB, 0x0C => 3 ≤ fieldNat w 0 8
  | 0xE, 0x04 | 0xE, 0x0C => 3 ≤ fieldNat w 0 5
  | _, _ => false

/-- The operands of an unlisted op that the entry fixes for every op alike (R114, R227): D and A of sys.dirrc, and for
v.vote a D or A that no listed op accepts. The others have no rule to judge them by (DEDUCED, log 7). -/
def unlistedOperands (st : Stream) (w : IWord) : List Nat :=
  let f := nFormOf w
  match fieldNat w 92 4, fieldNat w 86 6 with
  | 0x5, 0x03 => dstCheck st false (some { p := true, s := true }) f.d ++ srcCheck st false (X.map fun x => { x with p := true }) f.a
  | 0xE, 0x0C => dstCheck st false S f.d ++ srcCheck st false SP f.a
  | _, _ => []

/-- The lowest of a list of sub-causes (R33). -/
def lowest : List Nat → Option Nat
  | [] => none
  | x :: xs => match lowest xs with
    | none => some x
    | some y => some (min x y)

/-- The sub-causes of illegal operand that a word of the opcode map meets. -/
def operandFaults (st : Stream) (f : Fmt) (i : Instr) (w : IWord) : List Nat :=
  if formUnlisted w then 3 :: unlistedOperands st w else reservedCodes f w ++ i.check st

/-- What decoding answers: the instruction, or the cause and sub-cause of its decode fault. -/
inductive Decoded
  | instr (i : Instr)
  | bad (cause sub : Nat)
  deriving DecidableEq, Repr

/-- Decoding at a privilege (R32, R33): the instruction, or cause and sub-cause of the decode fault. -/
noncomputable def decode (st : Stream) (sup : Bool) (w : IWord) : Decoded :=
  if w = 0#96 then .bad 0x01 1
  else if fieldNat w 92 4 = 15 then .bad 0x01 2
  else if fieldNat w 86 6 = 0 then .bad 0x01 3
  else
    match build w, formatOf (fieldNat w 92 4) (fieldNat w 86 6) with
    | some i, some f =>
      if !st.allows i.opcode then .bad 0x01 5
      else if supervisorOnly i.opcode && !sup then .bad 0x03 0
      else
        match lowest (operandFaults st f i w) with
        | some n => .bad 0x02 n
        | none => if i.reservedFormat then .bad 0x14 0 else .instr i
    | _, _ => .bad 0x01 4

/-! The encoder. -/
/-- The bits of a truth value. -/
def Hdr.bitsOf (h : Hdr) : BitVec 13 :=
  bit1 h.gneg ++ h.gpred ++ h.stall ++ bit1 h.yield ++ bit1 h.pair ++ bit1 h.lra ++ bit1 h.lrb ++ bit1 h.lrc

def NForm.bitsOf (f : NForm) : BitVec 73 :=
  f.d.bitsOf ++ f.a.bitsOf ++ f.b.bitsOf ++ f.c.bitsOf ++ BitVec.ofNat 5 f.ty.code ++ BitVec.ofNat 3 f.rnd.code ++
    bit1 f.sat ++ f.aux ++ bit1 false ++ f.op

def IForm.bitsOf (f : IForm) : BitVec 73 :=
  f.d.bitsOf ++ f.a.bitsOf ++ f.imm ++ BitVec.ofNat 4 f.ty.code ++ bit1 f.sat ++ f.aux ++ bit1 true ++ f.op

def MForm.bitsOf (f : MForm) : BitVec 73 :=
  f.d.bitsOf ++ f.a.bitsOf ++ f.b.bitsOf ++ f.off ++ BitVec.ofNat 3 f.size.code ++ f.scale ++
    BitVec.ofNat 2 f.order.code ++ BitVec.ofNat 3 f.scope.code ++ BitVec.ofNat 2 f.policy.code ++ f.sub

def BForm.bitsOf (f : BForm) : BitVec 73 := f.d.bitsOf ++ f.a.bitsOf ++ f.tgt ++ f.rcv ++ f.hint ++ bit1 f.mbz

def EForm.bitsOf (f : EForm) : BitVec 73 :=
  f.d.bitsOf ++ f.a.bitsOf ++ f.b.bitsOf ++ f.c.bitsOf ++ f.chan ++ f.flags ++ f.sub

def KForm.bitsOf (f : KForm) : BitVec 73 :=
  f.d.bitsOf ++ f.a.bitsOf ++ f.b.bitsOf ++ f.c.bitsOf ++ f.afmt ++ f.bfmt ++ f.kc ++ bit1 f.hold ++ bit1 f.zacc ++
    f.bkind ++ f.sub

/-- The word of opcode, header and format fields (R13). -/
def wordOf (op : Nat) (h : Hdr) (f : BitVec 73) : IWord := BitVec.ofNat 10 op ++ h.bitsOf ++ f

/-- The word of an instruction; a device event has none. -/
def encode (i : Instr) : Option IWord :=
  match i with
  | .sAdd h f => some (wordOf 0x001 h f.bitsOf)
  | .sAddImm h f => some (wordOf 0x001 h f.bitsOf)
  | .sSub h f => some (wordOf 0x002 h f.bitsOf)
  | .sSubImm h f => some (wordOf 0x002 h f.bitsOf)
  | .sMul h f => some (wordOf 0x003 h f.bitsOf)
  | .sMulImm h f => some (wordOf 0x003 h f.bitsOf)
  | .sMulhi h f => some (wordOf 0x004 h f.bitsOf)
  | .sMulhiImm h f => some (wordOf 0x004 h f.bitsOf)
  | .sMad h f => some (wordOf 0x005 h f.bitsOf)
  | .sAnd h f => some (wordOf 0x006 h f.bitsOf)
  | .sAndImm h f => some (wordOf 0x006 h f.bitsOf)
  | .sOr h f => some (wordOf 0x007 h f.bitsOf)
  | .sOrImm h f => some (wordOf 0x007 h f.bitsOf)
  | .sXor h f => some (wordOf 0x008 h f.bitsOf)
  | .sXorImm h f => some (wordOf 0x008 h f.bitsOf)
  | .sShl h f => some (wordOf 0x009 h f.bitsOf)
  | .sShlImm h f => some (wordOf 0x009 h f.bitsOf)
  | .sShr h f => some (wordOf 0x00A h f.bitsOf)
  | .sShrImm h f => some (wordOf 0x00A h f.bitsOf)
  | .sSar h f => some (wordOf 0x00B h f.bitsOf)
  | .sSarImm h f => some (wordOf 0x00B h f.bitsOf)
  | .sMin h f => some (wordOf 0x00C h f.bitsOf)
  | .sMinImm h f => some (wordOf 0x00C h f.bitsOf)
  | .sMax h f => some (wordOf 0x00D h f.bitsOf)
  | .sMaxImm h f => some (wordOf 0x00D h f.bitsOf)
  | .sCmp h f => some (wordOf 0x00E h f.bitsOf)
  | .sCmpImm h f => some (wordOf 0x00E h f.bitsOf)
  | .sSel h f => some (wordOf 0x00F h f.bitsOf)
  | .sMov h f => some (wordOf 0x010 h f.bitsOf)
  | .sLi h f => some (wordOf 0x011 h f.bitsOf)
  | .sLih h f => some (wordOf 0x012 h f.bitsOf)
  | .sAdd64 h f => some (wordOf 0x013 h f.bitsOf)
  | .sAdd64Imm h f => some (wordOf 0x013 h f.bitsOf)
  | .sSub64 h f => some (wordOf 0x014 h f.bitsOf)
  | .sSub64Imm h f => some (wordOf 0x014 h f.bitsOf)
  | .sMul64 h f => some (wordOf 0x015 h f.bitsOf)
  | .sMul64Imm h f => some (wordOf 0x015 h f.bitsOf)
  | .sPopc h f => some (wordOf 0x016 h f.bitsOf)
  | .sClz h f => some (wordOf 0x017 h f.bitsOf)
  | .sBfe h f => some (wordOf 0x018 h f.bitsOf)
  | .sBfeImm h f => some (wordOf 0x018 h f.bitsOf)
  | .sBfi h f => some (wordOf 0x019 h f.bitsOf)
  | .sDivs h f => some (wordOf 0x01A h f.bitsOf)
  | .sDivsImm h f => some (wordOf 0x01A h f.bitsOf)
  | .sDivn h f => some (wordOf 0x01B h f.bitsOf)
  | .sDivnImm h f => some (wordOf 0x01B h f.bitsOf)
  | .sLd h f => some (wordOf 0x01C h f.bitsOf)
  | .sSt h f => some (wordOf 0x01D h f.bitsOf)
  | .sRdsr h f => some (wordOf 0x01E h f.bitsOf)
  | .sVrd h f => some (wordOf 0x01F h f.bitsOf)
  | .sVwr h f => some (wordOf 0x020 h f.bitsOf)
  | .vAdd h f => some (wordOf 0x041 h f.bitsOf)
  | .vAddImm h f => some (wordOf 0x041 h f.bitsOf)
  | .vSub h f => some (wordOf 0x042 h f.bitsOf)
  | .vSubImm h f => some (wordOf 0x042 h f.bitsOf)
  | .vAddx h f => some (wordOf 0x043 h f.bitsOf)
  | .vSubx h f => some (wordOf 0x044 h f.bitsOf)
  | .vMul h f => some (wordOf 0x045 h f.bitsOf)
  | .vMulImm h f => some (wordOf 0x045 h f.bitsOf)
  | .vMulhi h f => some (wordOf 0x046 h f.bitsOf)
  | .vMulhiImm h f => some (wordOf 0x046 h f.bitsOf)
  | .vMulw h f => some (wordOf 0x047 h f.bitsOf)
  | .vMulwImm h f => some (wordOf 0x047 h f.bitsOf)
  | .vMad h f => some (wordOf 0x048 h f.bitsOf)
  | .vAbs h f => some (wordOf 0x049 h f.bitsOf)
  | .vNeg h f => some (wordOf 0x04A h f.bitsOf)
  | .vMin h f => some (wordOf 0x04B h f.bitsOf)
  | .vMinImm h f => some (wordOf 0x04B h f.bitsOf)
  | .vMax h f => some (wordOf 0x04C h f.bitsOf)
  | .vMaxImm h f => some (wordOf 0x04C h f.bitsOf)
  | .vAnd h f => some (wordOf 0x04D h f.bitsOf)
  | .vAndImm h f => some (wordOf 0x04D h f.bitsOf)
  | .vOr h f => some (wordOf 0x04E h f.bitsOf)
  | .vOrImm h f => some (wordOf 0x04E h f.bitsOf)
  | .vXor h f => some (wordOf 0x04F h f.bitsOf)
  | .vXorImm h f => some (wordOf 0x04F h f.bitsOf)
  | .vAndn h f => some (wordOf 0x050 h f.bitsOf)
  | .vAndnImm h f => some (wordOf 0x050 h f.bitsOf)
  | .vNot h f => some (wordOf 0x051 h f.bitsOf)
  | .vShl h f => some (wordOf 0x052 h f.bitsOf)
  | .vShlImm h f => some (wordOf 0x052 h f.bitsOf)
  | .vShr h f => some (wordOf 0x053 h f.bitsOf)
  | .vShrImm h f => some (wordOf 0x053 h f.bitsOf)
  | .vSar h f => some (wordOf 0x054 h f.bitsOf)
  | .vSarImm h f => some (wordOf 0x054 h f.bitsOf)
  | .vRot h f => some (wordOf 0x055 h f.bitsOf)
  | .vRotImm h f => some (wordOf 0x055 h f.bitsOf)
  | .vBfe h f => some (wordOf 0x056 h f.bitsOf)
  | .vBfeImm h f => some (wordOf 0x056 h f.bitsOf)
  | .vBfi h f => some (wordOf 0x057 h f.bitsOf)
  | .vPopc h f => some (wordOf 0x058 h f.bitsOf)
  | .vClz h f => some (wordOf 0x059 h f.bitsOf)
  | .vCtz h f => some (wordOf 0x05A h f.bitsOf)
  | .vBrev h f => some (wordOf 0x05B h f.bitsOf)
  | .vMov h f => some (wordOf 0x05C h f.bitsOf)
  | .vLi h f => some (wordOf 0x05D h f.bitsOf)
  | .vSat h f => some (wordOf 0x05E h f.bitsOf)
  | .vDot4 h f => some (wordOf 0x05F h f.bitsOf)
  | .vDot2 h f => some (wordOf 0x060 h f.bitsOf)
  | .vSad h f => some (wordOf 0x061 h f.bitsOf)
  | .vDiv h f => some (wordOf 0x062 h f.bitsOf)
  | .vDivImm h f => some (wordOf 0x062 h f.bitsOf)
  | .vRem h f => some (wordOf 0x063 h f.bitsOf)
  | .vRemImm h f => some (wordOf 0x063 h f.bitsOf)
  | .vCmp h f => some (wordOf 0x081 h f.bitsOf)
  | .vCmpImm h f => some (wordOf 0x081 h f.bitsOf)
  | .vFcmp h f => some (wordOf 0x082 h f.bitsOf)
  | .vFcmpImm h f => some (wordOf 0x082 h f.bitsOf)
  | .pAnd h f => some (wordOf 0x083 h f.bitsOf)
  | .pOr h f => some (wordOf 0x084 h f.bitsOf)
  | .pXor h f => some (wordOf 0x085 h f.bitsOf)
  | .pNot h f => some (wordOf 0x086 h f.bitsOf)
  | .pMov h f => some (wordOf 0x087 h f.bitsOf)
  | .vSel h f => some (wordOf 0x088 h f.bitsOf)
  | .pTovec h f => some (wordOf 0x089 h f.bitsOf)
  | .pFromvec h f => some (wordOf 0x08A h f.bitsOf)
  | .pPopc h f => some (wordOf 0x08B h f.bitsOf)
  | .pFirst h f => some (wordOf 0x08C h f.bitsOf)
  | .vFadd h f => some (wordOf 0x0C1 h f.bitsOf)
  | .vFaddImm h f => some (wordOf 0x0C1 h f.bitsOf)
  | .vFsub h f => some (wordOf 0x0C2 h f.bitsOf)
  | .vFsubImm h f => some (wordOf 0x0C2 h f.bitsOf)
  | .vFmul h f => some (wordOf 0x0C3 h f.bitsOf)
  | .vFmulImm h f => some (wordOf 0x0C3 h f.bitsOf)
  | .vFma h f => some (wordOf 0x0C4 h f.bitsOf)
  | .vFmin h f => some (wordOf 0x0C5 h f.bitsOf)
  | .vFminImm h f => some (wordOf 0x0C5 h f.bitsOf)
  | .vFmax h f => some (wordOf 0x0C6 h f.bitsOf)
  | .vFmaxImm h f => some (wordOf 0x0C6 h f.bitsOf)
  | .vFrcp h f => some (wordOf 0x0C7 h f.bitsOf)
  | .vFrsq h f => some (wordOf 0x0C8 h f.bitsOf)
  | .vFsqrt h f => some (wordOf 0x0C9 h f.bitsOf)
  | .vFdiv h f => some (wordOf 0x0CA h f.bitsOf)
  | .vFdivImm h f => some (wordOf 0x0CA h f.bitsOf)
  | .vFexp2 h f => some (wordOf 0x0CB h f.bitsOf)
  | .vFlog2 h f => some (wordOf 0x0CC h f.bitsOf)
  | .vFsin h f => some (wordOf 0x0CD h f.bitsOf)
  | .vFcos h f => some (wordOf 0x0CE h f.bitsOf)
  | .vFfloor h f => some (wordOf 0x0CF h f.bitsOf)
  | .vFround h f => some (wordOf 0x0D0 h f.bitsOf)
  | .vFclass h f => some (wordOf 0x0D1 h f.bitsOf)
  | .vFscale h f => some (wordOf 0x0D2 h f.bitsOf)
  | .vFscaleImm h f => some (wordOf 0x0D2 h f.bitsOf)
  | .vFgetexp h f => some (wordOf 0x0D3 h f.bitsOf)
  | .vFdot2 h f => some (wordOf 0x0D4 h f.bitsOf)
  | .vCvt h f => some (wordOf 0x101 h f.bitsOf)
  | .vPack h f => some (wordOf 0x102 h f.bitsOf)
  | .vUnpack h f => some (wordOf 0x103 h f.bitsOf)
  | .vScl h f => some (wordOf 0x104 h f.bitsOf)
  | .vQnt h f => some (wordOf 0x105 h f.bitsOf)
  | .vDqnt h f => some (wordOf 0x106 h f.bitsOf)
  | .vRngSeed h f => some (wordOf 0x107 h f.bitsOf)
  | .vRngGets h f => some (wordOf 0x107 h f.bitsOf)
  | .vRngGetc h f => some (wordOf 0x107 h f.bitsOf)
  | .vRngDraw h f => some (wordOf 0x107 h f.bitsOf)
  | .vShfl h f => some (wordOf 0x141 h f.bitsOf)
  | .vBcast h f => some (wordOf 0x142 h f.bitsOf)
  | .vVoteAny h f => some (wordOf 0x143 h f.bitsOf)
  | .vVoteAll h f => some (wordOf 0x143 h f.bitsOf)
  | .vVoteUni h f => some (wordOf 0x143 h f.bitsOf)
  | .vVoteBallot h f => some (wordOf 0x143 h f.bitsOf)
  | .vMatch h f => some (wordOf 0x144 h f.bitsOf)
  | .vScan h f => some (wordOf 0x145 h f.bitsOf)
  | .vRed h f => some (wordOf 0x146 h f.bitsOf)
  | .vCompact h f => some (wordOf 0x147 h f.bitsOf)
  | .vExpand h f => some (wordOf 0x148 h f.bitsOf)
  | .vRank h f => some (wordOf 0x149 h f.bitsOf)
  | .vCrc h f => some (wordOf 0x181 h f.bitsOf)
  | .vMix h f => some (wordOf 0x182 h f.bitsOf)
  | .vHmul h f => some (wordOf 0x183 h f.bitsOf)
  | .vHmulImm h f => some (wordOf 0x183 h f.bitsOf)
  | .vPart h f => some (wordOf 0x184 h f.bitsOf)
  | .vBkt h f => some (wordOf 0x185 h f.bitsOf)
  | .vSld h f => some (wordOf 0x186 h f.bitsOf)
  | .vScmp h f => some (wordOf 0x187 h f.bitsOf)
  | .vBfind h f => some (wordOf 0x188 h f.bitsOf)
  | .vBfindImm h f => some (wordOf 0x188 h f.bitsOf)
  | .vBmask h f => some (wordOf 0x189 h f.bitsOf)
  | .vUlen h f => some (wordOf 0x18A h f.bitsOf)
  | .vFold h f => some (wordOf 0x18B h f.bitsOf)
  | .bra h f => some (wordOf 0x1C1 h f.bitsOf)
  | .jmp h f => some (wordOf 0x1C2 h f.bitsOf)
  | .brx h f => some (wordOf 0x1C3 h f.bitsOf)
  | .call h f => some (wordOf 0x1C4 h f.bitsOf)
  | .ret h f => some (wordOf 0x1C5 h f.bitsOf)
  | .join h f => some (wordOf 0x1C6 h f.bitsOf)
  | .exit h f => some (wordOf 0x1C7 h f.bitsOf)
  | .yield h f => some (wordOf 0x1C8 h f.bitsOf)
  | .bar h f => some (wordOf 0x1C9 h f.bitsOf)
  | .barArv h f => some (wordOf 0x1CA h f.bitsOf)
  | .barWt h f => some (wordOf 0x1CB h f.bitsOf)
  | .nop h f => some (wordOf 0x1CC h f.bitsOf)
  | .trap h f => some (wordOf 0x1CD h f.bitsOf)
  | .brk h f => some (wordOf 0x1CE h f.bitsOf)
  | .waitcnt h f => some (wordOf 0x1CF h f.bitsOf)
  | .sleep h f => some (wordOf 0x1D0 h f.bitsOf)
  | .launch h f => some (wordOf 0x1D1 h f.bitsOf)
  | .leaseFp h f => some (wordOf 0x1D2 h f.bitsOf)
  | .vLd h f => some (wordOf 0x201 h f.bitsOf)
  | .vSt h f => some (wordOf 0x202 h f.bitsOf)
  | .vLdg h f => some (wordOf 0x203 h f.bitsOf)
  | .vStg h f => some (wordOf 0x204 h f.bitsOf)
  | .vLds h f => some (wordOf 0x205 h f.bitsOf)
  | .vSts h f => some (wordOf 0x206 h f.bitsOf)
  | .vLdsw h f => some (wordOf 0x207 h f.bitsOf)
  | .vStsw h f => some (wordOf 0x208 h f.bitsOf)
  | .vLdc h f => some (wordOf 0x209 h f.bitsOf)
  | .vPf h f => some (wordOf 0x20A h f.bitsOf)
  | .vFifoPush h f => some (wordOf 0x20B h f.bitsOf)
  | .vFifoPop h f => some (wordOf 0x20C h f.bitsOf)
  | .aAdd h f => some (wordOf 0x241 h f.bitsOf)
  | .aMin h f => some (wordOf 0x242 h f.bitsOf)
  | .aMax h f => some (wordOf 0x243 h f.bitsOf)
  | .aAnd h f => some (wordOf 0x244 h f.bitsOf)
  | .aOr h f => some (wordOf 0x245 h f.bitsOf)
  | .aXor h f => some (wordOf 0x246 h f.bitsOf)
  | .aXchg h f => some (wordOf 0x247 h f.bitsOf)
  | .aCas h f => some (wordOf 0x248 h f.bitsOf)
  | .aInc h f => some (wordOf 0x249 h f.bitsOf)
  | .aFadd h f => some (wordOf 0x24A h f.bitsOf)
  | .aFmin h f => some (wordOf 0x24B h f.bitsOf)
  | .aFmax h f => some (wordOf 0x24C h f.bitsOf)
  | .redAdd h f => some (wordOf 0x24D h f.bitsOf)
  | .redFadd h f => some (wordOf 0x24E h f.bitsOf)
  | .redDet h f => some (wordOf 0x24F h f.bitsOf)
  | .redFlushDrain h f => some (wordOf 0x250 h f.bitsOf)
  | .redFlushCommit h f => some (wordOf 0x250 h f.bitsOf)
  | .leaseAcq h f => some (wordOf 0x251 h f.bitsOf)
  | .leaseRel h f => some (wordOf 0x252 h f.bitsOf)
  | .waitAddr h f => some (wordOf 0x253 h f.bitsOf)
  | .fence h f => some (wordOf 0x281 h f.bitsOf)
  | .fenceCode h f => some (wordOf 0x282 h f.bitsOf)
  | .fenceEng h f => some (wordOf 0x283 h f.bitsOf)
  | .bankCfg h f => some (wordOf 0x284 h f.bitsOf)
  | .bankCfgImm h f => some (wordOf 0x284 h f.bitsOf)
  | .bankQry h f => some (wordOf 0x285 h f.bitsOf)
  | .shareJoin h f => some (wordOf 0x286 h f.bitsOf)
  | .shareLeave h f => some (wordOf 0x287 h f.bitsOf)
  | .spMap h f => some (wordOf 0x288 h f.bitsOf)
  | .spUnmap h f => some (wordOf 0x289 h f.bitsOf)
  | .spWb h f => some (wordOf 0x28A h f.bitsOf)
  | .spInv h f => some (wordOf 0x28B h f.bitsOf)
  | .cp h f => some (wordOf 0x2C1 h f.bitsOf)
  | .cpMc h f => some (wordOf 0x2C2 h f.bitsOf)
  | .cpX h f => some (wordOf 0x2C3 h f.bitsOf)
  | .cpFill h f => some (wordOf 0x2C4 h f.bitsOf)
  | .cpGth h f => some (wordOf 0x2C5 h f.bitsOf)
  | .cpSct h f => some (wordOf 0x2C6 h f.bitsOf)
  | .tcWait h f => some (wordOf 0x2C7 h f.bitsOf)
  | .tcGet h f => some (wordOf 0x2C8 h f.bitsOf)
  | .tcErr h f => some (wordOf 0x2C9 h f.bitsOf)
  | .chWp h f => some (wordOf 0x2CA h f.bitsOf)
  | .chRst h f => some (wordOf 0x2CB h f.bitsOf)
  | .chSumGet h f => some (wordOf 0x2CC h f.bitsOf)
  | .chSumSet h f => some (wordOf 0x2CC h f.bitsOf)
  | .chSumExp h f => some (wordOf 0x2CC h f.bitsOf)
  | .rsHintKeep h f => some (wordOf 0x301 h f.bitsOf)
  | .rsHintDrop h f => some (wordOf 0x301 h f.bitsOf)
  | .rsHintFetch h f => some (wordOf 0x301 h f.bitsOf)
  | .rsEvict h f => some (wordOf 0x302 h f.bitsOf)
  | .rsEvictInv h f => some (wordOf 0x302 h f.bitsOf)
  | .rsQry h f => some (wordOf 0x303 h f.bitsOf)
  | .mTr h f => some (wordOf 0x304 h f.bitsOf)
  | .mRed h f => some (wordOf 0x305 h f.bitsOf)
  | .kvMatch h f => some (wordOf 0x306 h f.bitsOf)
  | .kvInsert h f => some (wordOf 0x307 h f.bitsOf)
  | .kvFork h f => some (wordOf 0x308 h f.bitsOf)
  | .kvRef h f => some (wordOf 0x309 h f.bitsOf)
  | .kvUnref h f => some (wordOf 0x30A h f.bitsOf)
  | .kvAppend h f => some (wordOf 0x30B h f.bitsOf)
  | .kvXlat h f => some (wordOf 0x30C h f.bitsOf)
  | .kvQry h f => some (wordOf 0x30D h f.bitsOf)
  | .kMma h f => some (wordOf 0x341 h f.bitsOf)
  | .kLda h f => some (wordOf 0x342 h f.bitsOf)
  | .kZero h f => some (wordOf 0x343 h f.bitsOf)
  | .kScale h f => some (wordOf 0x344 h f.bitsOf)
  | .kDrain h f => some (wordOf 0x345 h f.bitsOf)
  | .kPass h f => some (wordOf 0x346 h f.bitsOf)
  | .kRecv h f => some (wordOf 0x347 h f.bitsOf)
  | .kStat h f => some (wordOf 0x348 h f.bitsOf)
  | .vAccrd h f => some (wordOf 0x349 h f.bitsOf)
  | .vAccwr h f => some (wordOf 0x34A h f.bitsOf)
  | .sysRd h f => some (wordOf 0x381 h f.bitsOf)
  | .sysWr h f => some (wordOf 0x382 h f.bitsOf)
  | .sysRfe h f => some (wordOf 0x383 h f.bitsOf)
  | .sysTlbiVa h f => some (wordOf 0x384 h f.bitsOf)
  | .sysTlbiAs h f => some (wordOf 0x384 h f.bitsOf)
  | .sysTlbiAll h f => some (wordOf 0x384 h f.bitsOf)
  | .sysHaltCore h f => some (wordOf 0x385 h f.bitsOf)
  | .sysHaltResume h f => some (wordOf 0x385 h f.bitsOf)
  | .sysIdle h f => some (wordOf 0x386 h f.bitsOf)
  | .preMask h f => some (wordOf 0x387 h f.bitsOf)
  | .preUnmask h f => some (wordOf 0x388 h f.bitsOf)
  | .sysSig h f => some (wordOf 0x389 h f.bitsOf)
  | .sysFqackRetry h f => some (wordOf 0x38A h f.bitsOf)
  | .sysFqackSkip h f => some (wordOf 0x38A h f.bitsOf)
  | .sysFqackKill h f => some (wordOf 0x38A h f.bitsOf)
  | .sysFqackResume h f => some (wordOf 0x38A h f.bitsOf)
  | .sysFqackFail h f => some (wordOf 0x38A h f.bitsOf)
  | .sysDirq h f => some (wordOf 0x38B h f.bitsOf)
  | .sysDirrcZero h f => some (wordOf 0x38C h f.bitsOf)
  | .sysDirrcCopy h f => some (wordOf 0x38C h f.bitsOf)
  | .sysDirrcKeep h f => some (wordOf 0x38C h f.bitsOf)
  | .sysWatch h f => some (wordOf 0x38D h f.bitsOf)
  | .sysSwatch h f => some (wordOf 0x38E h f.bitsOf)
  | .partitionIssueSelection _ _ => none
  | .candidatePromotion _ _ _ => none
  | .stallHoldEnd _ => none
  | .fixedLatencyWriteback _ => none
  | .loadReply _ => none
  | .storeAcknowledge _ => none
  | .taskDone _ => none
  | .queueTailWake _ _ => none
  | .launchRecord _ _ => none
  | .semaphoreWait _ _ => none
  | .semaphoreSignal _ _ => none
  | .taskAdmission _ => none
  | .dispatchStarvation _ => none
  | .dispatcherSteal _ => none
  | .parkFrameWrite _ => none
  | .parkedGroupReturn _ => none
  | .footprintReview _ => none
  | .measuredLeaseWindow _ => none
  | .fpgateWrite _ => none
  | .logicalTimeTick _ => none
  | .tsleaseWrite _ => none
  | .homeAccess _ => none
  | .frequencyAgeHalving _ => none
  | .lineLeaseExpiry _ _ => none
  | .watchWake _ => none
  | .waitAddrTimeout _ => none
  | .sleepExpiry _ => none
  | .sysIdleWake _ => none
  | .faultSetWrite _ => none
  | .preqPreemptLaunch _ _ => none
  | .preqPreemptCore _ _ => none
  | .preqResumeLaunch _ _ => none
  | .preqResumeCore _ _ => none
  | .preemptionSequence _ => none
  | .maskBudgetExpiry _ => none
  | .savedTaskReturn _ => none
  | .engineCommandAccept _ => none
  | .copyChunkExecute _ => none
  | .chunkSteal _ => none
  | .remoteChunkAcknowledge _ => none
  | .kvCommandExecute _ => none
  | .kvPageRefetch _ _ => none
  | .matrixCommandStart _ => none
  | .matrixCommandComplete _ => none
  | .accumulatorAccessComplete _ => none
  | .keystoneBindingRelease _ => none
  | .bankSwitchPoint _ _ => none
  | .contractInstall _ _ => none
  | .contractChange _ _ _ => none
  | .contractRemoval _ _ => none
  | .contractLineMove _ _ => none
  | .treeEnable _ _ => none
  | .treeEnableComplete _ => none
  | .treeDisable _ _ => none
  | .treeDisableComplete _ => none
  | .pubreqWrite _ => none
  | .publicationComplete => none
  | .sweeperVisit => none
  | .trafficWindowStart _ _ => none
  | .controlRegisterWrite _ _ => none
  | .ringGateDecision _ => none
  | .ringSegmentGate _ => none
  | .ringSegmentWake _ => none
  | .recallAnswer _ _ => none
  | .voluntaryReturn _ _ => none
  | .recallTimerExpiry _ => none
  | .ashlarRequest _ => none
  | .ashlarAcknowledgement _ _ _ => none
  | .ashlarFlitReceive _ _ _ _ => none
  | .ashlarRetryRequest _ _ => none
  | .linkRetrain _ _ => none
  | .remoteRequestTimeout _ => none
  | .cxlMemRequest _ _ => none
  | .hostSnoop _ _ _ => none
  | .globalObservation _ => none
  | .ideIntegrityFailure _ => none
  | .ideKm _ _ _ => none
  | .getVersion _ => none
  | .getCapabilities _ => none
  | .negotiateAlgorithms _ => none
  | .getDigests _ => none
  | .getCertificate _ _ => none
  | .challenge _ _ => none
  | .getMeasurements _ _ _ => none
  | .keyExchange _ _ => none
  | .finish _ _ => none
  | .heartbeat _ => none
  | .endSession _ => none
  | .unsupportedRequest _ _ => none
  | .packageReset _ => none
  | .correctedError _ => none
  | .uncorrectedError _ _ => none
  | .errorCountHalving => none
  | .islandPowerChange _ _ => none
  | .keystoneIssue _ => none

/-- The three words of an instruction, the lowest address first (R12). -/
def wordsOf (w : IWord) : List W32 := [w.extractLsb' 0 32, w.extractLsb' 32 32, w.extractLsb' 64 32]

/-- The twelve bytes of an instruction word as stored (R12). -/
def bytesOf (w : IWord) : List Byte := (List.range 12).map (fun k => w.extractLsb' (8 * k) 8)

/-- The word that twelve stored bytes hold (R12). -/
def wordOfBytes (bs : List Byte) : IWord :=
  bs.foldr (fun b acc => (acc <<< 8) ||| b.setWidth 96) 0#96

/-- The instruction that the decoder reads from a table word: vector streams first, at supervisor privilege. -/
noncomputable def decodeTableWord (nbits w : Nat) : Option Instr :=
  let v := wordOfBytes (bytesOf (BitVec.ofNat 96 (w % 2 ^ nbits)))
  match decode .vector true v with
  | .instr i => some i
  | .bad _ _ =>
    match decode .keystone true v with
    | .instr i => some i
    | .bad _ _ => none

end Sys2Proof
end

