-- ==== Sys2Proof/Machine/Assoc.lean ====
section
/-! DEFINITION. Sparse plain data: a list of key and value pairs with strictly rising keys, one canonical form for one
content, so that equal contents are equal lists. -/
namespace Sys2Proof.Machine

/-- Pairs of key and value, keys strictly rising. -/
abbrev Assoc (α : Type) := List (Nat × α)

namespace Assoc
/-- The value at a key. -/
def get? {α : Type} : Assoc α → Nat → Option α
  | [], _ => none
  | (j, v) :: r, k => if j = k then some v else get? r k

/-- The value at a key, or a default for an absent one. -/
def getD {α : Type} (m : Assoc α) (k : Nat) (d : α) : α := (get? m k).getD d

/-- Store a value at a key. -/
def set {α : Type} : Assoc α → Nat → α → Assoc α
  | [], k, v => [(k, v)]
  | (j, w) :: r, k, v =>
    if k < j then (k, v) :: (j, w) :: r
    else if k = j then (k, v) :: r
    else (j, w) :: set r k v

/-- Remove a key. -/
def erase {α : Type} : Assoc α → Nat → Assoc α
  | [], _ => []
  | (j, w) :: r, k => if j = k then r else (j, w) :: erase r k

/-- Store a value, an entry equal to the default being left out. -/
def put {α : Type} [DecidableEq α] (d : α) (m : Assoc α) (k : Nat) (v : α) : Assoc α :=
  if v = d then erase m k else set m k v

/-- Change the value at a key that is present. -/
def update {α : Type} (m : Assoc α) (k : Nat) (f : α → α) : Assoc α :=
  match get? m k with
  | some v => set m k (f v)
  | none => m

/-- Change every value. -/
def mapVal {α β : Type} (m : Assoc α) (f : Nat → α → β) : Assoc β := m.map (fun p => (p.1, f p.1 p.2))

/-- Keys strictly rising, each above a bound where one is given. -/
def risingFrom {α : Type} : Option Nat → Assoc α → Bool
  | _, [] => true
  | b, (k, _) :: r => (match b with | none => true | some j => j < k) && risingFrom (some k) r

/-- The canonical form. -/
def wf {α : Type} (m : Assoc α) : Bool := risingFrom none m

/-- A key no entry uses. -/
def fresh {α : Type} (m : Assoc α) : Nat := m.foldl (fun n p => max n (p.1 + 1)) 0
end Assoc

/-- Store at an index of a list, extended by a default up to it. -/
def setAt {α : Type} (d : α) : List α → Nat → α → List α
  | [], 0, x => [x]
  | [], n + 1, x => d :: setAt d [] n x
  | _ :: r, 0, x => x :: r
  | y :: r, n + 1, x => y :: setAt d r n x

/-- A set of naturals: a strictly rising list. -/
abbrev NatSet := List Nat
namespace NatSet
def insert : NatSet → Nat → NatSet
  | [], k => [k]
  | j :: r, k => if k < j then k :: j :: r else if k = j then j :: r else j :: insert r k
def remove (s : NatSet) (k : Nat) : NatSet := s.filter (· != k)
def addAll (s : NatSet) (ks : List Nat) : NatSet := ks.foldl insert s
end NatSet

end Sys2Proof.Machine
end

