-- ==== Sys2Proof/Machine/Memory.lean ====
section
/-! DEFINITION. Memory: a list of address and byte pairs in one canonical form, addresses strictly rising and no entry
zero, since an address that is not listed reads as zero (log 3). -/
namespace Sys2Proof.Machine

/-- Memory as a list of listed bytes. -/
abbrev Memory := List Host.Cell

/-- What an address that is not listed reads as (log 3). -/
def unlisted : Byte := 0#8

namespace Memory
/-- The byte at an address. -/
def read : Memory → Nat → Byte
  | [], _ => unlisted
  | (j, b) :: r, a => if j = a then b else read r a

/-- Store a byte, a byte equal to the unlisted one being left out. -/
def write : Memory → Nat → Byte → Memory
  | [], a, b => if b = unlisted then [] else [(a, b)]
  | (j, c) :: r, a, b =>
    if a < j then (if b = unlisted then (j, c) :: r else (a, b) :: (j, c) :: r)
    else if a = j then (if b = unlisted then r else (a, b) :: r)
    else (j, c) :: write r a b

/-- Store a run of bytes from an address up. -/
def writeBytes (m : Memory) : Nat → List Byte → Memory
  | _, [] => m
  | a, b :: bs => writeBytes (m.write a b) (a + 1) bs

/-- Read n bytes from an address up. -/
def readBytes (m : Memory) (a n : Nat) : List Byte := (List.range n).map (fun k => m.read (a + k))

/-- A little-endian number of n bytes. -/
def readNat (m : Memory) (a n : Nat) : Nat := (m.readBytes a n).foldr (fun b acc => acc * 256 + b.toNat) 0

/-- The n low bytes of a number, lowest first. -/
def leBytes (n v : Nat) : List Byte := (List.range n).map (fun k => BitVec.ofNat 8 (v / 256 ^ k))

/-- Store a number of n bytes, little-endian. -/
def writeNat (m : Memory) (a n v : Nat) : Memory := m.writeBytes a (leBytes n v)

/-- Addresses strictly rising above a bound, no entry equal to the unlisted byte. -/
def wfFrom : Option Nat → Memory → Bool
  | _, [] => true
  | b, (a, x) :: r => (match b with | none => true | some j => j < a) && x != unlisted && wfFrom (some a) r

/-- The canonical form. -/
def wf (m : Memory) : Bool := wfFrom none m
end Memory

end Sys2Proof.Machine
end

