-- ==== Sys2Proof/Machine/State.lean ====
section
/-! DEFINITION. The state of the machine as plain data: every piece of state the specification names (INVENTORY.md lists
them with rule and reset value), the reasons a step can stop, and the state after reset. A group's key is its task's
number times 16 plus sr.grp; a Keystone context's is its cluster times 4 plus its number. -/
set_option Elab.async false
namespace Sys2Proof.Machine

/-- Why the machine model stops. -/
inductive Fault
  /-- Raised by a meaning when the agent it should run for does not exist (no such group, fragment or context): the
  model's own stuck state, which no step reaches. Safe. -/
  | noAgent
  deriving DecidableEq, Repr

/-- What the model declines. -/
inductive Refusal
  /-- Raised by an arm of exec that has no meaning yet. Safe. -/
  | notModelled (mnemonic : String)
  deriving DecidableEq, Repr

/-! Groups and fragments (12_groups_fragments_scheduling.md, 06_instr_control.md). -/

/-- A copy channel: of a task, or the ch0 of a Keystone context (R180). -/
inductive Chan
  | team (task ch : Nat)
  | key (k : Nat)
  deriving DecidableEq, Repr

/-- What a fragment waits for, with the data its wait holds (R274); `fetch`: it is the fetch of its next instruction that
waits. -/
inductive Wait
  | barrier (b phase : Nat)
  | counts (limits : W32)
  | timeline (tc : Nat) (n : Nat)
  | address (id : Nat)
  | sleeping (clk : Nat)
  | lease (line : Nat)
  | ownLease (line : Nat)
  | fifo (bank need : Nat) (push : Bool)
  | banks (tickets : List Nat) (complete : Bool)
  | shareLeave
  | idle (clk : Option Nat) (faultTail retryTail : Nat) (cause : Option Nat)
  | release
  | request (id : Nat)
  | channel (ch : Nat)
  | sums (ch before : Nat)
  | home (pa n : Nat) (write : Bool)
  | port (cls num bytes : Nat)
  | switching (task : Nat)
  | fetch (w : Wait)
  | tlbi (before : Nat) (mats : List (Nat × Nat)) (chunks : List (Chan × Nat × Nat))
  deriving DecidableEq, Repr

/-- The states of a split-table entry (R274); a TRAPPED-OUT one that waited keeps what it waits for. -/
inductive FragState
  | ready
  | held
  | waiting (w : Wait)
  | fuseWait
  | joinWait
  | entryWait
  | trappedOut (w : Option Wait)
  deriving DecidableEq, Repr

/-- A split-table entry: one fragment (R133, R274, R353). `cont`: a split at its PC has moved part of its destinations
and goes on (R134). `handler`: it holds the group's in-group handler (R350). -/
structure Frag where
  mask : Mask
  pc : W64
  record : Option Nat
  st : FragState
  sup : Bool
  handler : Bool
  cont : Bool
  yieldReq : Bool
  holdUntil : Nat
  readySince : Nat
  deriving DecidableEq, Repr

/-- A fuse record (R133). -/
structure FuseRec where
  addr : W64
  mask : Mask
  outer : Option Nat
  deriving DecidableEq, Repr

/-- The states of a group (R273). -/
inductive GroupState | inactive | active | parking | parked | exited
  deriving DecidableEq, Repr

/-- An exclusive hold of a line by a group: a line lease (R166), or one that near atomics took (`near`, R162). The clock
at which it ends by itself, and the bytes written under it, which its home has not received yet (R405, R406). -/
structure Lease where
  line : Nat
  expiry : Nat
  near : Bool
  dirty : Assoc Byte
  deriving DecidableEq, Repr

/-- A register that a fixed-latency result has not reached yet (R141, R434): class (0 vector, 1 scalar, 2 predicate),
index and the clock at which it is written. -/
structure Busy where
  cls : Nat
  idx : Nat
  clk : Nat
  deriving DecidableEq, Repr

/-- A vector register's lanes. -/
abbrev VReg := List W32

/-- A record of a fault (R347). -/
structure FaultRec where
  addr : W64
  lanes : Mask
  pc : W64
  core : Nat
  team : Nat
  grp : Nat
  kst : Bool
  wdn : Bool
  acc : Nat
  cause : Nat
  code : W32
  deriving DecidableEq, Repr

/-- Why a group parks (R353: 1 registers, 2 fault, 3 saved pre-emption), the fault sets of its fragments not yet handed
to the fault queue by split-table entry, how many sets still need an acknowledgement (R346), whether the frame is
written, and the clocks that the group had been inactive (R271). -/
structure Park where
  reason : Nat
  sets : List (Nat × List FaultRec)
  unacked : Nat
  framed : Bool
  waited : Nat := 0
  deriving DecidableEq, Repr

/-- An entry of a partition's buffer of deterministic partials (R163): order of arrival, address, type and value. -/
structure Partial where
  seq : Nat
  pa : Nat
  f64 : Bool
  val : W64
  deriving DecidableEq, Repr

/-- A group's context (R261, R353, R365). `ksSeen`: the largest n of its tc.waits on tc16
(R223); `laneKv`: by lane, that of its tc.waits on tc17 (R204); `lostBy`: the request and the lane whose lost write's address
`lost` holds (R414). -/
structure Group where
  task : Nat
  idx : Nat
  st : GroupState
  partition : Nat
  order : Nat
  inactiveSince : Nat
  reg : Assoc VReg
  lastRead : List Nat
  hist : Assoc (List VReg)
  sreg : List W32
  preds : List Mask
  frags : Assoc Frag
  fuses : Assoc FuseRec
  fpctl : W32
  leasectl : W32
  trappc : W64
  trapst : W32
  seed : W64
  ctr : W32
  ld : Nat
  stc : Nat
  ec : Nat
  tr : Nat
  busy : List Busy
  barArr : Assoc Nat
  declared : Nat
  filter : NatSet
  memIssued : Nat
  measured : Nat
  leases : List Lease
  offAcks : Nat
  lost : Option W64
  lostBy : Nat × Nat := (0, 0)
  partials : List Partial
  written : List (Mask × Assoc Nat)
  laneVis : List Nat
  laneSeen : List Nat
  laneKv : List Nat
  park : Option Park
  pending : Option FaultRec
  ksSeen : Nat
  deriving DecidableEq, Repr

/-! Tasks, launches and queues. -/

/-- The states of a task (R262), with the saved state of a pre-empted one (R355). -/
inductive TaskState | queued | distributed | resident | draining | done | saved
  deriving DecidableEq, Repr

/-- A barrier of a team (R139): how many phases have completed (the phase bit is its parity), arrivals, expected count
once fixed, and whether that count follows exits. -/
structure Barrier where
  phase : Nat
  arrivals : Nat
  expected : Option Nat
  byLanes : Bool
  arrived : List (Nat × Mask)
  deriving DecidableEq, Repr

/-- A timeline counter (R177, R178): commands covered, last accepted, failures, FIRST, release
timestamps by value (R302), and the sectors that the commands wrote (R169). -/
structure Timeline where
  done : List (Nat × Nat)
  v : Nat
  last : Nat
  err : W32
  first : Nat
  ts : List (Nat × Nat)
  wrote : List (Nat × NatSet)
  deriving DecidableEq, Repr

/-- Copy, transpose and reduction commands (R182, R196, R197) with the operands read at issue. -/
inductive CopyKind
  | plain (dsp ssp : Bool)
  | multicast
  | remote
  | fill (pat : W32) (dsp : Bool)
  | gather (dsp : Bool)
  | scatter (ssp : Bool)
  | transpose (esz rows cols sp dp : Nat)
  | reduce (ty op : Nat)
  deriving DecidableEq, Repr

/-- A chunk of a command (R183): not started; waiting for remote homes at a slice, under a number, since a clock (R189);
or executed, with a status and the bytes of its stream. -/
inductive ChunkSt
  | unstarted
  | executing (slice id born : Nat)
  | done (status : Nat) (bytes : List Byte)
  deriving DecidableEq, Repr

/-- A chunk in a Mortar unit's queue (R338). -/
structure ChunkRef where
  chan : Chan
  value : Nat
  idx : Nat
  deriving DecidableEq, Repr

/-- A copy command (R180-R190): completion value, operands, flags, its chunks, the visibility time of its writes, the
destinations read from a multicast's list, a status that its operands or list fix, and how it ended. -/
structure CopyCmd where
  value : Nat
  kind : CopyKind
  dst : W64
  src : W64
  len : Nat
  ck : Nat
  chain : Bool
  cmp : Bool
  ord : Bool
  pc : W64
  chunks : List ChunkSt
  vis : Nat
  dests : Option (List W64)
  bad : Option Nat
  ended : Option Nat
  deriving DecidableEq, Repr

/-- A copy channel (R180, R185, R190). -/
structure Channel where
  cmds : List CopyCmd
  rv : W32
  x : W32
  stopped : Bool
  lastLen : Nat
  deriving DecidableEq, Repr

/-- A KV command accepted on tc17 (R201); `seq` orders acceptances against the disabling of trees (R376); `lost`: the slice
that retired while the command was in progress, for what it has not read yet (R431). -/
structure KvCmd where
  value : Nat
  seq : Nat
  op : Nat
  block : W64
  pc : W64
  lost : Option Nat := none
  deriving DecidableEq, Repr

/-- What a sequence was before a kv.append (R203): the task and the completion value of the append, the sequence's length, and
the page of its last block. -/
structure KvPast where
  tree : Nat
  seq : Nat
  task : Nat
  value : Nat
  len : Nat
  page : Nat
  deriving DecidableEq, Repr

/-- A change of a field of a prefix tree's area (R377): where it lies, its length, its value before, the change's number, and
the number of the acceptance of the command that made it, once that is known. -/
structure TreeChange where
  pa : Nat
  n : Nat
  old : Nat
  at' : Nat
  by' : Option Nat
  deriving DecidableEq, Repr

/-- A scratch mapping (R174): chunks valid and dirty, by chunk number. -/
structure SMap where
  va : W64
  off : Nat
  len : Nat
  valid : NatSet
  dirty : NatSet
  deriving DecidableEq, Repr

/-- A task (R249-R263). `hold`: it waits for a resumption of mode 2 (0), or of mode 3 on core c (c + 1) (R355). -/
structure Task where
  launch : Nat
  t : Nat
  lvl : List Nat
  st : TaskState
  die : Nat
  quad : Nat
  core : Nat
  slot : Nat
  live : List Nat
  bars : List Barrier
  tcs : Assoc Timeline
  chs : Assoc Channel
  kvq : List KvCmd
  kvStopped : Bool
  banks : List Nat
  scratch : Nat
  maps : List SMap
  share : Option (Nat × Nat)
  mc : Nat
  forced : Bool
  ks : Option Nat
  ksFrame : Option Nat
  killed : Option Nat
  order : Nat
  passedOver : Option Nat
  budget : Option Nat
  hold : Option Nat
  deriving DecidableEq, Repr

/-- A launch: its record's fields and what has happened to it (R249, R263, R163, R357). `binds`: the cluster of each instance of its level of domain 3 (R258);
`vis`: the largest visibility time of the writes of its tasks that are over (R263, R298); `acq`: the largest write time that
the reads of its queue's TAIL and of its entry returned (R290). -/
structure Launch where
  die : Nat
  queue : Nat
  index : Nat
  entry : W64
  ksEntry : W64
  arg : W64
  asid : Nat
  ser : Bool
  nstl : Bool
  sup : Bool
  dies : Nat
  prio : Nat
  pcls : Nat
  gpt : Nat
  lvls : Nat
  levels : List W32
  scr : Nat
  lease : Nat
  rqh : Nat
  banksR : W32
  sema : W64
  semv : W64
  cmop : Nat
  nf : Bool
  killed : Option Nat
  consumed : Nat
  done : Bool
  vis : Nat
  acq : Nat := 0
  binds : Assoc Nat
  deriving DecidableEq, Repr

/-- A queue processor's state for one queue (R252, R253): what the entry in progress has already done. -/
structure QueueSt where
  busy : Option Nat
  watching : Bool
  ct : Nat
  deriving DecidableEq, Repr

/-! Keystone contexts and the matrix engine (09_instr_keystone.md). -/

/-- Where an access leads (R149, R325): a physical address, a byte of a task's scratch (reached through a
mapping of R174 or not), or nowhere. -/
inductive Place
  | mem (pa grain : Nat) (pol : Policy)
  | bank (task off : Nat) (mapped : Bool)
  | none
  deriving DecidableEq, Repr

/-- A contiguous run of a matrix command's operand (R213): the row or column it belongs to, its offset there, its length
and place, the bytes it held at acceptance, and whether its home retired since. -/
structure MatRun where
  idx : Nat
  off : Nat
  n : Nat
  loc : Place
  old : List Byte
  lost : Bool
  deriving DecidableEq, Repr

/-- Matrix commands (R208-R220) with the operands read at issue. -/
inductive MatKind
  | mma (acc ta afmt bfmt kc : Nat) (hold zacc : Bool) (bkind : Nat) (desc : List W32) (keep : Bool) (ta0 tb0 : W32)
  | lda (ta : Nat) (src : W64) (pitch rows bytes : Nat) (bad : Bool)
  | zero (acc : Nat)
  | scale (acc sub : Nat) (sig : W64)
  | drain (acc fmt : Nat) (rnd : Rnd) (sat : Bool) (dst : W64) (pitch : Nat) (seed : W64) (ctr : W32)
  | pass (dir src : Nat) (desc : List W32) (len : Nat)
  | recv (west drop : Bool) (desc : List W32)
  deriving DecidableEq, Repr

/-- A tile on a link: 256 operand-row images and their length (R219). -/
structure Tile where
  len : Nat
  images : Assoc (List Byte)
  deriving DecidableEq, Repr

/-- An accepted matrix command: the runs of memory it reads and writes once validated, and the accumulator elements that
v.accwr wrote while it was incomplete, each with the value before and the value written (R213, R224). -/
structure MatCmd where
  value : Nat
  kind : MatKind
  pc : W64
  started : Bool
  reads : List MatRun
  dests : List MatRun
  vaWrites : List (Nat × W32 × W32)
  deriving DecidableEq, Repr

/-- An engine command: for a copy channel, the KV context or the matrix queue (R180). -/
inductive EngCmd
  | copy (ch : Nat) (c : CopyCmd)
  | kv (c : KvCmd)
  | matrix (c : MatCmd)
  deriving DecidableEq, Repr

/-- A command not accepted yet (R180): who issued it, its lanes, the requests it waits for (R302), the command, and the
registers that receive its completion value (true: the high half). -/
structure PendCmd where
  agent : Agent
  fmask : Mask
  after : List Nat
  cmd : EngCmd
  dst : List (Nat × Bool)
  deriving DecidableEq, Repr

/-- A Keystone context (R206). -/
structure KsCtx where
  task : Option Nat
  running : Bool
  stopped : Bool
  exited : Bool
  pc : W64
  sreg : List W32
  preds : List Bool
  ta : Assoc (Assoc Byte)
  acc : Assoc (Assoc W32)
  accHist : List (Nat × Nat × W32)
  tc : Timeline
  ch0 : Channel
  mq : List MatCmd
  mqStopped : Bool
  latch : Option (Nat × Nat × Nat)
  sat : Bool
  seed : W64
  ctr : W32
  west : List Tile
  north : List Tile
  ld : Nat
  stc : Nat
  ec : Nat
  st : FragState
  holdUntil : Nat
  busy : List Busy
  acqSeen : Nat
  vis : Nat
  deriving DecidableEq, Repr

/-! Memory requests (14_memory_model.md, 07_instr_memory.md). -/

/-- What a memory request does at its home; a translation of KV positions (R204), accumulator accesses (R222), a sum of
partials that found its staging table full (R163) and the registration of a watch at a remote home (R167) are requests
too. -/
inductive ReqOp
  | load
  | store
  | atom (op : Nat) (ty : Ty) (ret : Bool)
  | det (ty : Ty)
  | xlat (pred : Nat)
  | accRead (ks acc : Nat)
  | accWrite (ks acc : Nat)
  | watch (want : W64) (dst : Nat)
  deriving DecidableEq, Repr

/-- One single-copy-atomic unit of a lane's access: lane, byte offset in the access, place, bytes, virtual address,
operand and compare value, whether a remote home has been asked, and what it answered. -/
structure LaneReq where
  lane : Nat
  off : Nat
  loc : Place
  size : Nat
  va : W64
  data : List Byte
  cmp : List Byte
  sent : Bool
  got : Option (List Byte)
  deriving DecidableEq, Repr

/-- A memory request between issue and completion (R155, R156): its fragment's lanes at issue (R288), where its result
goes, the lanes that take part, whether one access serves them all, its order, the largest visibility time of its writes, the largest write
time of its reads, where its atomics are to run (R162: 0 .auto, 1 .near, 2 .far), whether its fragment waits for it, the parts of its result that younger writes replace, and the clock of its issue. -/
structure Req where
  agent : Agent
  who : W32
  sup : Bool
  fmask : Mask
  core : Nat
  pc : W64
  op : ReqOp
  lanes : List LaneReq
  dst : Option (Cls × Nat)
  regs : Nat
  part : Mask
  one : Bool
  order : Order
  scope : Scope
  place : Nat := 2
  vis : Nat
  seen : Nat
  blocking : Bool
  overwritten : List (Nat × Mask)
  born : Nat := 0
  deriving DecidableEq, Repr

/-- A line of a core's L1 (R315): the bank that is its way, valid sectors, bytes, the clock of its last use, and by
sector the wts and rts of the grain it belongs to and the clock of its fill (R294, R300). -/
structure L1Line where
  way : Nat
  valid : Nat
  data : Assoc Byte
  ts : Assoc (Nat × Nat × Nat)
  used : Nat
  deriving DecidableEq, Repr

/-- An instruction cache sector: the bytes taken at fill, and the wts and rts of their grain (R305). -/
structure ILine where
  data : List Byte
  wts : Nat
  rts : Nat
  deriving DecidableEq, Repr

/-- A line of a store slice (R330). -/
structure StoreLine where
  dirty : Bool
  recency : Nat
  freq : Nat
  deriving DecidableEq, Repr

/-- A cached translation from a global leaf, which serves every address space (R364): where the leaf lies, its value, the
address space whose tables hold it, its level and the virtual range it covers. -/
structure PteSeen where
  pa : Nat
  val : W64
  asid : Nat
  level : Nat
  lo : Nat
  size : Nat
  deriving DecidableEq, Repr

/-- What R365 needs of the past, newest first: a word of memory lost a value that a walk could have cached, or a sys.tlbi
dropped entries: those of an address space where one is named, and those that cover an address where one is named (R235). -/
inductive XEvent
  | held (pa : Nat) (val : W64)
  | drop (asid : Nat) (va : Option Nat)
  deriving DecidableEq, Repr

/-- A waiter of wait.addr, of a queue processor or of a wait entry (R167, R252, R254). -/
inductive Waiter
  | frag (grp entry : Nat)
  | queue (die q : Nat)
  deriving DecidableEq, Repr

/-- A request that waits at a home for a holder (R402): a unit of a memory request, or a request of a peer or of a host's
port. -/
inductive HomeWaiter
  | req (id : Nat)
  | peer (r : PeerReq)
  | host (port : Nat) (r : HostReq)
  deriving DecidableEq, Repr

/-- A registered watch (R167): its grain, the cause once it is marked or dropped, and whether its waiter has left. -/
structure Watch where
  id : Nat
  who : Waiter
  slice : Nat
  grain : Nat
  size : Nat
  overflow : Bool
  expiry : Option Nat
  cause : Option Nat
  woken : Bool
  deriving DecidableEq, Repr

/-- A staged deterministic partial (R163): contributor key, address, type, launch, and the values that have arrived for it,
in order, each with its task. -/
structure Staged where
  key : Nat
  pa : Nat
  f64 : Bool
  launch : Nat
  parts : List (Nat × W64)
  deriving DecidableEq, Repr

/-- A core watch (R242) and a slice watch (R243). -/
structure CWatch where
  va : W64
  asid : Nat
  len : Nat
  w : Bool
  r : Bool
  deriving DecidableEq, Repr
structure SWatch where
  pa : Nat
  len : Nat
  rd : Bool
  deriving DecidableEq, Repr

/-- The roles of a core bank (R314). -/
inductive Role | cache | scratch | fifo | switching (role : Nat)
  deriving DecidableEq, Repr

/-- A bank of a core (R314-R318). -/
structure Bank where
  role : Role
  holder : Option Nat
  data : Assoc Byte
  fifo : List W32
  waiters : List (Nat × Nat)
  deriving DecidableEq, Repr

/-- A role change that a core's bank controller has not carried out (R318): its ticket, a number above those of the requests
issued before it; the clock of its arrival and its rank among those of one clock; the bank, the code of the new role, and
the task; the copy commands that write the bank and the matrix commands that read it, which it waits for. -/
structure Switch where
  ticket : Nat
  clk : Nat
  rank : Nat
  bank : Nat
  role : Nat
  task : Nat
  copies : List (Nat × Nat)
  mats : List (Nat × Nat)
  deriving DecidableEq, Repr

/-- A core (R314, R294, R267, R272). `review`, `idleReview`, `reviewed`: the clocks of its last periodic and idle-triggered
reviews, and the groups that the last review saw (R270). By partition times 2 plus slot (0 A, 1 B): the fragment that last issued, the promoted
one, and the clock at which an instruction frees the slot (R275, R276). -/
structure Core where
  banks : Assoc Bank
  switches : List Switch
  l1 : Assoc L1Line
  il : Assoc ILine
  victims : List Nat
  hits : Nat
  f : Nat
  ct : Nat
  kt : Nat
  removed : Bool
  isolated : Bool
  watch : Assoc CWatch
  review : Nat
  idleReview : Nat
  reviewed : List Nat
  last : Assoc (Nat × Nat)
  promoted : Assoc (Nat × Nat)
  slotBusy : Assoc Nat
  parkOrder : List Nat
  deriving DecidableEq, Repr

/-- A cluster: the Keystone fill path and the sharing groups (R305, R173). -/
structure Cluster where
  kt : Nat
  il : Assoc ILine
  shares : Assoc (List (Nat × Nat) × Nat)
  issueNext : Nat
  engineNext : Nat
  deriving DecidableEq, Repr

/-- A frame of a die's pool (R352-R354): where it lies, its length, its format (1 group, 2 task, 3 Keystone) and the
group or task that owns it. -/
structure FrameRec where
  die : Nat
  base : Nat
  bytes : Nat
  kind : Nat
  owner : Nat
  deriving DecidableEq, Repr

/-- What an acknowledgement of a written queue entry acts on (R239, R256, R264, R346, R351). -/
inductive AckTarget
  | group (g entry : Nat)
  | keystone (k task : Nat)
  | launch (l : Nat)
  | reject
  | watch
  | channel (task ch : Nat) (value : Nat)
  | ksChannel (k task : Nat) (value : Nat)
  | matrix (k task : Nat) (value : Nat)
  | kv (task : Nat) (value : Nat)
  | scratchWb (task : Nat) (va : W64)
  deriving DecidableEq, Repr

/-- A set of 32-byte records waiting to be written to a die's fault queue or retry ring (R349, R351). -/
structure PendSet where
  die : Nat
  retry : Bool
  target : AckTarget
  cause : Nat
  recs : List (List Byte)
  deriving DecidableEq, Repr

/-- A written fault or retry record: its die, running index, whether it is its set's first, and its fate. -/
structure Entry where
  die : Nat
  index : Nat
  first : Bool
  target : AckTarget
  cause : Nat
  acked : Bool
  withdrawn : Bool
  deriving DecidableEq, Repr

/-! Directory, fabric and host (23_coherence_fabric_host.md). -/

/-- The directory entry of a 64-byte half of a line (R400, R401); both halves of a line that a group holds carry the
same entry. State code, exclusive owner, shared holders, the holders not yet answered with the clock at which the
recall expires, whether the unit is the whole line, and when the entry was last granted or used. -/
structure DirEnt where
  st : Nat
  owner : Option W32
  sharers : List W32
  asked : List W32
  deadline : Nat
  whole : Bool
  used : Nat
  deriving DecidableEq, Repr

/-- An answer sent to the outside world. -/
inductive OutMsg
  | peerReply (dev tag : Nat) (data : List Byte) (ok : Bool)
  | peerAck (dev tag : Nat) (refused : Bool)
  | peerRequest (dev tag pa : Nat) (write : Bool)
  | flitAck (link seq : Nat)
  | flitRetry (link seq : Nat)
  | flitSend (link seq : Nat)
  | hostReply (port : Nat) (data : List Byte) (poison : Bool)
  | hostAck (port : Nat)
  | hostRecall (port unit : Nat)
  | peerRecall (dev unit : Nat)
  | snoopAnswer (port line : Nat)
  | forwarded (link src tag dst : Nat)
  | spdm (port code : Nat) (fields : List Nat)
  | memoryEvent (port : Nat)
  | berdun
  deriving DecidableEq, Repr

/-- An Ashlar link (R408-R410, R431): whether it carries flits, its lanes, the failed retries in a row, the sequence numbers
that it sends and expects next, and the flits sent that no answer has covered. -/
structure Link where
  up : Bool
  lanes : Nat
  retries : Nat
  txSeq : Nat
  rxSeq : Nat
  unacked : List Nat
  deriving DecidableEq, Repr

/-- A CXL port (R416-R422): trained; the keys of the link's stream and of CXL.cachemem, once protection is established; how far SPDM negotiation has come (0 nothing, 1 version, 2 capabilities, 3 algorithms), the numbers that
its transcript holds, a key exchange not finished, and the session's key. -/
structure Port where
  up : Bool
  ioKey : Option Nat
  memKey : Option Nat
  spdm : Nat
  transcript : List Nat
  handshake : Option Nat
  session : Option Nat
  deriving DecidableEq, Repr

/-- A ring segment (R428): powered since its last packet's store clock, provisionally gated until a store clock, gated, or
waking until a store clock. -/
inductive Segment
  | powered (last : Nat)
  | deciding (till : Nat)
  | gated
  | waking (till : Nat)
  deriving DecidableEq, Repr

/-- Firmware and its identity (R421, R424, R425): the running image's digest, firmware version and security version, the fused
minimum of the latter, and the digest of the domain configuration. -/
structure Firmware where
  digest : Nat
  version : Nat
  security : Nat
  fused : Nat
  domain : Nat
  deriving DecidableEq, Repr

/-- The device-wide condition (R423-R431): STATE and REPL of HEALTH, the bring-up step reached and the cause of a failure,
corrected-error counts, retired slices, islands whose power differs from full, segments, and the routing table. -/
structure Health where
  st : Nat
  repl : Bool
  step : Nat
  cause : Nat
  counts : List (UnitId × Nat)
  retired : NatSet
  islands : Assoc Nat
  segments : Assoc Segment
  routing : Assoc (List Nat)
  deriving DecidableEq, Repr

/-- The machine. `preq`: by die, the tasks that a pre-emption request in progress names, each with the hold it takes
(R355); `preqAt`: by die, the clock at which it arrived (R237); `tailTs`: the largest visibility time of the records that a ring's TAIL has released (R349); `trafficUse`: by port, the
limit of its window and the bytes injected in it; `trafficWin`: by die and class, the length of the window (R337);
`wakeAt`: by slice, the store clock of its last wake (R167); `homeQ`: the requests that wait at their homes for a holder, by
half of a line, in order of arrival (R402). -/
structure State where
  cur : Option Agent
  issue : List Agent
  agenda : List Instr
  free : Nat
  nextId : Nat
  clk : Nat
  mem : Memory
  published : NatSet
  grains : Assoc (Nat × Nat)
  mts : Assoc Nat
  lines : Assoc StoreLine
  poisoned : NatSet
  sweep : Nat
  ptes : List PteSeen
  xhist : List XEvent
  contended : NatSet
  reqs : Assoc Req
  pends : Assoc PendCmd
  grps : Assoc Group
  tasks : Assoc Task
  launches : Assoc Launch
  queues : Assoc QueueSt
  ks : Assoc KsCtx
  cores : Assoc Core
  clus : Assoc Cluster
  ctl : Assoc W64
  tailTs : Assoc Nat
  mmio : Assoc W64
  trafficUse : Assoc (Nat × Nat)
  trafficWin : Assoc Nat
  watches : List Watch
  wakeAt : Assoc Nat
  swatches : Assoc SWatch
  staging : Assoc (List Staged)
  mortar : Assoc (List ChunkRef)
  mortarIdle : Assoc Nat
  contractFrom : Assoc (List W64 × NatSet)
  frames : List FrameRec
  sets : List PendSet
  entries : List Entry
  retries : List Entry
  preq : Assoc (List (Nat × Nat))
  preqAt : Assoc Nat
  dispatchAlone : Assoc Nat
  dir : Assoc DirEnt
  peerTags : Assoc (Nat × Nat × Nat)
  performed : List (PeerReq × OutMsg)
  homeQ : List (Nat × HomeWaiter)
  peerQ : List PeerReq
  hostQ : List (Nat × HostReq)
  peerM : Assoc Nat
  links : Assoc Link
  ports : Assoc Port
  hostM : Assoc Nat
  out : List OutMsg
  refetch : List (Nat × Nat)
  trees : Assoc Nat
  kvHist : Assoc (List Byte)
  kvPast : List KvPast
  treeLog : List TreeChange
  pubBusy : Option (Nat × Nat)
  health : Health
  firmware : Firmware
  deriving DecidableEq, Repr

/-- The condition of the package after bring-up (R423 step 7): NOMINAL, nothing retired or failed. -/
def Health.nominal : Health :=
  { st := 0, repl := false, step := 7, cause := 0, counts := [], retired := [], islands := [], segments := [],
    routing := [] }

/-- A port after training (R423 step 4): up, no link protection and no session. -/
def Port.trained : Port :=
  { up := true, ioKey := none, memKey := none, spdm := 0, transcript := [], handshake := none,
    session := none }

/-- An Ashlar link after training at full width (R423 step 5, R431). -/
def Link.trained : Link := { up := true, lanes := 8, retries := 0, txSeq := 0, rxSeq := 0, unacked := [] }

/-- Firmware before any image is reported (log 8): no digest is given, and the fused minimum is the part's. -/
def Firmware.first : Firmware := { digest := 0, version := 0, security := Config.fusedMinimum, fused := Config.fusedMinimum, domain := 0 }

/-- The machine right after package reset and a bring-up in which every step succeeded (R423, log 8): every register
at its reset value, memory with nothing listed, no queue, task or group. -/
def State.reset : State :=
  { cur := none, issue := [], agenda := [], free := 0, nextId := 0, clk := 0, mem := [], published := [], grains := [], mts := [],
    lines := [], poisoned := [], sweep := 0, ptes := [], xhist := [], contended := [], reqs := [], pends := [], grps := [], tasks := [], launches := [], queues := [], ks := [],
    cores := [], clus := [], ctl := [], tailTs := [], mmio := [], trafficUse := [], trafficWin := [], watches := [], wakeAt := [], swatches := [], staging := [],
    mortar := [], mortarIdle := [], contractFrom := [], frames := [], sets := [], entries := [], retries := [],
    preq := [], preqAt := [], dispatchAlone := [], dir := [], peerTags := [], performed := [], homeQ := [], peerQ := [], hostQ := [], peerM := [],
    links := (List.range 16).map fun i => (i, Link.trained),
    ports := [(0, Port.trained), (1, Port.trained)],
    hostM := [], out := [], refetch := [], trees := [], kvHist := [], kvPast := [], treeLog := [], pubBusy := none, health := Health.nominal,
    firmware := Firmware.first }

end Sys2Proof.Machine
end

