-- ==== Sys2Proof/Machine/Ops.lean ====
section
/-! DEFINITION. The named operations over the state that every meaning shares: free choices, the agents and their
registers, control registers, fuse and split, exit, and taking an exception. -/
namespace Sys2Proof.Machine

/-! Free choices (R6, R7, log 4). -/

/-- One of n possibilities, where there are several. -/
def pick (s : State) (n : Nat) : Nat × State :=
  if n ≤ 1 then (0, s) else (Config.freeNat s.free % n, { s with free := s.free + 1 })

/-- One member of an enumerated set of values. -/
def pickFrom {α : Type} (s : State) (xs : List α) (d : α) : α × State :=
  let (k, s) := pick s xs.length
  (xs.getD k d, s)

/-- A value that nothing constrains. -/
def anyWord (s : State) : W64 × State := (Config.freeWord s.free, { s with free := s.free + 1 })

/-- The opaque bytes a command leaves unpredictable among all values. -/
def anyByte (s : State) : Byte × State :=
  let (w, s) := anyWord s
  (w.setWidth 8, s)

/-! Where things are (R17, R323, R324). -/
def groupKey (task grp : Nat) : Nat := task * 16 + grp
def dieOfCore (c : Nat) : Nat := c / 48
def cluOfCore (c : Nat) : Nat := c / 4
def quadOfCore (c : Nat) : Nat := 4 * (c / 48) + c % 48 / 12
def dieOfSlice (i : Nat) : Nat := i / 64
def quadOfSlice (i : Nat) : Nat := i / 16

/-! Lookups and updates. -/
def emptyTimeline : Timeline := { done := [], v := 0, last := 0, err := 0#32, first := 0, ts := [], wrote := [] }
def emptyChannel : Channel := { cmds := [], rv := 0#32, x := 0#32, stopped := false, lastLen := 0 }
def emptyBank : Bank := { role := .cache, holder := none, data := [], fifo := [], waiters := [] }
def emptyCore : Core :=
  { banks := [], switches := [], l1 := [], il := [], victims := [], hits := 0, f := 14, ct := 0, kt := 0, removed := false,
    isolated := false, watch := [], review := 0, idleReview := 0, reviewed := [], last := [], promoted := [], slotBusy := [], parkOrder := [] }
def emptyCluster : Cluster := { kt := 0, il := [], shares := [], issueNext := 0, engineNext := 0 }
def noLines : List W32 := List.replicate 128 0#32
def emptyKs : KsCtx :=
  { task := none, running := false, stopped := false, exited := false, pc := 0#64, sreg := noLines,
    preds := List.replicate 16 false, ta := [], acc := [], accHist := [], tc := emptyTimeline, ch0 := emptyChannel,
    mq := [], mqStopped := false, latch := none, sat := false, seed := 0#64, ctr := 0#32, west := [], north := [],
    ld := 0, stc := 0, ec := 0, st := .ready, holdUntil := 0, busy := [], acqSeen := 0, vis := 0 }

/-- LEASECTL at reset (R165). -/
def leasectlReset : W32 := 0x01001000#32
/-- A group at task start (R261): one fragment with all lanes at the entry PC, nothing mapped, predicates clear. -/
def freshGroup (task idx partition order : Nat) (entry arg : W64) (sup : Bool) (declared now : Nat) : Group :=
  { task := task, idx := idx, st := .inactive, partition := partition, order := order, inactiveSince := now, reg := [],
    lastRead := [], hist := [],
    sreg := arg.setWidth 32 :: (arg >>> 32).setWidth 32 :: List.replicate 126 0#32,
    preds := List.replicate 15 0#64,
    frags := [(0, { mask := BitVec.allOnes 64, pc := entry, record := none, st := .ready, sup := sup, handler := false, cont := false,
                    yieldReq := false, holdUntil := now, readySince := now })],
    fuses := [], fpctl := 0#32, leasectl := leasectlReset, trappc := 0#64, trapst := 0#32, seed := 0#64, ctr := 0#32,
    ld := 0, stc := 0, ec := 0, tr := 0, busy := [], barArr := [], declared := declared,
    filter := [], memIssued := 0, measured := 16384, leases := [], offAcks := 0, lost := none, partials := [],
    written := [], laneVis := List.replicate 64 0, laneSeen := List.replicate 64 0, laneKv := List.replicate 64 0, park := none, pending := none,
    ksSeen := 0 }
/-- A task before its admission. -/
def freshTask (launch t : Nat) (lvl : List Nat) (die quad order : Nat) : Task :=
  { launch := launch, t := t, lvl := lvl, st := .distributed, die := die, quad := quad, core := 0, slot := 0, live := [],
    bars := [], tcs := [], chs := [], kvq := [], kvStopped := false, banks := [], scratch := 0, maps := [],
    share := none, mc := 0, forced := false, ks := none, ksFrame := none, killed := none, order := order,
    passedOver := none, budget := none, hold := none }

namespace State
def core (s : State) (c : Nat) : Core := s.cores.getD c emptyCore
def clu (s : State) (c : Nat) : Cluster := s.clus.getD c emptyCluster
def ksCtx (s : State) (k : Nat) : KsCtx := s.ks.getD k emptyKs
def modCore (s : State) (c : Nat) (f : Core → Core) : State := { s with cores := s.cores.set c (f (s.core c)) }
def modClu (s : State) (c : Nat) (f : Cluster → Cluster) : State := { s with clus := s.clus.set c (f (s.clu c)) }
def modKs (s : State) (k : Nat) (f : KsCtx → KsCtx) : State := { s with ks := s.ks.set k (f (s.ksCtx k)) }
def modGrp (s : State) (g : Nat) (f : Group → Group) : State := { s with grps := s.grps.update g f }
def modTask (s : State) (t : Nat) (f : Task → Task) : State := { s with tasks := s.tasks.update t f }
def modLaunch (s : State) (l : Nat) (f : Launch → Launch) : State := { s with launches := s.launches.update l f }
def modReq (s : State) (i : Nat) (f : Req → Req) : State := { s with reqs := s.reqs.update i f }

/-- The task of a group key. -/
def grpTask (s : State) (g : Nat) : Option Task := (s.grps.get? g).bind fun G => s.tasks.get? G.task
/-- The launch of a task. -/
def launchOf (s : State) (t : Task) : Option Launch := s.launches.get? t.launch

/-- A fragment of a group. -/
def frag? (s : State) (g e : Nat) : Option Frag := (s.grps.get? g).bind fun G => G.frags.get? e

def modFrag (s : State) (g e : Nat) (f : Frag → Frag) : State :=
  s.modGrp g fun G => { G with frags := G.frags.update e f }

/-- The core a group runs on. -/
def coreOfGrp (s : State) (g : Nat) : Nat := ((s.grpTask g).map (·.core)).getD 0

/-- Whether an agent exists. -/
def hasAgent (s : State) : Agent → Bool
  | .frag g e => (s.frag? g e).isSome
  | .ks k => k < 192
end State

/-! Control and MMIO registers by their reset values (R229, R230, R267, R295, R337, R366). -/

/-- The reset value of a control register number. -/
def ctlReset (n : Nat) : W64 :=
  if n = 0x010 then 0x3E8#64
  else if n = 0x038 then 0x1000#64
  else if n = 0x040 then 0x1004C10E#64
  else if n = 0x048 then 0x41000#64
  else 0#64

namespace State
/-- A package register, or a die's register kept under number + 4096 × die. -/
def ctlReg (s : State) (n : Nat) : W64 := s.ctl.getD n (ctlReset (n % 4096))
def setCtl (s : State) (n : Nat) (v : W64) : State := { s with ctl := s.ctl.put (ctlReset (n % 4096)) n v }

/-- TSLEASE (R295). -/
def leaseLen (s : State) : Nat := max 16 ((s.ctlReg 0x048).toNat % 2 ^ 16)
def ctAdv (s : State) : Nat := 2 ^ ((s.ctlReg 0x048).toNat / 2 ^ 16 % 16)
/-- FPGATE fields (R267). -/
def gateClamp (x : Nat) : Nat := max 8 (min 16 x)
def fdef (s : State) : Nat := gateClamp ((s.ctlReg 0x040).toNat % 32)
def fmin (s : State) : Nat := gateClamp ((s.ctlReg 0x040).toNat / 2 ^ 5 % 32)
def fmax (s : State) : Nat := gateClamp ((s.ctlReg 0x040).toNat / 2 ^ 10 % 32)
def gateAuto (s : State) : Bool := (s.ctlReg 0x040).getLsbD 15
def loth (s : State) : Nat := (s.ctlReg 0x040).toNat / 2 ^ 16 % 256
def hith (s : State) : Nat := (s.ctlReg 0x040).toNat / 2 ^ 24 % 256
/-- TRAPVEC (R350). -/
def trapvec (s : State) : W64 := s.ctlReg 0x00A
/-- The pre-emption budget in clocks (R230, R237). -/
def budgetClocks (s : State) : Nat := (s.ctlReg 0x010).toNat % 2 ^ 24 * 3300
end State

/-- The number of a die's register in `ctl`: FAULTQ, FQPTR, RETRYQ, RQPTR of a die (R229). -/
def dieReg (die n : Nat) : Nat := n + 4096 * die

/-! Registers of a group and of a Keystone context (R42, R65, R265). -/

/-- Value of a pair of registers (R42). -/
def pairOf (lo hi : W32) : W64 := hi ++ lo

def lo32 (x : W64) : W32 := x.setWidth 32
def hi32 (x : W64) : W32 := (x >>> 32).setWidth 32

/-- A vector register of a group: zero in every lane when unmapped (R265). -/
def Group.vreg (G : Group) (v : Nat) : VReg := (G.reg.get? v).getD (List.replicate 64 0#32)
def Group.vlane (G : Group) (v l : Nat) : W32 := (G.vreg v).getD l 0#32
def Group.sget (G : Group) (i : Nat) : W32 := G.sreg.getD i 0#32
/-- A predicate: p15 reads true (R17). -/
def Group.pred (G : Group) (p : Nat) : Mask := if p = 15 then BitVec.allOnes 64 else G.preds.getD p 0#64
/-- More than one fragment. -/
def Group.split (G : Group) : Bool := 1 < G.frags.length
/-- The lanes of all fragments. -/
def Group.liveMask (G : Group) : Mask := G.frags.foldl (fun m p => m ||| p.2.mask) 0#64

/-- Write chosen lanes of a vector register; an unmapped one is mapped, its other lanes zero (R265). While the group is
split the value before is kept for R19. Any write ends a last-read release of the register that waits for the next
fuse (DEDUCED, log 41: R15 speaks of a later read before a new write). -/
def Group.vwrite (G : Group) (v : Nat) (f : Nat → Option W32) : Group :=
  let old := G.vreg v
  let new := (List.range 64).map (fun l => (f l).getD (old.getD l 0#32))
  { G with
    reg := G.reg.set v new
    lastRead := G.lastRead.filter (· != v)
    hist := if G.split then G.hist.set v (G.hist.getD v [] ++ [old]) else G.hist }

/-- A register that a result will reach later: mapped, and no longer awaiting a release (R15, R265). -/
def Group.mapReg (G : Group) (v : Nat) : Group :=
  { G with reg := if (G.reg.get? v).isSome then G.reg else G.reg.set v (List.replicate 64 0#32)
           lastRead := G.lastRead.filter (· != v) }

/-- Release a mapping (R15, R265). -/
def Group.unmap (G : Group) (v : Nat) : Group :=
  { G with reg := G.reg.erase v
           hist := if G.split && (G.reg.get? v).isSome then G.hist.set v (G.hist.getD v [] ++ [G.vreg v]) else G.hist }

def Group.swrite (G : Group) (i : Nat) (x : W32) : Group := { G with sreg := setAt 0#32 G.sreg i x }

/-- Write chosen lanes of a predicate; p15 discards (R17, R82). -/
def Group.pwrite (G : Group) (p : Nat) (lanes val : Mask) : Group :=
  if p = 15 then G
  else { G with preds := setAt 0#64 G.preds p ((G.pred p &&& ~~~lanes) ||| (val &&& lanes)) }

namespace State
/-- A scalar register of an agent. -/
def sget (s : State) (a : Agent) (i : Nat) : W32 :=
  match a with
  | .frag g _ => ((s.grps.get? g).map (·.sget i)).getD 0#32
  | .ks k => (s.ksCtx k).sreg.getD i 0#32
def sget64 (s : State) (a : Agent) (i : Nat) : W64 := pairOf (s.sget a i) (s.sget a (i + 1))
def sset (s : State) (a : Agent) (i : Nat) (x : W32) : State :=
  match a with
  | .frag g _ => s.modGrp g (·.swrite i x)
  | .ks k => s.modKs k fun c => { c with sreg := setAt 0#32 c.sreg i x }
def sset64 (s : State) (a : Agent) (i : Nat) (x : W64) : State := (s.sset a i (lo32 x)).sset a (i + 1) (hi32 x)

/-- The lane mask of a fragment; nothing for a Keystone context. -/
def maskOfAgent (s : State) : Agent → Mask
  | .frag g e => ((s.frag? g e).map (·.mask)).getD 0#64
  | .ks _ => 0#64

/-- A predicate of an agent: a fragment's lanes, or all lanes alike of the context's bit. -/
def predOf (s : State) (a : Agent) (p : Nat) : Mask :=
  match a with
  | .frag g _ => ((s.grps.get? g).map (·.pred p)).getD 0#64
  | .ks k => if p = 15 || (s.ksCtx k).preds.getD p false then BitVec.allOnes 64 else 0#64

/-- Write a truth value to a predicate: every lane of the fragment, or the context's bit (R69, R191). -/
def pset (s : State) (a : Agent) (p : Nat) (b : Bool) : State :=
  match a with
  | .frag g e =>
    let m := s.maskOfAgent (.frag g e)
    s.modGrp g (·.pwrite p m (if b then m else 0#64))
  | .ks k => if p = 15 then s else s.modKs k fun c => { c with preds := setAt false c.preds p b }

/-- Lanes of the guard among the agent's active lanes (R14). -/
def guardMask (s : State) (a : Agent) (h : Hdr) : Mask :=
  let p := s.predOf a h.gpred.toNat
  let m := if h.gneg then ~~~p else p
  match a with
  | .frag _ _ => m &&& s.maskOfAgent a
  | .ks _ => m

/-- Whether an instruction that acts once executes (R14). -/
def guardOnce (s : State) (a : Agent) (h : Hdr) : Bool := s.guardMask a h != 0#64

def pcOf (s : State) : Agent → W64
  | .frag g e => ((s.frag? g e).map (·.pc)).getD 0#64
  | .ks k => (s.ksCtx k).pc

/-- The task an agent works for. -/
def taskIdOf (s : State) : Agent → Option Nat
  | .frag g _ => (s.grps.get? g).map (·.task)
  | .ks k => (s.ksCtx k).task
def taskOf (s : State) (a : Agent) : Option Task := (s.taskIdOf a).bind s.tasks.get?
def launchIdOf (s : State) (a : Agent) : Nat := ((s.taskOf a).map (·.launch)).getD 0
def launchOfAgent (s : State) (a : Agent) : Option Launch := (s.taskOf a).bind s.launchOf
/-- Address space (R257, R358) and privilege of an agent. -/
def asidOf (s : State) (a : Agent) : Nat := ((s.launchOfAgent a).map fun l => if l.sup then 0 else l.asid).getD 0
def supOf (s : State) : Agent → Bool
  | .frag g e => ((s.frag? g e).map (·.sup)).getD false
  | .ks k => ((s.launchOfAgent (.ks k)).map (·.sup)).getD false
/-- The core of a fragment; the first core of a Keystone context's cluster. -/
def coreOf (s : State) : Agent → Nat
  | .frag g _ => s.coreOfGrp g
  | .ks k => k / 4 * 4
def cluOf (s : State) (a : Agent) : Nat := cluOfCore (s.coreOf a)
def dieOf (s : State) (a : Agent) : Nat := dieOfCore (s.coreOf a)

/-- Mark results that a fixed-latency instruction writes (R141): class, index and the clock of the write. -/
def addBusy (s : State) (a : Agent) (rs : List (Nat × Nat)) (lat : Nat) : State :=
  let bs := rs.map fun r => { cls := r.1, idx := r.2, clk := s.clk + lat : Busy }
  match a with
  | .frag g _ => s.modGrp g fun G => { G with busy := G.busy ++ bs }
  | .ks k => s.modKs k fun c => { c with busy := c.busy ++ bs }

/-- Change an agent's waiting state, its PC kept: it executes the same instruction again. -/
def setSt (s : State) (a : Agent) (st : FragState) : State :=
  match a with
  | .frag g e => s.modFrag g e fun F => { F with st := st }
  | .ks k => s.modKs k fun c => { c with st := st }
def stOf (s : State) : Agent → FragState
  | .frag g e => ((s.frag? g e).map (·.st)).getD .ready
  | .ks k => (s.ksCtx k).st
/-- The agent waits (R274). -/
def wait (s : State) (a : Agent) (w : Wait) : State := s.setSt a (.waiting w)
/-- The agent is held: an instruction that would exceed a count does not issue (R141). -/
def hold (s : State) (a : Agent) : State := s.setSt a .held
end State

/-! Fuse and join (R133, R135). -/

/-- Lowest split-table entry or record number below 16 that is free. -/
def freeIndex {α : Type} (m : Assoc α) : Option Nat := (List.range 16).find? fun i => (m.get? i).isNone

/-- Pending last-read releases take effect at a fuse (R15). -/
def Group.fusedReleases (G : Group) : Group := { (G.lastRead.foldl Group.unmap G) with lastRead := [] }

/-- The values R19 keeps are dropped when the group is one fragment again. -/
def Group.dropHist (G : Group) : Group := if G.split then G else { G with hist := [] }

/-- Merge the fragments in fuse-wait on record r into the lowest of their entries. -/
def Group.mergeAt (G : Group) (r : Nat) : Group :=
  match G.frags.filter fun p => p.2.record == some r && p.2.st == .fuseWait with
  | [] => G
  | [_] => G
  | (e, F) :: rest =>
    let m := rest.foldl (fun m p => m ||| p.2.mask) F.mask
    let fr := rest.foldl (fun fs p => Assoc.erase fs p.1) G.frags
    ({ G with frags := fr.set e { F with mask := m } }).fusedReleases

/-- A fragment in fuse-wait that holds every lane left of its record resumes, and the record closes (R133). A record that
closes over a fragment whose siblings have exited merges nothing, and is not the fuse at which pending last-read releases
take effect (DEDUCED, log 41). -/
def Group.closeAt (G : Group) (r : Nat) : Group :=
  match G.fuses.get? r with
  | none => G
  | some R =>
    if R.mask = 0#64 then { G with fuses := G.fuses.erase r }
    else
      match G.frags.find? fun p => p.2.record == some r && p.2.st == .fuseWait with
      | some (e, F) =>
        if F.mask = R.mask then
          { G with frags := G.frags.set e { F with record := R.outer, st := .ready }, fuses := G.fuses.erase r }
        else G
      | none => G

/-- A ready fragment at the address of its innermost record enters fuse-wait. -/
def Group.enterFuse (G : Group) : Option (Nat × Group) :=
  match G.frags.find? fun p =>
      (p.2.st == .ready || p.2.st == .held) &&
        (match p.2.record.bind G.fuses.get? with
          | some R => R.addr == p.2.pc
          | none => false) with
  | some (e, F) => F.record.map fun r => (r, { G with frags := G.frags.set e { F with st := .fuseWait } })
  | none => none

/-- Everything the fuse rules do until nothing more applies; nested records close from the innermost outward. -/
def Group.fuseAll : Nat → Group → Group
  | 0, G => G
  | n + 1, G =>
    match G.enterFuse with
    | some (r, G) => fuseAll n ((G.mergeAt r).closeAt r)
    | none => G

/-- The fuse rules after a change of PCs or an exit: every record is tested (R133). -/
def Group.fuse (G : Group) : Group :=
  let G := (List.range 16).foldl (fun G r => (G.mergeAt r).closeAt r) G
  (Group.fuseAll 33 G).dropHist

/-- All fragments wait at a join of one PC: one fragment, no records, at PC + 12 (R135). -/
def Group.join (G : Group) : Group :=
  match G.frags with
  | [] => G
  | (e, F) :: rest =>
    if F.st == .joinWait && rest.all fun p => p.2.st == .joinWait && p.2.pc == F.pc then
      let m := rest.foldl (fun m p => m ||| p.2.mask) F.mask
      ({ G with frags := [(e, { F with mask := m, pc := F.pc + 12#64, record := none, st := .ready })],
                fuses := [] }).fusedReleases.dropHist
    else G

/-! Retirement. -/

/-- A vector source that a last-read bit releases (R15): the registers it names. -/
def releaseRegs (G : Group) (regs written : List Nat) : Group :=
  let rs := regs.filter fun v => !written.contains v
  if G.split then { G with lastRead := NatSet.addAll G.lastRead rs } else rs.foldl Group.unmap G

namespace State
/-- The first clock at which a stall hint lets its fragment be selected again: it stays out for the clocks stated, counted
from the one after its issue (DEDUCED, log 41). -/
def stallEnd (s : State) (h : Hdr) : Nat := if h.stall = 0#3 then s.clk else s.clk + h.stall.toNat + 1

/-- Go on at a PC: hints of the header take effect, a wait ends, and the fuse rules apply (R15, R133). A hold that an
instruction paired with it began stays. -/
def goTo (s : State) (a : Agent) (h : Hdr) (pc : W64) : State :=
  let hold := s.stallEnd h
  match a with
  | .frag g e =>
    s.modGrp g fun G =>
      ({ G with frags := G.frags.update e fun F =>
          { F with pc := pc, st := .ready, yieldReq := h.yield, holdUntil := max F.holdUntil hold, readySince := s.clk,
                   cont := false } }).fuse
  | .ks k => s.modKs k fun c => { c with pc := pc, st := .ready, holdUntil := max c.holdUntil hold }

/-- Retire at the next instruction (R12). -/
def retire (s : State) (a : Agent) (h : Hdr) : State := s.goTo a h (s.pcOf a + 12#64)

/-- Last-read bits of the sources read, the registers written being kept (R15). -/
def lastReads (s : State) (a : Agent) (regs written : List Nat) : State :=
  match a with
  | .frag g _ => s.modGrp g fun G => releaseRegs G regs written
  | .ks _ => s
end State

/-! Splitting (R132-R134). -/

/-- Destinations of a branch as disjoint sets of lanes, ascending by lowest lane. -/
def addDest (ds : List (W64 × Mask)) (pc : W64) (l : Nat) : List (W64 × Mask) :=
  match ds with
  | [] => [(pc, laneBit l)]
  | (q, m) :: r => if q = pc then (q, m ||| laneBit l) :: r else (q, m) :: addDest r pc l

/-- The set of lanes of each destination. -/
def destsOf (mask : Mask) (f : Nat → W64) : List (W64 × Mask) := (lanesOf mask).foldl (fun ds l => addDest ds (f l) l) []

/-- Put the moved sets into free entries. -/
def placeFrags (F : Frag) (r : Option Nat) : List (W64 × Mask) → Assoc Frag → Assoc Frag
  | [], fs => fs
  | (pc, m) :: rest, fs =>
    match freeIndex fs with
    | some e => placeFrags F r rest (fs.set e { F with mask := m, pc := pc, record := r, st := .ready, cont := false })
    | none => fs

/-- The record a split opens: rcv nonzero and not a continued branch (R133, R134). -/
def openRecord (G : Group) (F : Frag) (rcv : W64) (hasRcv : Bool) : Option Nat × Assoc FuseRec :=
  if hasRcv && !F.cont then
    match freeIndex G.fuses with
    | some r => (some r, G.fuses.set r { addr := rcv, mask := F.mask, outer := F.record })
    | none => (F.record, G.fuses)
  else (F.record, G.fuses)

/-- Split the fragment of an entry over its destinations; with too few free entries part of it stays at the branch. -/
def Group.splitTo (G : Group) (e : Nat) (F : Frag) (ds : List (W64 × Mask)) (rcv : W64) (hasRcv : Bool) : Group :=
  match ds with
  | [] => G
  | (pc0, m0) :: rest =>
    let k := 16 - G.frags.length
    if rest.length ≤ k then
      let (r, fs) := openRecord G F rcv hasRcv
      let base := G.frags.set e { F with mask := m0, pc := pc0, record := r, st := .ready, cont := false }
      { G with frags := placeFrags F r rest base, fuses := fs, hist := if G.split then G.hist else [] }
    else if k = 0 then { G with frags := G.frags.set e { F with st := .entryWait } }
    else
      let (r, fs) := openRecord G F rcv hasRcv
      let stay := (rest.drop k).foldl (fun m p => m ||| p.2) m0
      let base := G.frags.set e { F with mask := stay, record := r, st := .ready, cont := true }
      { G with frags := placeFrags F r (rest.take k) base, fuses := fs, hist := if G.split then G.hist else [] }

namespace State
/-- A branch of a fragment whose lanes go to the given destinations (R132). -/
def branchTo (s : State) (g e : Nat) (h : Hdr) (ds : List (W64 × Mask)) (rcv : W64) (hasRcv : Bool) : State :=
  match ds with
  | [(pc, _)] => s.goTo (.frag g e) h pc
  | _ =>
    s.modGrp g fun G =>
      match G.frags.get? e with
      | some F =>
        (G.splitTo e { F with yieldReq := h.yield, holdUntil := max F.holdUntil (s.stallEnd h), readySince := s.clk } ds rcv
          hasRcv).fuse
      | none => G
end State

/-! Barriers, and lanes that exit (R137, R139). -/

/-- A phase that has its expected count completes (R139). -/
def Barrier.complete (b : Barrier) : Barrier :=
  match b.expected with
  | some n => if n ≤ b.arrivals then
      { phase := b.phase + 1, arrivals := 0, expected := none, byLanes := false, arrived := [] } else b
  | none => b

/-- One lane's arrival; the first of a phase fixes the expected count. -/
def Barrier.arriveLane (b : Barrier) (g l : Nat) (n : Nat) (byLanes : Bool) : Barrier :=
  let b := if b.expected.isNone then { b with expected := some n, byLanes := byLanes } else b
  ({ b with arrivals := b.arrivals + 1, arrived := (g, laneBit l) :: b.arrived }).complete

/-- A lane that exits without having arrived in the phase lowers a count taken from the lanes. -/
def Barrier.exitLane (b : Barrier) (g l : Nat) : Barrier :=
  if b.byLanes && !(b.arrived.any fun p => p.1 == g && p.2.getLsbD l) then
    ({ b with expected := b.expected.map (· - 1) }).complete
  else b

/-- Remove lanes from a group's fragments and records; an entry with no lanes is freed. -/
def Group.dropLanes (G : Group) (m : Mask) : Group :=
  let fr := (G.frags.mapVal fun _ F => { F with mask := F.mask &&& ~~~m }).filter fun p => p.2.mask != 0#64
  { G with frags := fr, fuses := G.fuses.mapVal fun _ R => { R with mask := R.mask &&& ~~~m } }

/-! Faults (R344-R350). -/

/-- The words of a record (R347). -/
def FaultRec.infoWord (r : FaultRec) (first last : Bool) : Nat :=
  r.core * 2 ^ 24 + r.team % 128 * 2 ^ 17 + r.grp % 16 * 2 ^ 13 + r.kst.toNat * 2 ^ 12 + r.wdn.toNat * 2 ^ 10 +
    last.toNat * 2 ^ 9 + first.toNat * 2 ^ 8 + r.acc * 2 ^ 6 + r.cause

/-- The 32 bytes of a record (R347). -/
def FaultRec.bytes (r : FaultRec) (first last : Bool) : List Byte :=
  Memory.leBytes 8 r.addr.toNat ++ Memory.leBytes 8 r.lanes.toNat ++ Memory.leBytes 8 r.pc.toNat ++
    Memory.leBytes 4 (r.infoWord first last) ++ Memory.leBytes 4 r.code.toNat

/-- A record of an agent's fault at its PC. -/
def State.mkRec (s : State) (a : Agent) (cause : Nat) (code : W32) (addr : W64) (lanes : Mask) (acc : Nat) : FaultRec :=
  let T := s.taskOf a
  match a with
  | .frag g _ =>
    { addr := addr, lanes := lanes, pc := s.pcOf a, core := s.coreOf a, team := (T.map (·.slot)).getD 0,
      grp := ((s.grps.get? g).map (·.idx)).getD 0, kst := false, wdn := false, acc := acc, cause := cause, code := code }
  | .ks k =>
    { addr := addr, lanes := 0#64, pc := s.pcOf a, core := k / 4 * 4, team := (T.map (·.slot)).getD 0, grp := k % 4,
      kst := true, wdn := false, acc := acc, cause := cause, code := code }

/-- Whether TRAPVEC selects a cause for in-group delivery (R350). -/
def selectedCause (vec : W64) (cause : Nat) : Bool :=
  (cause == 0x12 && vec.getLsbD 7) || (cause == 0x11 && vec.getLsbD 6) || (cause == 0x0F && vec.getLsbD 5) ||
    (cause == 0x0E && vec.getLsbD 4)

/-- TRAPST after an entry (R232, R350). -/
def trapstEntry (sup : Bool) (cause : Nat) : W32 :=
  BitVec.ofNat 32 (2 ^ 9 + sup.toNat * 2 ^ 8 + cause % 64)
/-- The PC that an entry saves (R232, R350): the next instruction for 0x11 and 0x12. -/
def trapPcOf (pc : W64) (cause : Nat) : W64 := if cause = 0x11 || cause = 0x12 then pc + 12#64 else pc

/-- The register that receives the record's words (R350): lanes 0-7 words 0-7, the others zero. -/
def recordLanes (r : FaultRec) : VReg :=
  let bs := r.bytes true true
  (List.range 64).map fun l =>
    if l < 8 then BitVec.ofNat 32 ((bs.drop (4 * l)).take 4 |>.foldr (fun b acc => acc * 256 + b.toNat) 0) else 0#32

/-- A fragment is TRAPPED-OUT by another's handler (R232, R274): what it waits for is kept. -/
def Frag.trapOut (X : Frag) : Frag :=
  { X with handler := false
           st := match X.st with
             | .trappedOut w => .trappedOut w
             | .waiting w => .trappedOut (some w)
             | _ => .trappedOut none }
/-- A fragment as the end of a handler leaves it: one that is TRAPPED-OUT is ready, or goes on to wait (R234, R274). -/
def Frag.trapIn (X : Frag) : Frag :=
  { X with handler := false
           st := match X.st with
             | .trappedOut (some w) => .waiting w
             | .trappedOut none => .ready
             | st => st }

/-- Enter the group's own handler (R350 steps 2 and 4). -/
def Group.enterHandler (G : Group) (e : Nat) (vec : W64) (cause : Nat) : Group :=
  match G.frags.get? e with
  | none => G
  | some F =>
    { G with
      trappc := trapPcOf F.pc cause
      trapst := trapstEntry F.sup cause
      frags := G.frags.mapVal fun j X =>
        if j = e then { X with pc := vec &&& ~~~0xFF#64, sup := true, handler := true, st := .ready } else X.trapOut }
/-- v255 receives the record of the fault that entered the handler (R350 step 3). -/
def Group.trapRecord (G : Group) (r : FaultRec) : Group :=
  let rl := recordLanes r
  { (G.vwrite 255 fun l => some (rl.getD l 0#32)) with pending := none }

/-- The register quota of a group's launch (R249). -/
def State.rqhOf (s : State) (g : Nat) : Nat := ((s.grpTask g).bind s.launchOf).map (·.rqh) |>.getD 32

/-- Registers of a partition's pool of 1,536 that no resident group maps or reserves (R265); a parked group keeps its
reservation (R266). -/
def State.poolFree (s : State) (core part : Nat) : Nat :=
  let used := s.grps.foldl (fun n p =>
    let G := p.2
    if ((s.tasks.get? G.task).map fun T => T.st == .resident && T.core == core) == some true && G.partition == part && G.st != .exited then
      n + max (s.rqhOf p.1) (if G.st == .parked then 0 else G.reg.length)
    else n) 0
  1536 - used

/-- Whether a group may map n more registers: from its reservation, then from the pool (R265). -/
def State.canMap (s : State) (g : Nat) (n : Nat) : Bool :=
  match s.grps.get? g with
  | none => false
  | some G =>
    n ≤ (s.rqhOf g - G.reg.length) + s.poolFree (s.coreOfGrp g) G.partition

/-- The bytes of a set's records, the first and the last marked (R347). -/
def recBytes : Bool → List FaultRec → List (List Byte)
  | _, [] => []
  | first, [r] => [r.bytes first true]
  | first, r :: rest => r.bytes first false :: recBytes false rest

/-- A record set for a die's fault queue. -/
def setOf (die : Nat) (target : AckTarget) (recs : List FaultRec) : PendSet :=
  { die := die, retry := false, target := target, cause := (recs.head?.map (·.cause)).getD 0, recs := recBytes true recs }

namespace State
/-- A group begins to park (R266): no fragment issues; a fault's set is kept with its fragment's entry. -/
def startPark (s : State) (g : Nat) (reason : Nat) (sets : List (Nat × List FaultRec)) : State :=
  s.modGrp g fun G =>
    let p := match G.park with
      | some p => { p with sets := p.sets ++ sets, unacked := p.unacked + sets.length,
                           reason := if sets.isEmpty then p.reason else reason }
      | none => { reason := reason, sets := sets, unacked := sets.length, framed := false,
                  waited := if G.st == .inactive then s.clk - G.inactiveSince else 0 }
    { G with park := some p, st := if G.st == .parked then G.st else .parking }

/-- Taking a fault (R344-R346, R350): in the group's handler where TRAPVEC selects the cause and none runs, with the record in
v255 at once or, when that cannot be mapped, after the group has parked and returned; otherwise the group parks and its
record set goes to the fault queue. A Keystone context stops its issue. -/
def raise (s : State) (a : Agent) (recs : List FaultRec) : State :=
  match a with
  | .frag g e =>
    match s.grps.get? g, recs with
    | some G, r :: _ =>
      if selectedCause s.trapvec r.cause && !G.trapst.getLsbD 9 then
        let s := s.modGrp g fun G => G.enterHandler e s.trapvec r.cause
        if (G.reg.get? 255).isSome || s.canMap g 1 then s.modGrp g fun G => G.trapRecord r
        else (s.modGrp g fun G => { G with pending := some r }).startPark g 1 []
      else (s.modFrag g e fun F => { F with st := .ready }).startPark g 2 [(e, recs)]
    | _, _ => s
  | .ks k =>
    { (s.modKs k fun c => { c with stopped := true, st := .ready }) with
      sets := s.sets ++ [setOf (k / 48) (.keystone k ((s.ksCtx k).task.getD 0)) recs] }

/-- One record without an address for the agent's active lanes (R346). -/
def raiseCode (s : State) (a : Agent) (cause : Nat) (code : W32) (lanes : Mask) : State :=
  s.raise a [s.mkRec a cause code 0#64 lanes 0]
/-- A decode fault or one that names no address. -/
def raisePlain (s : State) (a : Agent) (cause sub : Nat) : State :=
  s.raiseCode a cause (BitVec.ofNat 32 sub) (s.maskOfAgent a)
end State

/-- Return from the group's handler (R234): PC, privilege and INH from TRAPPC and TRAPST; the others go on. -/
def Group.rfe (G : Group) (e : Nat) : Group :=
  { G with
    trapst := G.trapst &&& ~~~0x200#32
    frags := G.frags.mapVal fun j X =>
      if j = e then { X with pc := G.trappc, sup := G.trapst.getLsbD 8, handler := false, st := .ready } else X.trapIn }

/-- Whether a pre-emption request that names a task has arrived in this clock, or in an earlier one (R237). -/
def State.preqNow (s : State) (t : Nat) (now : Bool) : Bool :=
  s.preq.any fun p => (p.2.any fun x => x.1 == t) && (s.preqAt.get? p.1 == some s.clk) == now
/-- Whether a pre-emption request has reached a task and its sequence runs (R237, R356): what issues in the clock of its
arrival takes effect first, and a maskable task waits for MC = 0. -/
def State.proceeding (s : State) (t : Nat) : Bool :=
  s.preqNow t false &&
    (match s.tasks.get? t with
      | some T => T.st == .resident && (((s.launchOf T).map (·.pcls)).getD 0 != 2 || T.mc == 0)
      | none => false)

/-- Whether the engines of a task take up commands: it is resident or draining, and no pre-emption stops it (R356). -/
def State.enginesRun (s : State) (t : Nat) : Bool :=
  (match s.tasks.get? t with
    | some T => T.st == .resident || T.st == .draining
    | none => false) && !s.proceeding t

/-- The writes of a part of a task that is over count towards what its launch's completion releases (R263). -/
def State.noteOver (s : State) (t v : Nat) : State :=
  match s.tasks.get? t with
  | some T => s.modLaunch T.launch fun L => { L with vis := max L.vis v }
  | none => s
/-- The largest release timestamp of a counter's commands (R302). -/
def Timeline.top (t : Timeline) : Nat := t.ts.foldl (fun m p => max m p.2) 0

/-- Run a meaning for the current agent; without one the model is stuck. -/
def withAgent (s : State) (k : Agent → State) : Host.Outcome State Fault Refusal :=
  match s.cur with
  | none => .fault .noAgent
  | some a => if s.hasAgent a then .next (k a) else .fault .noAgent

end Sys2Proof.Machine
end

