-- ==== Sys2Proof/Machine/Home.lean ====
section
/-! DEFINITION. The homes of memory: the physical address map (R325), placement (R326, R328), timestamps of grains
(R294-R297), the frame table (R366, R367), directory marks (R400-R406), watches on grains (R167), slice watches (R243)
and the rings that the device writes (R349). -/
namespace Sys2Proof.Machine

/-- The rows of the physical address map (R325). -/
inductive Region | hbm | storeOnly | mmio | host | peer (id : Nat) | unlisted
  deriving DecidableEq, Repr

/-- The row of R325 that holds a physical address. -/
def regionOf (pa : Nat) : Region :=
  if pa < 2 ^ 39 then .hbm
  else if 2 ^ 40 ≤ pa && pa < 2 ^ 40 + 2560 * 2 ^ 20 then .storeOnly
  else if 2 ^ 41 ≤ pa && pa < 2 ^ 41 + 2 ^ 32 then .mmio
  else if 2 ^ 44 ≤ pa && pa < 2 ^ 45 then .host
  else if 2 ^ 45 ≤ pa && pa < 2 ^ 45 + 2 ^ 50 then .peer ((pa - 2 ^ 45) / 2 ^ 44)
  else .unlisted

/-- A physical address that a leaf may name: listed by R325, and for a peer window listed at the peer (R408). -/
def listed (pa : Nat) : Bool :=
  match regionOf pa with
  | .unlisted => false
  | .peer _ =>
    match regionOf (pa % 2 ^ 44) with
    | .hbm | .storeOnly | .mmio => true
    | _ => false
  | _ => true

/-- The channel hash (R326). -/
def chanHash (x : Nat) : Nat := (x / 2 ^ 8 ^^^ x / 2 ^ 16 ^^^ x / 2 ^ 24 ^^^ x / 2 ^ 32 % 2 ^ 7) % 256

/-- The home slice under a placement (R326): PLACE 0 ALL, 1 DIE, 2 QUAD. -/
def placeHome (place pid x : Nat) : Nat :=
  match place with
  | 1 => 64 * pid + chanHash x % 64
  | 2 => 16 * pid + chanHash x % 16
  | _ => chanHash x

/-- The address that R326 hashes: the offset in the store-only window, the address itself elsewhere. -/
def hashAddr (pa : Nat) : Nat := if regionOf pa = .storeOnly then pa - 2 ^ 40 else pa

/-- The arrangement of a line (R328, R329, R333): the entry that covers it, class, placement and replacement. -/
structure Arrangement where
  entry : Option Nat
  cls : Nat
  place : Nat
  pid : Nat
  prio : Nat
  repl : Nat
  quota : Nat
  deriving DecidableEq, Repr

/-- An address that no contract covers (R329). -/
def uncovered : Arrangement := { entry := none, cls := 0, place := 0, pid := 0, prio := 0, repl := 0, quota := 0 }

/-- The arrangement that the words of an entry give (R328). -/
def arrangementOf (i : Nat) (w2 w3 : W64) : Arrangement :=
  { entry := some i, cls := w2.toNat % 4, place := w2.toNat / 4 % 4, pid := w2.toNat / 16 % 16,
    prio := w2.toNat / 2 ^ 12 % 8, repl := w2.toNat / 2 ^ 8 % 4, quota := w3.toNat % 2 ^ 16 }

namespace State
/-- Word j of contract entry i (R229, R328). -/
def contractWord (s : State) (i j : Nat) : W64 := s.ctlReg (0x400 + 4 * i + j)
/-- ST of an entry (R328). -/
def contractSt (s : State) (i : Nat) : Nat := (s.contractWord i 2).toNat / 2 ^ 24 % 4
/-- The range of an entry: first address and the address after the last unit. -/
def contractRange (s : State) (i : Nat) : Nat × Nat :=
  ((s.contractWord i 0).toNat / 2 ^ 21 % 2 ^ 31 * 2 ^ 21, ((s.contractWord i 1).toNat / 2 ^ 21 % 2 ^ 31 + 1) * 2 ^ 21)
/-- Entries that exist as registers other than at reset. -/
def contractEntries (s : State) : List Nat :=
  s.ctl.foldl (fun xs p =>
    let k := (p.1 - 0x400) / 4
    if 0x400 ≤ p.1 && p.1 < 0x800 && !xs.contains k then xs ++ [k] else xs) []
/-- The entry whose range holds an address: a valid one or one in transition (R332, R334). -/
def contractAt (s : State) (pa : Nat) : Option Nat :=
  s.contractEntries.find? fun i =>
    ((s.contractWord i 0).getLsbD 0 || s.contractSt i != 0) &&
      (s.contractRange i).1 ≤ pa && pa < (s.contractRange i).2
/-- The arrangement of the line that holds an address at this moment (R333). -/
def arrAt (s : State) (pa : Nat) : Arrangement :=
  match s.contractAt pa with
  | none => uncovered
  | some i =>
    let now := arrangementOf i (s.contractWord i 2) (s.contractWord i 3)
    match s.contractFrom.get? i with
    | none => if s.contractSt i = 2 then uncovered else now
    | some (old, moved) =>
      let before := match old with
        | [w2, w3] => arrangementOf i w2 w3
        | _ => uncovered
      if moved.contains (pa / 128) then (if s.contractSt i = 2 then uncovered else now) else before
/-- A slice that has retired passes its work to s XOR 1 (R431). -/
def liveSlice (s : State) (i : Nat) : Nat := if s.health.retired.contains i then i ^^^ 1 else i
/-- The home slice of an address at this moment (R326, R333, R412). -/
def homeOf (s : State) (pa : Nat) : Nat :=
  let a := s.arrAt pa
  s.liveSlice (match regionOf pa with
    | .peer _ => chanHash pa
    | _ => placeHome a.place a.pid (hashAddr pa))
/-- Whether the device's own homes hold an address (R240): HBM and the store-only window. -/
def homedHere (_s : State) (pa : Nat) : Bool :=
  match regionOf pa with
  | .hbm | .storeOnly => true
  | _ => false
/-- A store-only address that no PIN contract covers has no data (R330). -/
def noData (s : State) (pa : Nat) : Bool :=
  regionOf pa = .storeOnly && (s.arrAt pa).cls != 1
end State

/-- The package's store clock (R5): 2.5 GHz beside 3.3 GHz. -/
def State.storeClk (s : State) : Nat := s.clk * 25 / 33

/-! The frame table (R366, R367). -/
namespace State
def ftBase (s : State) : Nat := (s.ctlReg 0x038).toNat / 2 ^ 21 % 2 ^ 31 * 2 ^ 21
/-- Where a frame's entry lies; the windows have none (R363). -/
def ftAddr (s : State) (pa : Nat) : Option Nat :=
  match regionOf pa with
  | .hbm => some (s.ftBase + 4096 + pa / 4096)
  | .storeOnly => some (s.ftBase + 4096 + 2 ^ 27 + (pa - 2 ^ 40) / 4096)
  | _ => none
/-- A frame's entry; zero where there is none. -/
def ftByte (s : State) (pa : Nat) : Byte := ((s.ftAddr pa).map s.mem.read).getD 0#8
/-- EXC of a frame (R367). -/
def exc (s : State) (pa : Nat) : Bool := (s.ftByte pa).getLsbD 5
/-- The grain recorded for a frame (R367), 32 bytes where none is. -/
def ftGrain (s : State) (pa : Nat) : Nat :=
  match (s.ftByte pa).toNat / 4 % 4 with
  | 2 => 128
  | 3 => 512
  | _ => 32
/-- The published bit of a sector: kept only while its frame's EXC is 1 (R169, R367). -/
def isPublished (s : State) (pa : Nat) : Bool := s.published.contains (pa / 32) && s.exc pa
end State

/-- The frames whose entries lie among the bytes of a write to the frame table: their sectors are unpublished when EXC
reads 0 afterwards (R367). -/
def State.purgeFrames (s : State) (pa n : Nat) : State :=
  let base := s.ftBase + 4096
  let keep := fun sec =>
    match s.ftAddr (sec * 32) with
    | some e => !(pa ≤ e && e < pa + n && base ≤ e) || (s.mem.read e).getLsbD 5
    | none => true
  { s with published := s.published.filter keep }

/-! Grain timestamps (R294-R297). A grain is named by its first byte's address over 32. The 256-byte halves of a 512-byte
grain lie in two slices (R326), and each slice holds the times of its own half (DEDUCED, log 12). -/
def grainKey (pa grain : Nat) : Nat := pa / min grain 256 * min grain 256 / 32

namespace State
/-- (wts, rts) of the grain that holds an address; MTS of the slice when the slice does not hold it (R294). -/
def tsOf (s : State) (pa grain : Nat) : Nat × Nat :=
  (s.grains.get? (grainKey pa grain)).getD
    (let m := s.mts.getD (s.homeOf pa) 0
     (m, m))
def setTs (s : State) (pa grain : Nat) (t : Nat × Nat) : State :=
  { s with grains := s.grains.set (grainKey pa grain) t }
end State

/-- The grains that a run of bytes touches, by an address in each; the halves of a 512-byte grain one by one. -/
def grainsOf (pa n grain : Nat) : List Nat :=
  let g := min grain 256
  (List.range ((pa + (n - 1)) / g + 1 - pa / g)).map fun k => (pa / g + k) * g

/-- The 128-byte lines that a run of bytes touches. -/
def linesIn (pa n : Nat) : List Nat :=
  (List.range ((pa + (n - 1)) / 128 + 1 - pa / 128)).map fun k => pa / 128 + k

/-! Agent identifiers (R348). -/
def idMortar (slice : Nat) : W32 := BitVec.ofNat 32 (2 ^ 28 + slice)
def idKs (k : Nat) : W32 := BitVec.ofNat 32 (2 * 2 ^ 28 + k)
def idOrris (slice : Nat) : W32 := BitVec.ofNat 32 (3 * 2 ^ 28 + slice)
def idQueue (die : Nat) : W32 := BitVec.ofNat 32 (4 * 2 ^ 28 + die)
def idHost (port : Nat) : W32 := BitVec.ofNat 32 (5 * 2 ^ 28 + port)
def idPeer (id : Nat) : W32 := BitVec.ofNat 32 (6 * 2 ^ 28 + id)
def idGroup (core slot grp : Nat) : W32 := BitVec.ofNat 32 (core * 4096 + slot * 16 + grp)

/-- An agent's identifier. -/
def State.agentId (s : State) (a : Agent) : W32 :=
  match a with
  | .frag g _ => idGroup (s.coreOf a) (((s.taskOf a).map (·.slot)).getD 0) (g % 16)
  | .ks k => idKs k

/-! Entries of the directory, and recalls (R400-R404). -/
/-- Clocks of the recall timer: 20 µs on the package, 2 ms for a port or a peer (R406). -/
def recallClocks (remote : Bool) : Nat := if remote then 6600000 else 66000
/-- No agent. -/
def noAgentId : W32 := 0xFFFFFFFF#32
namespace State
/-- The group that holds a line: under a line lease (R166) or for near atomics (R162). -/
def leaseHolder (s : State) (line : Nat) : Option Nat :=
  (s.grps.find? fun p => p.2.leases.any (·.line == line)).map (·.1)
def grpId (s : State) (g : Nat) : W32 := s.agentId (.frag g 0)
/-- The identifier of the group that holds a line. -/
def holderId (s : State) (line : Nat) : Option W32 := (s.leaseHolder line).map s.grpId
/-- Store an entry in both halves of a line, or in one. -/
def putDir (s : State) (h : Nat) (e : DirEnt) : State :=
  { s with dir := if e.whole then (s.dir.set (h / 2 * 2) e).set (h / 2 * 2 + 1) e else s.dir.set h e }
/-- The messages that recall remote holders of a half. -/
def askRemote (s : State) (h : Nat) (who : List W32) : State :=
  { s with out := s.out ++ who.filterMap fun w =>
      if w.toNat / 2 ^ 28 = 5 then some (.hostRecall (w.toNat % 2 ^ 28) h)
      else if w.toNat / 2 ^ 28 = 6 then some (.peerRecall (w.toNat % 2 ^ 28) h)
      else none }
/-- A line that moves between holders, as the contention predictor observes (R162). -/
def noteContended (s : State) (line : Nat) : State := { s with contended := s.contended.insert line }
/-- A recall, back-invalidate or discovery of a half is sent (R403, R404). A discovery whose holder is on an isolated core
finds nobody. -/
def recallHalf (s : State) (h : Nat) : State :=
  match s.dir.get? h with
  | none => s
  | some e =>
    match e.st with
    | 1 => (s.askRemote h e.sharers).putDir h
        { e with st := 5, owner := none, asked := e.sharers, deadline := s.clk + recallClocks true }
    | 2 => (s.noteContended (h / 2)).putDir h
        { e with st := 5, asked := e.owner.toList, deadline := s.clk + recallClocks false }
    | 3 => (s.askRemote h e.owner.toList).putDir h
        { e with st := 5, asked := e.owner.toList, deadline := s.clk + recallClocks true }
    | 4 => (s.noteContended (h / 2)).putDir h
        { e with st := 5, owner := none, asked := [(s.holderId (h / 2)).getD noAgentId], deadline := s.clk + recallClocks false }
    | _ => s
/-- The least recently used of a list of entries. -/
def oldestDir (es : List (Nat × DirEnt)) : Option Nat :=
  match es with
  | [] => none
  | p :: r => some (r.foldl (fun b q => if q.2.used < b.2.used then q else b) p).1
end State

/-! Lines in the slices, and victims (R330). -/
def emptyStoreLine : StoreLine := { dirty := false, recency := 0, freq := 0 }
/-- Lines that a slice of 10 MiB holds (R323). -/
def sliceLines : Nat := 81920

namespace State
/-- The lines present in a slice. -/
def linesAt (s : State) (slice : Nat) : List (Nat × StoreLine) := s.lines.filter fun p => s.homeOf (p.1 * 128) == slice

/-- The least of a list under a measure. -/
def leastBy (f : Nat × StoreLine → Nat) : List (Nat × StoreLine) → Option Nat
  | [] => none
  | p :: r => some (r.foldl (fun b q => if f q < f b then q else b) p).1

/-- Whether a directory entry pins a line (R330, R400): states other than NONE, OWNER-UNKNOWN and OWNER-LOST. -/
def pinnedByDir (s : State) (line : Nat) : Bool :=
  [2 * line, 2 * line + 1].any fun h =>
    match s.dir.get? h with
    | some e => e.st == 1 || e.st == 2 || e.st == 3 || e.st == 5
    | none => false

/-- The measure by which a contract's REPL ranks its lines. -/
def replRank (repl : Nat) (p : Nat × StoreLine) : Nat :=
  if repl = 1 then p.2.freq * 2 ^ 80 + p.2.recency else p.2.recency

/-- The bytes of a contract's share at a slice (R329). -/
def shareBytes (a : Arrangement) : Nat :=
  a.quota * 65536 / (match a.place with | 1 => 64 | 2 => 16 | _ => 256) / 128 * 128

/-- Whether the contract of an arrangement has as many lines at a slice as its cap allows (R329). -/
def atCap (s : State) (slice : Nat) (a : Arrangement) : Bool :=
  (a.cls == 0 || a.cls == 3) && a.quota != 0 && a.entry.isSome &&
    shareBytes a ≤ ((s.linesAt slice).filter fun p => (s.arrAt (p.1 * 128)).entry == a.entry).length * 128

/-- The order in which a KV contract gives up its lines (R386): lines of free pages, lines of other pages by CNT and then
STAMP, lines of tree areas and the rest by last use. -/
def kvRank (s : State) (trees : List ((Nat × Nat) × Nat × Nat)) (p : Nat × StoreLine) : Nat :=
  match trees.find? fun t => t.1.1 ≤ p.1 * 128 && p.1 * 128 < t.1.1 + t.1.2 with
  | none => 2 ^ 201 + p.2.recency
  | some (pool, pg, area) =>
    let rec' := area + 128 + 128 * ((p.1 * 128 - pool.1) / pg)
    if s.mem.readNat (rec' + 0x18) 4 % 4 = 0 then p.2.recency
    else 2 ^ 200 + s.mem.readNat (rec' + 0x14) 4 * 2 ^ 64 + s.mem.readNat (rec' + 0x20) 8

/-- Word w of tree t's descriptor (R375). -/
def treeWord (s : State) (t w : Nat) : W64 := s.mmio.getD (0x30000 + 64 * t + 8 * w) 0#64
/-- EN or BUSY: a tree's area and pool hold a tree (R376). -/
def treeHeld (s : State) (t : Nat) : Bool := (s.treeWord t 6).getLsbD 0 || (s.treeWord t 6).getLsbD 1
/-- The page pool, first byte and length (R375). -/
def treePool (s : State) (t : Nat) : Nat × Nat :=
  let w := (s.treeWord t 0).toNat
  (w / 2 ^ 21 % 2 ^ 31 * 2 ^ 21, (s.treeWord t 1).toNat % 2 ^ 25 * 2 ^ (w % 32))
/-- The tree area, first byte and length (R377). -/
def treeArea (s : State) (t : Nat) : Nat × Nat :=
  let npg := (s.treeWord t 1).toNat % 2 ^ 25
  let w := (s.treeWord t 4).toNat
  let nseq := w % 2 ^ 24
  let base := (s.treeWord t 3).toNat / 2 ^ 12 % 2 ^ 40 * 2 ^ 12
  (base, (128 + 128 * npg + 32 * nseq + 127) / 128 * 128 + 4 * 2 ^ (w / 2 ^ 32 % 16) * nseq)
/-- Trees that are enabled or about to be, or not yet disabled. -/
def heldTrees (s : State) : List Nat :=
  (s.mmio.filterMap fun p =>
    if 0x30000 ≤ p.1 && p.1 < 0x34000 && p.1 % 64 = 48 then some ((p.1 - 0x30000) / 64) else none).filter s.treeHeld

/-- The victim of a slice that needs room for a line under an arrangement (R330): PIN lines and lines with a directory
entry are none. -/
def victim (s : State) (slice : Nat) (a : Arrangement) : Option Nat :=
  let ps := (s.linesAt slice).filter fun p => !s.pinnedByDir p.1
  let clsOf := fun (p : Nat × StoreLine) => s.arrAt (p.1 * 128)
  let own := ps.filter fun p => a.entry.isSome && (clsOf p).entry == a.entry
  let key := fun p => (clsOf p).prio * 1024 + ((clsOf p).entry.map (· + 1)).getD 0
  let caches := ps.filter fun p => (clsOf p).cls == 0
  let low := caches.foldl (fun m p => min m (key p)) (2 ^ 20)
  let group := caches.filter fun p => key p == low
  let trees := s.heldTrees.map fun t => (s.treePool t, 2 ^ ((s.treeWord t 0).toNat % 32), (s.treeArea t).1)
  [leastBy (fun p => p.2.recency) (ps.filter fun p => (clsOf p).cls == 3),
    if s.atCap slice a then leastBy (replRank a.repl) own else none,
    leastBy (replRank ((group.head?.map fun p => (clsOf p).repl).getD 0)) group,
    if a.cls = 2 then leastBy (s.kvRank trees) own else none].findSome? id

/-! Traffic regulation (R336, R337): a port is named by its class times 1000 plus its number. -/
/-- Whether a port may inject n counted bytes of a class in the current window. -/
def mayInject (s : State) (cls port n : Nat) : Bool :=
  match s.trafficUse.get? (cls * 1000 + port) with
  | none => true
  | some (limit, used) => used == 0 || used + n ≤ limit
def noteInject (s : State) (cls port n : Nat) : State :=
  { s with trafficUse := s.trafficUse.update (cls * 1000 + port) fun u => (u.1, u.2 + n) }

/-- Whether a line of a slice is present. -/
def present (s : State) (line : Nat) : Bool := (s.lines.get? line).isSome

/-- Traffic between a placed home and the HBM channel of a line (R326, R336): counted, and not held (DESIGN CHOICE, log 25). -/
def noteHbm (s : State) (line : Nat) : State :=
  if (s.arrAt (line * 128)).place != 0 && regionOf (line * 128) = .hbm then s.noteInject 1 (s.homeOf (line * 128)) 128 else s
/-- A line leaves its slice: the largest timestamp among the grains that leave with it enters MTS (R294). A half of a
512-byte grain leaves with the last of its two lines. -/
def dropLine (s : State) (line : Nat) : State :=
  let slice := s.homeOf (line * 128)
  let gone := fun (p : Nat × (Nat × Nat)) =>
    if s.ftGrain (line * 128) = 512 then p.1 / 8 == line / 2 && !s.present (line ^^^ 1) else p.1 / 4 == line
  let top := (s.grains.filter gone).foldl (fun m p => max m (max p.2.1 p.2.2)) (s.mts.getD slice 0)
  let s := if ((s.lines.get? line).map (·.dirty)).getD false then s.noteHbm line else s
  { s with lines := s.lines.erase line, mts := s.mts.put 0 slice top, grains := s.grains.filter fun p => !(gone p) }

/-- When every line that could be a victim holds a directory entry, the least recently granted entry of state 2 is dropped
silently, which makes its line a victim (R400, R404). -/
def freeEntry (s : State) (slice : Nat) : State × Option Nat :=
  match s.dir.filter fun p => p.2.st == 2 && s.homeOf (p.1 * 64) == slice with
  | [] => (s, none)
  | p :: r =>
    let line := (r.foldl (fun b q => if q.2.used < b.2.used then q else b) p).1 / 2
    let drop := fun (e : DirEnt) => { e with st := 4, owner := none }
    ({ s with dir := (s.dir.update (2 * line) drop).update (2 * line + 1) drop }, some line)

/-- With none of those, the least recently used entry of state 1 or 3 is recalled; an access does without a place for its
line until then (R400, R404). -/
def recallOldest (s : State) (slice : Nat) : State :=
  match oldestDir (s.dir.filter fun p => (p.2.st == 1 || p.2.st == 3) && s.homeOf (p.1 * 64) == slice) with
  | some h => s.recallHalf h
  | none => s

/-- Room for a line at its slice (R329, R330): a victim when the slice is full, and one of the contract's own lines when
the contract is at its cap. Without a victim the line is not kept. -/
def makeRoom (s : State) (slice : Nat) (a : Arrangement) : State × Bool :=
  let (s, ok) := if sliceLines ≤ (s.linesAt slice).length then
      (match s.victim slice a with
        | some v => (s.dropLine v, true)
        | none =>
          match s.freeEntry slice with
          | (s, some v) => (s.dropLine v, true)
          | (s, none) => (s.recallOldest slice, false))
    else (s, true)
  if ok && s.atCap slice a then
    match leastBy (replRank a.repl) ((s.linesAt slice).filter fun p => (s.arrAt (p.1 * 128)).entry == a.entry && !s.pinnedByDir p.1) with
    | some v => (s.dropLine v, true)
    | none => (s, shareBytes a != 0)
  else (s, ok)

/-- An access at the home (R330): a line that is present becomes most recent and its count rises; otherwise it is inserted, under
stream at the lowest priority (R152). Under nostore nothing is allocated. -/
def touchLine (s : State) (line : Nat) (write : Bool) (pol : Policy) : State :=
  let a := s.arrAt (line * 128)
  match s.lines.get? line with
  | some L =>
    { s with lines := s.lines.set line { L with dirty := L.dirty || write, recency := s.clk, freq := min 7 (L.freq + 1) } }
  | none =>
    if pol = .nostore then s
    else
      match s.makeRoom (s.homeOf (line * 128)) a with
      | (s, false) => s
      | (s, true) =>
        let L := if pol = .dflt then { emptyStoreLine with recency := s.clk, freq := 1 } else emptyStoreLine
        let s := s.noteHbm line
        { s with lines := s.lines.set line { L with dirty := write } }
end State

/-! Errors at the home (R330, R406, R435). -/

/-- What an access wants of its home. -/
inductive Want | read | write | atomic | exclusive
  deriving DecidableEq, Repr

namespace State
/-- Owner-lost units among the bytes of an access (R406); lease.acq needs the whole line. -/
def lostAt (s : State) (pa n : Nat) : Bool :=
  (List.range ((pa + (n - 1)) / 64 + 1 - pa / 64)).any fun k =>
    match s.dir.get? (pa / 64 + k) with
    | some e => e.st == 6
    | none => false
/-- Bytes that an uncorrected error poisoned, by the halves of the lines (R241, R435). -/
def poisonAt (s : State) (pa n : Nat) : Bool :=
  (List.range ((pa + (n - 1)) / 64 + 1 - pa / 64)).any fun k => s.poisoned.contains (pa / 64 + k)
/-- The poison of n bytes from a half of a line on clears. -/
def clearPoison (s : State) (pa n : Nat) : State :=
  { s with poisoned := s.poisoned.filter fun x => !(pa ≤ x * 64 && x * 64 < pa + n) }
/-- The cause with which a home refuses an access: 0x0A or 0x0B (R330, R406, R435). -/
def homeError (s : State) (pa n : Nat) (w : Want) : Option Nat :=
  if s.noData pa then some 0x0A
  else if (match w with | .exclusive => s.lostAt (pa / 128 * 128) 128 | _ => s.lostAt pa n) then
    some (if w = .read then 0x0A else 0x0B)
  else if s.poisonAt pa n && w != .write then some 0x0A
  else none
/-- The statuses with which bytes that an engine cannot read may fail its command: an owner-lost unit is poisoned as well
(R406), and the rules of the engines name both causes (R201, R202, R213). -/
def readCauses (s : State) (pa n : Nat) : List Nat :=
  if s.noData pa then [0x0A] else if s.lostAt pa n then [0x0B, 0x0A] else if s.poisonAt pa n then [0x0A] else []
/-- A run of bytes cut at 64 bytes, the units in which homes refuse: where each begins, and its length. -/
def halfRuns (pa n : Nat) : List (Nat × Nat) :=
  (List.range ((pa + (n - 1)) / 64 + 1 - pa / 64)).map fun k =>
    let a := max pa ((pa / 64 + k) * 64)
    (a, min (pa + n) ((pa / 64 + k + 1) * 64) - a)
end State

/-! Prefix trees as homes see them (R375-R377). -/
namespace State
/-- Whether a byte lies in the area of an enabled tree: writes by other agents are discarded (R377). -/
def inTreeArea (s : State) (ts : List Nat) (pa : Nat) : Bool :=
  ts.any fun t => (s.treeArea t).1 ≤ pa && pa < (s.treeArea t).1 + (s.treeArea t).2
/-- Values that bytes of an enabled tree's pool hold before a write, for pages taken later (R202). -/
def notePool (s : State) (pa : Nat) (bs : List Byte) : State :=
  let ts := s.heldTrees
  let inPool := fun a => ts.any fun t => (s.treePool t).1 ≤ a && a < (s.treePool t).1 + (s.treePool t).2
  if ts.isEmpty then s
  else
    { s with kvHist := (bs.zipIdx).foldl (fun h p =>
        let a := pa + p.2
        let old := s.mem.read a
        if inPool a && old != p.1 && !((h.getD a []).contains old) then Assoc.set h a (old :: h.getD a []) else h) s.kvHist }
end State

/-! Watches (R167): waiters of a grain that a write touches. -/
namespace State
/-- Whether a watch's grain overlaps a run of bytes. -/
def Watch.hit (w : Watch) (pa n : Nat) : Bool := w.grain < pa + n && pa < w.grain + w.size

/-- A write marks the watches of its grain with cause 1, and the other members of a slice's overflow set with cause 2
when a member's grain was written (R167). -/
def markWatches (s : State) (pa n : Nat) : State :=
  let slices := (s.watches.filter fun w => w.overflow && w.cause.isNone && Watch.hit w pa n).map (·.slice)
  { s with watches := s.watches.map fun w =>
      if w.cause.isSome then w
      else if Watch.hit w pa n then { w with cause := some 1 }
      else if w.overflow && slices.contains w.slice then { w with cause := some 2 }
      else w }
/-- Watches are dropped with cause 4 (R167, R333). -/
def dropWatches (s : State) (p : Watch → Bool) : State :=
  { s with watches := s.watches.map fun w => if w.cause.isNone && p w then { w with cause := some 4 } else w }

/-- The aligned words of a run that are about to lose a value that a walk could have cached (R364, R365): V is 1. -/
def noteHeld (s : State) (pa : Nat) (bs : List Byte) : State :=
  let new := s.mem.writeBytes pa bs
  let ws := (List.range ((pa + (bs.length - 1)) / 8 + 1 - pa / 8)).map fun k => (pa / 8 + k) * 8
  { s with xhist := ws.foldl (fun h a =>
      let v := BitVec.ofNat 64 (s.mem.readNat a 8)
      if v.getLsbD 0 && s.mem.readNat a 8 != new.readNat a 8 then .held a v :: h else h) s.xhist }

/-- Bytes reach their home: published bits (R169), lines, the poison of a line written whole (R435), watches. -/
def memStore (s : State) (pa : Nat) (bs : List Byte) (pol : Policy) : State :=
  let n := bs.length
  let s := (s.notePool pa bs).noteHeld pa bs
  let s := { s with mem := s.mem.writeBytes pa bs }
  let secs := (List.range ((pa + (n - 1)) / 32 + 1 - pa / 32)).map (pa / 32 + ·)
  let s := { s with published := s.published.filter fun x => !(secs.contains x && s.exc (x * 32)) }
  let s := s.purgeFrames pa n
  let s := (linesIn pa n).foldl (fun s l =>
    let s := s.touchLine l true pol
    if pa ≤ l * 128 && l * 128 + 128 ≤ pa + n then
      s.clearPoison (l * 128) 128
    else s) s
  s.markWatches pa n

/-- The write times of a write (R297): wts := max(rts + 1, T) and rts := wts in each grain. Answers the largest. -/
def raiseTs (s : State) (pa n grain T : Nat) : State × Nat :=
  (grainsOf pa n grain).foldl (fun (acc : State × Nat) g =>
    let w := max ((acc.1.tsOf g grain).2 + 1) T
    (acc.1.setTs g grain (w, w), max acc.2 w)) (s, 0)

/-- A write taking effect at its home (R297). Answers the visibility time. -/
def memWrite (s : State) (pa : Nat) (bs : List Byte) (grain T : Nat) (pol : Policy) : State × Nat :=
  match bs with
  | [] => (s, 0)
  | _ =>
    let (s, vis) := s.raiseTs pa bs.length grain T
    (s.memStore pa bs pol, vis)
end State

/-! Rings written by the device (R349): fault queue (reg 0x020) and retry ring (reg 0x024). -/
namespace State
/-- log2 of a ring's records. -/
def ringLog (s : State) (die reg : Nat) : Nat := max 6 (min 16 ((s.ctlReg (dieReg die reg)).toNat % 32))
def ringEn (s : State) (die reg : Nat) : Bool := (s.ctlReg (dieReg die reg)).getLsbD 11
def ringBase (s : State) (die reg : Nat) : Nat := (s.ctlReg (dieReg die reg)).toNat / 2 ^ 12 % 2 ^ 40 * 2 ^ 12
def ringTail (s : State) (die reg : Nat) : Nat := (s.ctlReg (dieReg die (reg + 1))).toNat % 2 ^ 32
def ringHead (s : State) (die reg : Nat) : Nat := (s.ctlReg (dieReg die (reg + 1))).toNat / 2 ^ 32
/-- Whether n records fit (R349). -/
def ringFits (s : State) (die reg n : Nat) : Bool :=
  s.ringEn die reg &&
    (s.ringTail die reg + n + 2 ^ 32 - s.ringHead die reg) % 2 ^ 32 ≤ 2 ^ s.ringLog die reg
/-- A write of ring memory that TAIL, or the mark itself, releases at .sys: what the ring released before comes with it. -/
def ringPut (s : State) (die reg a : Nat) (bs : List Byte) : State :=
  let k := dieReg die (reg + 1)
  let (s, v) := s.memWrite a bs (s.ftGrain a) (s.tailTs.getD k 0) .dflt
  { s with tailTs := s.tailTs.put 0 k (max (s.tailTs.getD k 0) v) }
/-- Write records that fit and advance TAIL, which releases them at .sys (R349). -/
def ringWrite (s : State) (die reg : Nat) (recs : List (List Byte)) : State :=
  recs.foldl (fun s bs =>
    let i := s.ringTail die reg
    let s := s.ringPut die reg (s.ringBase die reg + 32 * (i % 2 ^ s.ringLog die reg)) bs
    s.setCtl (dieReg die (reg + 1)) (BitVec.ofNat 64 (s.ringHead die reg * 2 ^ 32 + (i + 1) % 2 ^ 32))) s

/-- A record of a store watch (R243, R347): written when it fits, otherwise dropped with OVF. -/
def storeWatchRecord (s : State) (pa : Nat) (acc : Nat) (who : W32) : State :=
  let die := dieOfSlice (s.homeOf pa)
  let r : FaultRec := { addr := BitVec.ofNat 64 pa, lanes := 0#64, pc := 0#64, core := 0, team := 0, grp := 0,
                        kst := false, wdn := false, acc := acc, cause := 0x10, code := who }
  if s.ringFits die 0x020 1 then
    { s.ringWrite die 0x020 [r.bytes true true] with
      entries := s.entries ++ [{ die := die, index := s.ringTail die 0x020, first := true, target := .watch,
                                 cause := 0x10, acked := false, withdrawn := false }] }
  else if s.ringEn die 0x020 then s.setCtl (dieReg die 0x020) (s.ctlReg (dieReg die 0x020) ||| 0x400#64)
  else s

/-- Slice watches that an access matches (R243): the watches of the home slice, one record each. -/
def sliceWatch (s : State) (pa n : Nat) (acc : Nat) (who : W32) : State :=
  (s.swatches.filter fun p =>
      p.1 / 16 == s.homeOf pa && p.2.pa < pa + n && pa < p.2.pa + p.2.len && (acc != 1 || p.2.rd)).foldl
    (fun s _ => s.storeWatchRecord pa acc who) s

/-- What a write by an agent other than the Orris engine leaves of its bytes: those in an enabled tree's area keep their
value (R377), and a write wholly inside one does nothing. -/
def treeKeeps (s : State) (pa : Nat) (bs : List Byte) : Option (List Byte) :=
  let ts := s.heldTrees
  if ts.isEmpty || !((List.range bs.length).any fun i => s.inTreeArea ts (pa + i)) then some bs
  else if (List.range bs.length).all fun i => s.inTreeArea ts (pa + i) then none
  else some (bs.zipIdx.map fun p => if s.inTreeArea ts (pa + p.2) then s.mem.read (pa + p.2) else p.1)

/-- A write at its home by an agent: slice watches are served as well (R243). -/
def homeWrite (s : State) (pa : Nat) (bs : List Byte) (grain T : Nat) (pol : Policy) (who : W32) : State × Nat :=
  match s.treeKeeps pa bs with
  | none => (s.sliceWatch pa bs.length 2 who, (s.tsOf pa grain).1)
  | some kept =>
    let (s, v) := s.memWrite pa kept grain T pol
    (s.sliceWatch pa bs.length 2 who, v)

/-- Bytes that were written under an exclusive hold reach their home; their write time is the grant's (R299). -/
def homeReturn (s : State) (pa : Nat) (bs : List Byte) (who : W32) : State :=
  match s.treeKeeps pa bs with
  | none => s.sliceWatch pa bs.length 2 who
  | some kept => (s.memStore pa kept .dflt).sliceWatch pa bs.length 2 who

/-- The values that a field of a tree's area may show (R377): those it has held since the command that last changed it was
accepted, and its value now. -/
def fieldValues (s : State) (pa n : Nat) : List Nat :=
  let cs := s.treeLog.filter fun c => c.pa == pa && c.n == n
  let since := ((cs.getLast?).bind (·.by')).getD 0
  ((cs.filter fun c => since < c.at').map (·.old)) ++ [s.mem.readNat pa n]
/-- Bytes read at a home, where those of fields of an enabled tree's area may show earlier values (R377). -/
def areaShows (s : State) (pa : Nat) (bs : List Byte) : State × List Byte :=
  if s.heldTrees.isEmpty then (s, bs)
  else
    let fs := ((s.treeLog.filter fun c => c.pa < pa + bs.length && pa < c.pa + c.n).map fun c => (c.pa, c.n)).eraseDups
    fs.foldl (fun (acc : State × List Byte) f =>
      let (v, s) := pickFrom acc.1 (acc.1.fieldValues f.1 f.2).eraseDups (acc.1.mem.readNat f.1 f.2)
      (s, acc.2.zipIdx.map fun x => if f.1 ≤ pa + x.2 && pa + x.2 < f.1 + f.2 then
        (Memory.leBytes f.2 v).getD (pa + x.2 - f.1) 0#8 else x.1)) (s, bs)

/-- A read at its home by an agent (R296): the bytes, and the grain's wts and rts after it. `ct` is the requester's
core time; without one no lease is granted. -/
def homeRead (s : State) (pa n grain : Nat) (ct : Option Nat) (pol : Policy) (who : W32) :
    State × List Byte × Nat × Nat :=
  let t := s.tsOf pa grain
  let rts := match ct with
    | some c => max (max t.2 t.1) (c + s.leaseLen)
    | none => t.2
  let s := s.setTs pa grain (t.1, rts)
  let s := (linesIn pa n).foldl (fun s l => s.touchLine l false pol) s
  let a := s.arrAt pa
  let s := if a.cls = 3 && pol != .dflt then (linesIn pa n).foldl (fun s l => s.dropLine l) s else s
  let (s, bs) := s.areaShows pa (s.mem.readBytes pa n)
  (s.sliceWatch pa n 1 who, bs, t.1, rts)
end State

end Sys2Proof.Machine
end

