-- ==== Sys2Proof/Machine/Directory.lean ====
section
/-! DEFINITION. The directory of lines held without a timestamp lease (R400-R407), recalls and their answers, and the
exclusive holds of groups: line leases (R166) and the ownership of near atomics (R162). -/
namespace Sys2Proof.Machine

/-- Entries that a slice holds (R400). -/
def dirEntries : Nat := 8192
/-- The 64-byte halves that a run of bytes touches. -/
def halvesOf (pa n : Nat) : List Nat :=
  (List.range ((pa + (n - 1)) / 64 + 1 - pa / 64)).map fun k => pa / 64 + k
/-- An identifier of a port or a peer (R348). -/
def remoteId (x : W32) : Bool := 5 ≤ x.toNat / 2 ^ 28

namespace State
/-- A group's hold of a line. -/
def holdOn (s : State) (g line : Nat) : Option Lease := (s.grps.get? g).bind fun G => G.leases.find? (·.line == line)
/-- Whether a group holds a line lease on a line (R166). -/
def leases (s : State) (g line : Nat) : Bool := (s.holdOn g line).any fun l => !l.near
/-- Whether a request conflicts with the holders of a half (R402, R406). -/
def halfConflict (s : State) (who : W32) (write : Bool) (h : Nat) : Bool :=
  match s.dir.get? h with
  | none => s.holderId (h / 2) != none && s.holderId (h / 2) != some who
  | some e =>
    match e.st with
    | 1 => write
    | 2 | 3 | 5 => e.owner != some who
    | 4 => s.holderId (h / 2) != some who
    | _ => false

/-- Whether any half of a run conflicts. -/
def dirConflict (s : State) (who : W32) (write : Bool) (pa n : Nat) : Bool :=
  (halvesOf pa n).any (s.halfConflict who write)

def dropDir (s : State) (h : Nat) : State :=
  match s.dir.get? h with
  | some e => { s with dir := if e.whole then (s.dir.erase (h / 2 * 2)).erase (h / 2 * 2 + 1) else s.dir.erase h }
  | none => s

/-- Recalls for the halves of a run that conflict with a request. -/
def recallFor (s : State) (who : W32) (write : Bool) (pa n : Nat) : State :=
  ((halvesOf pa n).filter (s.halfConflict who write)).foldl (fun s h => s.recallHalf h) s

/-- Lines with an entry at a slice. -/
def dirLines (s : State) (slice : Nat) : List (Nat × DirEnt) :=
  s.dir.filter fun p => (p.2.st == 1 || p.2.st == 2 || p.2.st == 3 || p.2.st == 5) && s.homeOf (p.1 * 64) == slice

/-- Make room for an entry (R404): a state 2 entry is dropped silently, or one of state 1 or 3 is recalled and the
request waits. -/
def dirRoom (s : State) (h : Nat) : State × Bool :=
  let es := s.dirLines (s.homeOf (h * 64))
  if (s.dir.get? h).isSome || (es.map fun p => p.1 / 2).eraseDups.length < dirEntries then (s, true)
  else
    match oldestDir (es.filter fun p => p.2.st == 2) with
    | some v =>
      match s.dir.get? v with
      | some e => (s.putDir v { e with st := 4, owner := none }, true)
      | none => (s, true)
    | none =>
      match oldestDir (es.filter fun p => p.2.st == 1 || p.2.st == 3) with
      | some v => (s.recallHalf v, false)
      | none => (s, false)

/-- A holder answers a recall, or returns its hold unasked (R403). -/
def dirReturn (s : State) (h : Nat) (who : W32) : State :=
  match s.dir.get? h with
  | none => s
  | some e =>
    match e.st with
    | 1 =>
      let r := e.sharers.filter (· != who)
      if r.isEmpty then s.dropDir h else s.putDir h { e with sharers := r }
    | 2 | 3 => if e.owner = some who then s.dropDir h else s
    | 4 => s.dropDir h
    | 5 =>
      let r := e.asked.filter (· != who)
      if r.isEmpty then s.dropDir h else s.putDir h { e with asked := r }
    | _ => s

/-- Runs of consecutive addresses. -/
def runsOf : Assoc Byte → List (Nat × List Byte)
  | [] => []
  | (a, b) :: r =>
    match runsOf r with
    | (c, bs) :: rest => if c = a + 1 then (a, b :: bs) :: rest else (a, [b]) :: (c, bs) :: rest
    | [] => [(a, [b])]

/-- The bytes that the holder of a line sees: its own writes, and the home's bytes under them. -/
def heldRead (s : State) (l : Lease) (pa n : Nat) : List Byte :=
  (List.range n).map fun k => (l.dirty.get? (pa + k)).getD (s.mem.read (pa + k))

/-- A hold ends: the line returns to its home with its writes, which count as writes there now (R166, R167, R405). -/
def returnLease (s : State) (g line : Nat) : State :=
  match s.holdOn g line with
  | none => s
  | some l =>
    let who := s.grpId g
    let s := s.modGrp g fun G => { G with leases := G.leases.filter (·.line != line) }
    let s := (runsOf l.dirty).foldl (fun s r => s.homeReturn r.1 r.2 who) s
    s.dirReturn (2 * line) who

/-- Every hold of a group ends (R166). -/
def breakLeases (s : State) (g : Nat) : State :=
  (((s.grps.get? g).map (·.leases)).getD []).foldl (fun s l => s.returnLease g l.line) s

/-- A write made under a hold stays with the holder (R166, R299): its visibility time is the one of the grant. -/
def leaseWrite (s : State) (g pa : Nat) (bs : List Byte) (grain : Nat) : State × Nat :=
  (s.modGrp g fun G => { G with leases := G.leases.map fun l =>
    if l.line = pa / 128 then { l with dirty := bs.zipIdx.foldl (fun d b => d.set (pa + b.2) b.1) l.dirty } else l },
    (s.tsOf pa grain).1)

/-- A remote agent becomes a holder of a half (R403). -/
def addSharer (s : State) (h : Nat) (who : W32) : State :=
  match s.dir.get? h with
  | some e => s.putDir h { e with sharers := if e.sharers.contains who then e.sharers else e.sharers ++ [who],
                                  used := s.clk }
  | none => s.putDir h { st := 1, owner := none, sharers := [who], asked := [], deadline := 0, whole := false,
                         used := s.clk }
def setOwner (s : State) (h : Nat) (who : W32) (whole : Bool) : State :=
  s.putDir h { st := if whole then 2 else 3, owner := some who, sharers := [], asked := [], deadline := 0,
               whole := whole, used := s.clk }

/-- The grant of a hold to a group (R162, R166, R299): the line is read at its home and leaves the core's L1, its grains
take the holder's time, and the directory names it. Answers the largest write time. -/
def grantHold (s : State) (g pa grain : Nat) (expiry : Nat) (near : Bool) : State × Nat :=
  let line := pa / 128
  let core := s.coreOfGrp g
  let dirty := ((s.holdOn g line).map (·.dirty)).getD []
  let (s, top) := s.raiseTs (line * 128) 128 grain (s.core core).ct
  let s := (s.touchLine line false .dflt).sliceWatch (line * 128) 128 1 (s.grpId g)
  let s := s.modCore core fun c => { c with l1 := c.l1.erase line }
  let s := s.setOwner (2 * line) (s.grpId g) true
  (s.modGrp g fun G => { G with leases := G.leases.filter (·.line != line) ++
    [{ line := line, expiry := expiry, near := near, dirty := dirty }] }, top)

/-- A group loses a hold without returning the line: the home keeps the data that last reached it (R406). -/
def loseLease (s : State) (g line : Nat) : State :=
  s.modGrp g fun G => { G with leases := G.leases.filter fun x => x.line != line }
/-- The unit of an entry whose recall timer ran out is owner-lost and poisoned (R406). -/
def markLost (s : State) (h : Nat) : State :=
  match s.dir.get? h with
  | none => s
  | some e =>
    let owner := if e.owner.isSome then e.owner else (e.asked.head?).filter (· != noAgentId)
    let s := match if e.whole then s.leaseHolder (h / 2) else none with
      | some g => s.loseLease g (h / 2)
      | none => s
    s.putDir h { e with st := 6, owner := owner, sharers := [], asked := [] }
end State

end Sys2Proof.Machine
end

