-- ==== Sys2Proof/Machine/Translate.lean ====
section
/-! DEFINITION. Translation of virtual addresses (R358-R365), the checks of a fill (R363, R367), and the fetch of an
instruction's bytes (R305, R306). -/
namespace Sys2Proof.Machine

/-- What an access needs of the leaf (R363). -/
inductive Acc | fetch | read | write | both
  deriving DecidableEq, Repr

/-- ACC of a record (R347). -/
def Acc.code : Acc → Nat
  | .fetch => 0
  | .read => 1
  | .write => 2
  | .both => 3
def Acc.reads : Acc → Bool
  | .read | .both => true
  | _ => false
def Acc.writes : Acc → Bool
  | .write | .both => true
  | _ => false

/-- A fault of a translation: cause, CODE, and the size of the page it names (R154, R347). With `held` it is no fault: the access
waits, for a holder of a line that its walk needs (R166, R402) or for a bank that is between roles (R314). -/
structure XFault where
  cause : Nat
  code : Nat
  psize : Nat
  held : Option Wait := none
  deriving DecidableEq, Repr

/-- Nothing is wrong, but the access must wait. -/
def XFault.waits (w : Wait) : XFault := { cause := 64, code := 0, psize := 4096, held := some w }

/-- A translation: physical address, page size, grain in bytes and cache policy. -/
structure Xlat where
  pa : Nat
  size : Nat
  grain : Nat
  pol : Policy
  deriving DecidableEq, Repr

/-! Page-table entries (R360). -/
def pteV (v : W64) : Bool := v.getLsbD 0
def pteR (v : W64) : Bool := v.getLsbD 1
def pteW (v : W64) : Bool := v.getLsbD 2
def pteX (v : W64) : Bool := v.getLsbD 3
def pteU (v : W64) : Bool := v.getLsbD 4
def pteG (v : W64) : Bool := v.getLsbD 5
def pteA (v : W64) : Bool := v.getLsbD 6
def pteD (v : W64) : Bool := v.getLsbD 7
def pteGrain (v : W64) : Nat := v.toNat / 2 ^ 8 % 4
def ptePol (v : W64) : Nat := v.toNat / 2 ^ 10 % 4
def pteBase (v : W64) : Nat := v.toNat / 2 ^ 12 % 2 ^ 40 * 2 ^ 12
def pteSz (v : W64) : Nat := v.toNat / 2 ^ 60
def pteRsv (v : W64) : Nat := v.toNat / 2 ^ 52 % 2 ^ 8
def pteIsLeaf (v : W64) : Bool := pteR v || pteW v || pteX v

/-- What an entry of a level says to a walk (R360): the walk ends (true for a reserved encoding), goes on, or finds a
leaf. -/
inductive PteKind | bad (reserved : Bool) | pointer (base : Nat) | leaf
  deriving DecidableEq, Repr

/-- The kind of an entry (R359, R360). -/
def pteKind (level : Nat) (v : W64) : PteKind :=
  if !pteV v then .bad false
  else if pteRsv v != 0 || ptePol v = 3 || pteGrain v = 3 then .bad true
  else if pteIsLeaf v then
    if 3 ≤ level || (if level = 1 then 8 else 6) < pteSz v then .bad true else .leaf
  else if level = 1 || pteSz v != 0 || (v.toNat / 2 ^ 4 % 2 ^ 8) != 0 then .bad true
  else .pointer (pteBase v)

/-- Bytes that a leaf maps (R359). -/
def leafBytes (level : Nat) (v : W64) : Nat := 2 ^ ((if level = 1 then 12 else 21) + pteSz v)
/-- The physical address that a leaf gives (R361). -/
def leafPa (level : Nat) (v : W64) (va : Nat) : Nat :=
  let n := leafBytes level v
  pteBase v / n * n + va % n
/-- Bytes that an entry of a level covers. -/
def levelBytes (level : Nat) : Nat := 2 ^ (12 + 9 * (level - 1))
/-- Index of an address at a level (R359). -/
def levelIndex (level va : Nat) : Nat := va / levelBytes level % 512

/-- Whether an entry of a level is a leaf that serves every address space (R364). -/
def pteGlobal (level : Nat) (v : W64) : Bool := level ≤ 2 && pteIsLeaf v && pteG v
/-- Whether a sys.tlbi drops a value cached of an entry of a level that served an address (R235, R364). -/
def dropsEntry (asid level va : Nat) (v : W64) (space : Nat) (at' : Option Nat) : Bool :=
  let n := if level ≤ 2 && pteIsLeaf v then leafBytes level v else if level = 6 then 2 ^ 56 else levelBytes level
  space == (if pteGlobal level v then 0 else asid) && at'.all fun a => a / n == va / n
/-- The values that an entry's location has held since the last sys.tlbi that covers it (R365), newest first; `ds` are the
sys.tlbis passed on the way. -/
def heldValues (asid level va pa : Nat) : List XEvent → List (Nat × Option Nat) → List W64
  | [], _ => []
  | .drop b x :: r, ds => heldValues asid level va pa r ((b, x) :: ds)
  | .held p v :: r, ds =>
    if p = pa && !(ds.any fun d => dropsEntry asid level va v d.1 d.2) then v :: heldValues asid level va pa r ds
    else heldValues asid level va pa r ds

/-- Where a walk ends: a fault of translation, or a leaf with its location and level. -/
structure Walk where
  fault : Option XFault
  pa : Nat
  level : Nat
  val : W64
  deriving DecidableEq, Repr

namespace State
/-- The 64-bit entry at a physical address. -/
def pteAt (s : State) (pa : Nat) : W64 := BitVec.ofNat 64 (s.mem.readNat pa 8)

/-- The address space whose tables serve an address: 0 for the supervisor half (R358). -/
def tableSpace (asid va : Nat) : Nat := if va / 2 ^ 56 % 2 = 1 then 0 else asid

/-- The value that a walk uses of an entry: the current one, read at its home, or one it has held that may be cached
(R364, R365). None: the home waits for a holder (R402). -/
def entryAt (s : State) (useCache : Bool) (asid level va pa : Nat) : State × Option W64 :=
  let now := s.pteAt pa
  let olds := if useCache then ((heldValues asid level va pa s.xhist []).filter (· != now)).eraseDups else []
  let (k, s) := pick s (olds.length + 1)
  match k with
  | 0 =>
    if s.dirConflict noAgentId false pa 8 then (s.recallFor noAgentId false pa 8, none)
    else (s.sliceWatch pa 8 1 noAgentId, some now)
  | k + 1 => (s, some (olds.getD k now))
end State

/-- A walk that ends in a fault. -/
def Walk.failed (level pa : Nat) (v : W64) (f : XFault) : Walk := { fault := some f, pa := pa, level := level, val := v }
/-- The fault of a walk that ends at a level (R347, R360). -/
def walkFault (level : Nat) (reserved : Bool) : XFault := { cause := 5, code := level + (if reserved then 8 else 0), psize := 4096 }

/-- A walk from a table down the given levels (R359, R360). -/
def walkFrom (asid va : Nat) (useCache : Bool) : List Nat → Nat → State → State × Walk
  | [], _, s => (s, .failed 1 0 0#64 (walkFault 1 true))
  | level :: rest, table, s =>
    let pa := table + 8 * levelIndex level va
    match s.entryAt useCache asid level va pa with
    | (s, none) => (s, .failed level pa 0#64 (.waits (.home pa 8 false)))
    | (s, some v) =>
      match pteKind level v with
      | .bad rsv => (s, .failed level pa v (walkFault level rsv))
      | .leaf => (s, { fault := none, pa := pa, level := level, val := v })
      | .pointer base => walkFrom asid va useCache rest base s

namespace State
/-- A walk from the address-space table (R358). -/
def walkRoot (s : State) (asid va : Nat) (useCache : Bool) : State × Walk :=
  let root := s.ctlReg 0x030
  let a := tableSpace asid va
  if 2 ^ min 16 (root.toNat % 32) ≤ a then (s, .failed 5 0 0#64 (walkFault 5 false))
  else
    let pa := pteBase root + 8 * a
    match s.entryAt useCache a 6 va pa with
    | (s, none) => (s, .failed 5 pa 0#64 (.waits (.home pa 8 false)))
    | (s, some v) =>
      if !pteV v then (s, .failed 5 pa v (walkFault 5 false))
      else if v.toNat % 2 ^ 12 != 1 || v.toNat / 2 ^ 52 != 0 then (s, .failed 5 pa v (walkFault 5 true))
      else walkFrom a va useCache [5, 4, 3, 2, 1] (pteBase v) s

/-- The replicas of a leaf that differ from it, A and D aside (R361): where each lies and its value. -/
def replicas (s : State) (w : Walk) (va : Nat) : List (Nat × W64) :=
  let n := 2 ^ pteSz w.val
  let base := w.pa - 8 * (levelIndex w.level va % n)
  ((List.range n).map fun k => (base + 8 * k, s.pteAt (base + 8 * k))).filter fun p =>
    p.2 &&& ~~~0xC0#64 != w.val &&& ~~~0xC0#64

/-- The walk of an address (R359, R364): one that faults through cached entries reads them at their homes; a leaf that
replicas disagree about is any of them (R361). -/
def walk (s : State) (asid va : Nat) (useCache : Bool) : State × Walk :=
  let (s, w) := s.walkRoot asid va useCache
  let (s, w) := if useCache && w.fault.any (fun f => f.held.isNone) then s.walkRoot asid va false else (s, w)
  if w.fault.isSome || pteSz w.val = 0 then (s, w)
  else
    let (p, s) := pickFrom s ((w.pa, w.val) :: s.replicas w va) (w.pa, w.val)
    match pteKind w.level p.2 with
    | .leaf => (s, { w with pa := p.1, val := p.2 })
    | .bad rsv => (s, .failed w.level p.1 p.2 (walkFault w.level rsv))
    | .pointer _ => (s, .failed w.level p.1 p.2 (walkFault w.level true))

/-- The leaf an access uses: the walk's, or a global leaf of another address space that is cached (R364). -/
def leafFor (s : State) (asid va : Nat) : State × Walk :=
  let others := s.ptes.filter fun p => p.asid != tableSpace asid va && va / 2 ^ 56 % 2 = 0 && p.lo ≤ va && va < p.lo + p.size
  let (k, s) := pick s (others.length + 1)
  match k with
  | 0 => s.walk asid va true
  | k + 1 =>
    match others[k]? with
    | some p => (s, { fault := none, pa := p.pa, level := p.level, val := p.val })
    | none => s.walk asid va true

/-- The checks of R363 on a leaf, lowest cause first. -/
def leafCheck (s : State) (v : W64) (pa va : Nat) (acc : Acc) (sup : Bool) : Option Nat :=
  let ft := s.ftByte pa
  let gr := ft.toNat / 4 % 4
  if !sup && (!pteU v || va / 2 ^ 56 % 2 = 1) then some 0x06
  else if acc.reads && !pteR v then some 0x06
  else if acc.writes && !pteW v then some 0x06
  else if acc = .fetch && (!pteX v || !s.exc pa) then some 0x06
  else if pteW v && pteX v then some 0x07
  else if (s.ftAddr pa).isSome && gr != 0 && gr != pteGrain v + 1 then
    some (if ft.getLsbD 4 then 0x09 else 0x16)
  else none

/-- Change the frame table entry of a frame at its home (R367): bits set, then bits cleared. An OR or AND that changes
nothing writes nothing. -/
def ftUpdate (s : State) (pa : Nat) (setBits clearBits : Byte) : State :=
  match s.ftAddr pa with
  | none => s
  | some e =>
    let b := (s.mem.read e ||| setBits) &&& ~~~clearBits
    if b = s.mem.read e then s else (s.homeWrite e [b] (s.ftGrain e) 0 .dflt noAgentId).1

/-- How a fill ends: done, the entry has changed since the walk read it, or a home waits for a holder. -/
inductive FillEnd | done | changed | waits (pa : Nat)

/-- A fill that passes: A and D in the entry by compare-and-swap (R362), A and GR in the frame table (R367); a global leaf
serves every address space from then on (R364). -/
def fill (s : State) (asid va : Nat) (w : Walk) (pa : Nat) (acc : Acc) : State × FillEnd :=
  let want := w.val ||| 0x40#64 ||| (if acc.writes then 0x80#64 else 0#64)
  let gr := if (s.ftByte pa).toNat / 4 % 4 = 0 then BitVec.ofNat 8 ((pteGrain w.val + 1) * 4) else 0#8
  let noGs := if gr = 0#8 then 0#8 else 0x10#8
  let ft := (s.ftByte pa ||| (0x40#8 ||| gr)) &&& ~~~noGs
  let held := (if want != w.val && s.dirConflict noAgentId true w.pa 8 then [w.pa] else []) ++
    (match s.ftAddr pa with
      | some e => if ft != s.ftByte pa && s.dirConflict noAgentId true e 1 then [e] else []
      | none => [])
  match held with
  | x :: _ => (s.recallFor noAgentId true x 1, .waits x)
  | [] =>
    if want != w.val && s.pteAt w.pa != w.val then (s, .changed)
    else
      let s := if want = w.val then s
        else (s.homeWrite w.pa (Memory.leBytes 8 want.toNat) (s.ftGrain w.pa) 0 .dflt noAgentId).1
      let s := s.ftUpdate pa (0x40#8 ||| gr) noGs
      let n := leafBytes w.level w.val
      let seen : PteSeen := { pa := w.pa, val := want, asid := tableSpace asid va, level := w.level, lo := va / n * n, size := n }
      ({ s with ptes := if pteGlobal w.level want && tableSpace asid va != 0 && !s.ptes.contains seen then s.ptes ++ [seen] else s.ptes },
        .done)

/-- Cache policy code. -/
def policyOf (n : Nat) : Policy := if n = 1 then .stream else if n = 2 then .nostore else .dflt

/-- A device's own peer window maps onto its own physical addresses (R408). -/
def ownWindow (s : State) (pa : Nat) : Nat :=
  if regionOf pa = .peer ((s.mmio.getD 0x60000 0#64).toNat % 64) then pa % 2 ^ 44 else pa

/-- A translation from the end of its walk: the checks of R363 and the fill. None: the entry has changed since the walk
read it (R362). -/
def finishWalk (s : State) (asid : Nat) (sup : Bool) (n : Nat) (acc : Acc) (w : Walk) : State × Option (Except XFault Xlat) :=
  match w.fault with
  | some f => (s, some (.error f))
  | none =>
    let pa := leafPa w.level w.val n
    let size := leafBytes w.level w.val
    if !listed pa then (s, some (.error { cause := 5, code := w.level, psize := size }))
    else if (s.ftAddr pa).any fun e => s.dirConflict noAgentId false e 1 then
      (s.recallFor noAgentId false ((s.ftAddr pa).getD 0) 1, some (.error (.waits (.home ((s.ftAddr pa).getD 0) 1 false))))
    else
      match s.leafCheck w.val pa n acc sup with
      | some c => (s, some (.error { cause := c, code := 0, psize := size }))
      | none =>
        match s.fill asid n w pa acc with
        | (s, .waits x) => (s, some (.error (.waits (.home x 1 true))))
        | (s, .changed) => (s, none)
        | (s, .done) =>
          (s, some (.ok { pa := s.ownWindow pa, size := size, grain := 32 * 4 ^ pteGrain w.val, pol := policyOf (ptePol w.val) }))

/-- The translation of one address for an access (R149, R358-R367). A walk whose entry has changed starts again, at the
homes (R362). -/
def translate (s : State) (asid : Nat) (sup : Bool) (va : W64) (acc : Acc) : State × Except XFault Xlat :=
  let n := va.toNat
  let top := n / 2 ^ 56
  if top != 0 && n / 2 ^ 56 != 0xFF then (s, .error { cause := 5, code := 0, psize := 4096 })
  else if top != 0 && !sup then (s, .error { cause := 6, code := 0, psize := 4096 })
  else
    let (s, w) := s.leafFor asid n
    match s.finishWalk asid sup n acc w with
    | (s, some r) => (s, r)
    | (s, none) =>
      let (s, w) := s.walk asid n false
      match s.finishWalk asid sup n acc w with
      | (s, some r) => (s, r)
      | (s, none) => (s, .error (.waits (.home w.pa 8 true)))
end State

/-! Fetch (R305, R306). -/
namespace State
/-- The instruction lines and code time of an agent: its core's, or its cluster's Keystone fill path. -/
def icache (s : State) (a : Agent) : Assoc ILine :=
  match a with
  | .frag _ _ => (s.core (s.coreOf a)).il
  | .ks _ => (s.clu (s.cluOf a)).il
def codeTime (s : State) (a : Agent) : Nat :=
  match a with
  | .frag _ _ => (s.core (s.coreOf a)).kt
  | .ks _ => (s.clu (s.cluOf a)).kt
/-- The time sent with a fill (R296): the core's ct, or the fill path's kt. -/
def fillTime (s : State) (a : Agent) : Nat :=
  match a with
  | .frag _ _ => (s.core (s.coreOf a)).ct
  | .ks _ => (s.clu (s.cluOf a)).kt
def setIcache (s : State) (a : Agent) (sec : Nat) (l : ILine) : State :=
  match a with
  | .frag _ _ => s.modCore (s.coreOf a) fun c => { c with il := c.il.set sec l }
  | .ks _ => s.modClu (s.cluOf a) fun c => { c with il := c.il.set sec l }

/-- The class and the port at which an agent's requests enter the fabric (R336). -/
def portOf (s : State) (a : Agent) : Nat × Nat :=
  match a with
  | .frag _ _ => (0, s.coreOf a)
  | .ks k => (2, k / 4)
/-- A fill of one 32-byte sector at its home: it waits for a holder (R402) and at its port (R337), or gives 0x08 when the sector is unpublished and
0x0A or 0x0B as the home reports. -/
def fillSector (s : State) (a : Agent) (pa grain : Nat) : State × Except XFault (List Byte) :=
  let err := fun c => Except.error { cause := c, code := 0, psize := 4096 }
  if s.dirConflict noAgentId false pa 32 then (s.recallFor noAgentId false pa 32, .error (.waits (.home pa 32 false)))
  else
    match s.homeError pa 32 .read with
    | some c => (s, err c)
    | none =>
      if !s.isPublished pa then (s, err 0x08)
      else
        let (cls, port) := s.portOf a
        if !s.mayInject cls port 32 then (s, .error (.waits (.port cls port 32)))
        else
        let (s, bs, wts, rts) := (s.noteInject cls port 32).homeRead pa 32 grain (some (s.fillTime a)) .dflt (s.agentId a)
        (s.setIcache a (pa / 32) { data := bs, wts := wts, rts := rts }, .ok bs)

/-- The bytes of a sector that a fetch executes: those of a line whose lease reaches the code time, or a fill's. -/
def fetchSector (s : State) (a : Agent) (pa grain : Nat) : State × Except XFault (List Byte) :=
  match (s.icache a).get? (pa / 32) with
  | none => s.fillSector a pa grain
  | some l =>
    if l.rts < s.codeTime a then s.fillSector a pa grain
    else if l.data = s.mem.readBytes pa 32 && s.isPublished pa then (s, .ok l.data)
    else
      let (k, s) := pick s 2
      if k = 0 then (s, .ok l.data) else s.fillSector a pa grain

/-- The bytes of a fetch from the given addresses on, sector by sector; a fault names its page. -/
def fetchRun (s : State) (a : Agent) : List (Nat × Nat) → State × Except (XFault × W64) (List Byte)
  | [] => (s, .ok [])
  | (va, n) :: rest =>
    match s.translate (s.asidOf a) (s.supOf a) (BitVec.ofNat 64 va) .fetch with
    | (s, .error f) => (s, .error (f, BitVec.ofNat 64 va))
    | (s, .ok x) =>
      let sec := x.pa / 32 * 32
      match s.fetchSector a sec x.grain with
      | (s, .error f) => (s, .error ({ f with psize := x.size }, BitVec.ofNat 64 va))
      | (s, .ok bs) =>
        match fetchRun s a rest with
        | (s, .error e) => (s, .error e)
        | (s, .ok more) => (s, .ok ((bs.drop (x.pa % 32)).take n ++ more))

/-- The 12 bytes of an instruction by the sectors that hold them (R306); a fault names the PC, or the first byte in the
second page. -/
def fetch (s : State) (a : Agent) : State × Except (XFault × W64) (List Byte) :=
  let pc := (s.pcOf a).toNat
  let first := min 12 (32 - pc % 32)
  match s.fetchRun a (if first = 12 then [(pc, 12)] else [(pc, first), ((pc + first) % 2 ^ 64, 12 - first)]) with
  | (s, .error (f, va)) => (s, .error (f, if va.toNat / 4096 = pc / 4096 then s.pcOf a else va))
  | r => r
end State

end Sys2Proof.Machine
end

