-- ==== Sys2Proof/Machine/Cache.lean ====
section
/-! DEFINITION. The L1 of a core (R296, R297, R315, R272), its banks and scratch (R314-R320), and mapped scratch (R174,
R175). -/
namespace Sys2Proof.Machine

/-! The L1: 128-byte lines by number, each in the bank that is its way, with the times of each sector's grain (log 12). -/
/-- Sectors of a line that hold a run of its bytes. -/
def sectorsOf (off n : Nat) : List Nat := (List.range 4).filter fun k => 32 * k < off + n && off < 32 * k + 32
/-- The same as a mask. -/
def sectorMask (off n : Nat) : Nat := (sectorsOf off n).foldl (fun m k => m + 2 ^ k) 0

def bankBytes : Nat := 16384
def Core.bank (c : Core) (k : Nat) : Bank := c.banks.getD k emptyBank
def Core.setBank (c : Core) (k : Nat) (b : Bank) : Core := { c with banks := c.banks.put emptyBank k b }
/-- The ways of a core's L1: its banks in the cache role (R315). -/
def Core.ways (c : Core) : List Nat := (List.range 32).filter fun k => (c.bank k).role == .cache

/-- Drop sectors of a line; a line with no valid sector leaves its way. -/
def Core.dropSectors (c : Core) (line mask : Nat) : Core :=
  match c.l1.get? line with
  | none => c
  | some l =>
    let v := l.valid &&& (15 - mask)
    { c with l1 := if v = 0 then c.l1.erase line else c.l1.set line { l with valid := v } }

namespace State
/-- Clocks after its fill for which a copy may still be read, so that no read is staler than R300 allows. -/
def l1Life (s : State) : Nat := (s.leaseLen + 1) * s.ctAdv

/-- The bytes of a run within one line that a load may take from L1, and their write time: the way's bank in the cache role,
sectors valid and lease not ended (R296, R300, R314). -/
def l1Read (s : State) (core pa n : Nat) : Option (List Byte × Nat) :=
  let c := s.core core
  match c.l1.get? (pa / 128) with
  | none => none
  | some l =>
    let ks := sectorsOf (pa % 128) n
    if (c.bank l.way).role == .cache && ks.all fun k => l.valid.testBit k && (match l.ts.get? k with
        | some (_, rts, born) => c.ct ≤ rts && s.clk ≤ born + s.l1Life
        | none => false) then
      some ((List.range n).map fun k => l.data.getD (pa % 128 + k) 0#8,
        ks.foldl (fun m k => max m (l.ts.getD k (0, 0, 0)).1) 0)
    else none

/-- A hit makes its line the most recently used (R315). -/
def l1Touch (s : State) (core pa : Nat) : State :=
  s.modCore core fun c => { c with l1 := c.l1.update (pa / 128) fun l => { l with used := s.clk } }

/-- The least recently used line of a set. -/
def lruLine (ls : List (Nat × L1Line)) : Option Nat :=
  match ls with
  | [] => none
  | p :: r => some (r.foldl (fun b q => if q.2.used < b.2.used then q else b) p).1

/-- A line leaves a core's ways for capacity and enters the victim array; the oldest tag leaves it (R272). -/
def l1Evict (c : Core) (line : Nat) : Core :=
  { c with l1 := c.l1.erase line
           victims := (if 4096 ≤ c.victims.length then c.victims.drop 1 else c.victims) ++ [line] }

/-- The way that a line takes in its set: the one it has, a free one, or that of the least recently used line (R315). -/
def l1Way (c : Core) (line : Nat) : Core × Option Nat :=
  let c := match c.l1.get? line with
    | some l => if c.ways.contains l.way then c else { c with l1 := c.l1.erase line }
    | none => c
  match c.l1.get? line with
  | some l => (c, some l.way)
  | none =>
    let set := c.l1.filter fun p => p.1 % 128 == line % 128 && c.ways.contains p.2.way
    match c.ways.find? fun k => !(set.any fun p => p.2.way == k) with
    | some k => (c, some k)
    | none =>
      match lruLine set with
      | some v => (l1Evict c v, (c.l1.get? v).map (·.way))
      | none => (c, none)

/-- A fill of the sectors of a line that belong to one grain (R296, R315), for an agent: the halves that another agent
holds, or that are owner-lost, stay out (R402, R406). A miss whose line is in the victim array counts (R272). -/
def l1Fill (s : State) (core pa grain : Nat) (ts : Nat × Nat) (who : W32) : State :=
  let line := pa / 128
  let ks := (if grain = 32 then [pa % 128 / 32] else List.range 4).filter fun k =>
    !s.lostAt (line * 128 + 32 * k) 32 && !s.dirConflict who false (line * 128 + 32 * k) 32
  s.modCore core fun c =>
    let c := { c with hits := c.hits + (c.victims.contains line).toNat }
    match l1Way c line with
    | (c, none) => c
    | (c, some way) =>
      let l := (c.l1.get? line).getD { way := way, valid := 0, data := [], ts := [], used := 0 }
      let data := ks.foldl (fun d k => (List.range 32).foldl (fun d j =>
        Assoc.set d (32 * k + j) (s.mem.read (line * 128 + 32 * k + j))) d) l.data
      { c with l1 := c.l1.set line { l with
          valid := l.valid ||| ks.foldl (fun m k => m + 2 ^ k) 0
          data := data, ts := ks.foldl (fun m k => Assoc.set m k (ts.1, ts.2, s.clk)) l.ts, used := s.clk } }

/-- The bytes of a run leave a core's L1. -/
def l1Drop (s : State) (core pa n : Nat) : State := s.modCore core fun c => c.dropSectors (pa / 128) (sectorMask (pa % 128) n)

/-- A write that reached its home updates the writer's own L1 copy under the default policy, and its sectors take the
visibility time (R297). A sector whose other bytes are no longer the home's is dropped, so that the raised lease keeps no
value that R291 excludes. Under stream and nostore the sectors that it covers are invalid. -/
def l1Write (s : State) (core pa : Nat) (bs : List Byte) (pol : Policy) (vis : Nat) : State :=
  s.modCore core fun c =>
    match c.l1.get? (pa / 128) with
    | none => c
    | some l =>
      let ks := sectorsOf (pa % 128) bs.length
      let data := bs.zipIdx.foldl (fun d p => Assoc.set d (pa % 128 + p.2) p.1) l.data
      let old := ks.filter fun k => pol != .dflt || (List.range 32).any fun j =>
        data.getD (32 * k + j) 0#8 != s.mem.read (pa / 128 * 128 + 32 * k + j)
      let ts := ks.foldl (fun m k => Assoc.set m k (vis, vis, s.clk)) l.ts
      ({ c with l1 := c.l1.set (pa / 128) { l with data := data, ts := ts } }).dropSectors (pa / 128)
        (old.foldl (fun m k => m + 2 ^ k) 0)

/-- The core's time is raised by an acquire or release (R298). -/
def raiseCt (s : State) (core t : Nat) : State := s.modCore core fun c => { c with ct := max c.ct t }
end State

/-! Banks and scratch (R314-R322). -/
/-- Role codes of bank.qry (R172, R314). -/
def Role.code : Role → Nat
  | .cache => 0
  | .scratch => 1
  | .fifo => 2
  | .switching _ => 3

/-- A bank leaves the cache role: every line of it is dropped without entering the victim array (R317, R318). -/
def Core.dropWay (c : Core) (k : Nat) : Core := { c with l1 := c.l1.filter fun p => p.2.way != k }

/-- A bank takes a role (R317): scratch reads zero, a FIFO is empty, a cache bank holds no line. -/
def Core.takeRole (c : Core) (k : Nat) (r : Role) (holder : Option Nat) : Core :=
  (c.setBank k { emptyBank with role := r, holder := holder }).dropWay k

namespace State
/-- Bank and byte of a scratch offset of a task (R320). -/
def scratchAt (T : Task) (off : Nat) : Option (Nat × Nat) := (T.banks[off / bankBytes]?).map fun b => (b, off % bankBytes)
def scratchByte (s : State) (T : Task) (off : Nat) : Byte :=
  match scratchAt T off with
  | some (b, o) => ((s.core T.core).bank b).data.getD o 0#8
  | none => 0#8
def scratchRead (s : State) (t off n : Nat) : List Byte :=
  match s.tasks.get? t with
  | some T => (List.range n).map fun k => s.scratchByte T (off + k)
  | none => List.replicate n 0#8
def scratchPut (s : State) (T : Task) (off : Nat) (x : Byte) : State :=
  match scratchAt T off with
  | some (b, o) => s.modCore T.core fun c => c.setBank b { c.bank b with data := (c.bank b).data.put 0#8 o x }
  | none => s
def scratchWrite (s : State) (t off : Nat) (bs : List Byte) : State :=
  match s.tasks.get? t with
  | some T => ((List.range bs.length).zip bs).foldl (fun s p => s.scratchPut T (off + p.1) p.2) s
  | none => s
/-- A team's effective bank rights: the banks its launch names, less those other teams hold (R316). -/
def bankRights (s : State) (t : Nat) : List Nat :=
  match s.tasks.get? t with
  | none => []
  | some T =>
    let named := ((s.launchOf T).map (·.banksR)).getD 0#32
    (List.range 32).filter fun k =>
      let b := (s.core T.core).bank k
      let held := b.role == .scratch || b.role == .fifo
      named.getLsbD k && (!held || b.holder == some t)
end State

/-! Mapped scratch (R174, R175). -/
/-- The mapping of a task that holds a virtual address, by its place in the list. -/
def mapAt (T : Task) (va : Nat) : Option (Nat × SMap) :=
  ((List.range T.maps.length).zip T.maps).find? fun p => p.2.va.toNat ≤ va && va < p.2.va.toNat + p.2.len

namespace State
def modMap (s : State) (t i : Nat) (f : SMap → SMap) : State :=
  s.modTask t fun T => { T with maps := T.maps.modify i f }
/-- Virtual address of a chunk. -/
def chunkVa (m : SMap) (c : Nat) : W64 := m.va + BitVec.ofNat 64 (128 * c)

/-- What an access to a chunk needs (R174): nothing when the chunk is valid, otherwise its translation, checked for that
access. -/
def fillPlan (s : State) (t i c : Nat) (asid : Nat) (sup : Bool) (acc : Acc) : State × Except XFault (Option Xlat) :=
  match (s.tasks.get? t).bind fun T => T.maps[i]? with
  | none => (s, .ok none)
  | some m =>
    if m.valid.contains c then (s, .ok none)
    else
      match s.translate asid sup (chunkVa m c) acc with
      | (s, .error f) => (s, .error f)
      | (s, .ok x) => (s, .ok (some x))

/-- An invalid chunk takes its bytes from its home (R174). -/
def fillFrom (s : State) (t i c : Nat) (x : Xlat) (who : W32) : State :=
  match (s.tasks.get? t).bind fun T => T.maps[i]? with
  | none => s
  | some m =>
    if m.valid.contains c then s
    else
      let core := ((s.tasks.get? t).map (·.core)).getD 0
      let (s, bs, _, _) := (s.noteInject 0 core 128).homeRead x.pa 128 x.grain none x.pol who
      (s.scratchWrite t (m.off + 128 * c) bs).modMap t i fun m => { m with valid := m.valid.insert c }

/-- Fill a chunk at its first touch, for an agent that takes one chunk at a time (R174, R402). -/
def fillChunk (s : State) (t i c : Nat) (asid : Nat) (sup : Bool) (acc : Acc) (who : W32) : State × Option XFault :=
  match s.fillPlan t i c asid sup acc with
  | (s, .error f) => (s, some f)
  | (s, .ok none) => (s, none)
  | (s, .ok (some x)) =>
    let core := ((s.tasks.get? t).map (·.core)).getD 0
    if s.dirConflict who false x.pa 128 then (s.recallFor who false x.pa 128, some (.waits (.home x.pa 128 false)))
    else if !s.mayInject 0 core 128 then (s, some (.waits (.port 0 core 128)))
    else
      match s.homeError x.pa 128 .read with
      | some e => (s, some { cause := e, code := 0, psize := x.size })
      | none => (s.fillFrom t i c x who, none)

/-- The scratch image of a task that is saved, the last part of its frame (R354): where it lies, and its banks. -/
def savedImage (s : State) (t : Nat) : Option (Nat × Nat) :=
  (s.frames.find? fun f => f.kind == 2 && f.owner == t).map fun f =>
    let n := s.mem.readNat f.base 8 / 2 ^ 16 % 64
    (f.base + f.bytes - bankBytes * n, n)
/-- Bytes of a task's scratch, wherever it is kept. -/
def scratchKept (s : State) (t off n : Nat) : List Byte :=
  match s.savedImage t with
  | some (image, _) => s.mem.readBytes (image + off) n
  | none => s.scratchRead t off n

/-- Write a dirty chunk back: translated, then written at its home, then clean (R175, R402). Answers the visibility time. -/
def writeBackChunk (s : State) (t i c : Nat) (asid : Nat) (sup : Bool) (who : W32) : State × Except XFault Nat :=
  match (s.tasks.get? t).bind fun T => T.maps[i]? with
  | none => (s, .ok 0)
  | some m =>
    match s.translate asid sup (chunkVa m c) .write with
    | (s, .error f) => (s, .error f)
    | (s, .ok x) =>
      if s.dirConflict who true x.pa 128 then (s.recallFor who true x.pa 128, .error (.waits (.home x.pa 128 true)))
      else
        match s.homeError x.pa 128 .write with
        | some e => (s, .error { cause := e, code := 0, psize := x.size })
        | none =>
          let core := ((s.tasks.get? t).map (·.core)).getD 0
          let bs := s.scratchKept t (m.off + 128 * c) 128
          let (s, v) := s.homeWrite x.pa bs x.grain (s.core core).ct x.pol who
          let s := s.l1Write core x.pa bs x.pol v
          (s.modMap t i fun m => { m with dirty := m.dirty.filter (· != c) }, .ok v)
end State

/-! The retry ring (R351). -/
/-- The words of a retry entry. -/
def retryBytes (addr val pc : W64) (core team ctx inner : Nat) (write : Bool) : List Byte :=
  Memory.leBytes 8 addr.toNat ++ Memory.leBytes 8 val.toNat ++ Memory.leBytes 8 pc.toNat ++
    Memory.leBytes 4 (core * 2 ^ 24 + team % 128 * 2 ^ 17 + ctx * 2 ^ 12 + inner * 2 ^ 6 + 0x15) ++
    Memory.leBytes 4 (if write then 2 else 0)

/-- An entry for the retry ring of a core's die, written when it fits. -/
def State.pushRetry (s : State) (core team ctx inner : Nat) (addr val pc : W64) (write : Bool) (target : AckTarget) :
    State :=
  { s with sets := s.sets ++ [{ die := dieOfCore core, retry := true, target := target, cause := inner,
                                recs := [retryBytes addr val pc core team ctx inner write] }] }

end Sys2Proof.Machine
end

