-- ==== Sys2Proof/Machine/Operands.lean ====
section
/-! DEFINITION. Operand forms: special registers (R17), scalar and vector sources with their permutations (R16, R19,
R42, R74, R142), immediates (R22), and the writing of vector, scalar and predicate destinations (R15, R42, R265). -/
namespace Sys2Proof.Machine

/-- The lowest lane of a mask; 0 for none. -/
def lowLane (m : Mask) : Nat := (lanesOf m).headD 0

/-- Index of a launch level from 2 up (R251). -/
def levelIdx (s : State) (a : Agent) (n : Nat) : Nat := ((s.taskOf a).map fun T => T.lvl.getD (n - 2) 0).getD 0

/-- The clock as an agent reads it (R17): readings of two cores differ by at most 16. -/
def clockOf (s : State) (a : Agent) : Nat := s.clk + Config.clkSkew (s.coreOf a) % 17

/-- A special register as lane `l` of an agent reads it (R17, R251). -/
def special (s : State) (a : Agent) (i l : Nat) : W64 :=
  match a with
  | .frag g e =>
    BitVec.ofNat 64 (match i with
      | 0x10 => l
      | 0x11 => e
      | 0x12 => ((s.grps.get? g).map (·.idx)).getD 0
      | 0x13 => ((s.taskOf a).map (·.slot)).getD 0
      | 0x14 => s.coreOf a
      | 0x15 => s.cluOf a
      | 0x16 => s.dieOf a
      | 0x18 => l
      | 0x19 => ((s.grps.get? g).map (·.idx)).getD 0
      | 0x20 => clockOf s a
      | n => if 0x1A ≤ n && n ≤ 0x1F then levelIdx s a (n - 0x18) else 0)
  | .ks k =>
    BitVec.ofNat 64 (match i with
      | 0x13 => k % 4
      | 0x15 => k / 4
      | 0x16 => k / 48
      | 0x20 => clockOf s a
      | n => if 0x1A ≤ n && n ≤ 0x1F then levelIdx s a (n - 0x18) else 0)

/-- A special read once for an agent: sr.lane gives the lowest active lane (R17). -/
def specialOnce (s : State) (a : Agent) (i : Nat) : W64 := special s a i (lowLane (s.maskOfAgent a))

/-! Scalar sources. -/
/-- A little-endian number of bytes. -/
def natOfBytes (bs : List Byte) : Nat := bs.foldr (fun b acc => acc * 256 + b.toNat) 0

/-- The unit of a request that holds byte o of lane l's access. -/
def Req.unit (r : Req) (l o : Nat) : Option LaneReq :=
  r.lanes.find? fun p => (r.one || p.lane == l) && p.off ≤ o && o < p.off + p.size
/-- Byte o of what a request brings lane l, where it is known: zero past its units (R124, R150). -/
def Req.byte (r : Req) (l o : Nat) : Option Byte :=
  match r.unit l o with
  | none => some 0#8
  | some p => p.got.map fun bs => bs.getD (o - p.off) 0#8
/-- The word at byte o of what a request brings lane l, where it is known. -/
def Req.word (r : Req) (l o : Nat) : Option W32 :=
  match r.byte l o, r.byte l (o + 1), r.byte l (o + 2), r.byte l (o + 3) with
  | some b0, some b1, some b2, some b3 => some (b3 ++ b2 ++ b1 ++ b0)
  | _, _, _, _ => none

/-- Two agents share their registers: fragments of one group, or one context. -/
def sameRegs : Agent → Agent → Bool
  | .frag g _, .frag g' _ => g == g'
  | .ks k, .ks k' => k == k'
  | _, _ => false
/-- The value that an outstanding load brings scalar register i, where it is known (R70). -/
def Req.newScl (r : Req) (i : Nat) : Option W32 :=
  match r.dst with
  | some (.scl, d) => if d ≤ i && i < d + r.regs && !(r.overwritten.any fun p => p.1 == i) then r.word 0 (4 * (i - d)) else none
  | _ => none
namespace State
/-- The values on their way to a scalar register of an agent. -/
def sclPending (s : State) (a : Agent) (i : Nat) : List W32 :=
  s.reqs.filterMap fun p => if sameRegs a p.2.agent then p.2.newScl i else none
/-- A scalar register as an instruction reads it: as before or as after a load that is outstanding (R70, R142). -/
def sread (s : State) (a : Agent) (i : Nat) : W32 :=
  match s.sclPending a i with
  | [] => s.sget a i
  | xs =>
    let who := match a with
      | .frag g e => 32 * g + 2 * e
      | .ks k => 2 * k + 1
    (s.sget a i :: xs).getD (Config.freeSeen s.free s.clk who (s.pcOf a).toNat i % (xs.length + 1)) (s.sget a i)
def sread64 (s : State) (a : Agent) (i : Nat) : W64 := pairOf (s.sread a i) (s.sread a (i + 1))
end State

/-- A scalar register or pair, or a special, read once (R16, R20). -/
def readScl (s : State) (a : Agent) (x : Src) (wide : Bool) : W64 :=
  match x.cls with
  | .spec => specialOnce s a x.idx.toNat
  | _ => if wide then s.sread64 a x.idx.toNat else (s.sread a x.idx.toNat).setWidth 64

/-! Vector sources. -/
/-- The value that an outstanding load or atomic of a group brings for lane l of register v, where it is known: each
lane may be read as before or as after it (R142). -/
def Req.newLane (r : Req) (v l : Nat) : Option W32 :=
  match r.dst, r.op with
  | _, .accRead _ _ => none
  | some (.vec, d), _ =>
    if d ≤ v && v < d + r.regs && r.part.getLsbD l && !(r.overwritten.any fun p => p.1 == v && p.2.getLsbD l) then
      r.word l (4 * (v - d))
    else none
  | _, _ => none

/-- Outstanding requests of a group that write register v. -/
def pendingOn (s : State) (g v : Nat) : List Req :=
  (s.reqs.filter fun p =>
    (match p.2.agent with | .frag g' _ => g' == g | .ks _ => false) &&
      (match p.2.dst with | some (.vec, d) => d ≤ v && v < d + p.2.regs | _ => false)).map (·.2)

/-- The values that a read of lane j of register v may return: the current one, those since the split when the lane
belongs to another fragment (R19), and those on their way (R142). `hist` keeps the values since the group first became
split, and a lane that has exited reads like one of another fragment (DEDUCED, log 41: R19 does not say which split, nor
whose lane it is). -/
def laneValues (G : Group) (own : Mask) (pend : List Req) (v j : Nat) : List W32 :=
  let now := G.vlane v j
  let olds := if own.getLsbD j || !G.split then [] else (G.hist.getD v []).map fun r => r.getD j 0#32
  now :: ((olds ++ pend.filterMap fun r => r.newLane v j).filter (· != now)).eraseDups

/-- One value for every lane in turn. -/
def pickLanes (s : State) (vals : Nat → List W32) : List Nat → List W32 × State
  | [] => ([], s)
  | l :: r =>
    let (x, s) := pickFrom s (vals l) 0#32
    let (xs, s) := pickLanes s vals r
    (x :: xs, s)

/-- A vector register as a fragment reads it in every lane, permuted (R19). -/
def readReg (s : State) (g e v : Nat) (perm : BitVec 4) (aux : BitVec 6) : List W32 × State :=
  match s.grps.get? g with
  | none => (List.replicate 64 0#32, s)
  | some G =>
    let own := s.maskOfAgent (.frag g e)
    let pend := pendingOn s g v
    if pend.isEmpty && (!G.split || (G.hist.get? v).isNone) then
      ((List.range 64).map fun l => G.vlane v (permLane perm aux l), s)
    else pickLanes s (fun l => laneValues G own pend v (permLane perm aux l)) (List.range 64)

/-- A source as every lane reads it (R74). -/
def readSrc (s : State) (a : Agent) (x : Src) (wide : Bool) (aux : BitVec 6) : List W64 × State :=
  match a, x.cls with
  | .frag g e, .vec =>
    if wide then
      let (lo, s) := readReg s g e x.idx.toNat x.perm aux
      let (hi, s) := readReg s g e (x.idx.toNat + 1) x.perm aux
      (List.zipWith pairOf lo hi, s)
    else
      let (lo, s) := readReg s g e x.idx.toNat x.perm aux
      (lo.map (·.setWidth 64), s)
  | _, .spec => ((List.range 64).map (special s a x.idx.toNat), s)
  | _, _ => (List.replicate 64 (readScl s a x wide), s)

/-- A source operand: field, 64-bit or not, and its last-read bit (R15). -/
structure Opnd where
  src : Src
  wide : Bool
  lr : Bool

/-- The sources of an instruction, in order. -/
def readSrcs (s : State) (a : Agent) (aux : BitVec 6) : List Opnd → List (List W64) × State
  | [] => ([], s)
  | x :: r =>
    let (v, s) := readSrc s a x.src x.wide aux
    let (vs, s) := readSrcs s a aux r
    (v :: vs, s)

/-- The vector registers that a source names. -/
def Opnd.regs (x : Opnd) : List Nat :=
  if x.src.cls = .vec then (if x.wide then [x.src.idx.toNat, x.src.idx.toNat + 1] else [x.src.idx.toNat]) else []
/-- The vector registers that last-read bits release (R15). -/
def lastReadRegs (xs : List Opnd) : List Nat := (xs.filter (·.lr)).flatMap Opnd.regs

/-- An immediate as source B of a type (R22); an f32 value is widened exactly, so a signalling NaN stays one. -/
def immOf (t : Ty) (imm : W32) : W64 :=
  match t with
  | .s64 => imm.signExtend 64
  | .f64 =>
    if imm.toNat / 2 ^ 23 % 2 ^ 8 = 255 then
      BitVec.ofNat 64 (imm.toNat / 2 ^ 31 * 2 ^ 63 + 0x7FF * 2 ^ 52 + imm.toNat % 2 ^ 23 * 2 ^ 29)
    else BitVec.ofNat 64 (convert (.flt .f32) (.flt .f64) {} imm.toNat).1
  | _ => imm.setWidth 64

/-- The same value in every lane. -/
def allLanes (x : W64) : List W64 := List.replicate 64 x

/-! Destinations. -/
/-- The registers of a vector destination. -/
def dstRegs (d : Nat) (n : Nat) : List Nat := (List.range n).map (d + ·)

namespace State
/-- A younger write of a register ends what an outstanding load or atomic would still write there (R142). -/
def youngerWrite (s : State) (g v : Nat) (lanes : Mask) : State :=
  if (pendingOn s g v).isEmpty then s
  else
    { s with reqs := s.reqs.mapVal fun _ r =>
        if (match r.agent with | .frag g' _ => g' == g | .ks _ => false) &&
            (match r.dst with | some (.vec, d) => d ≤ v && v < d + r.regs | _ => false) then
          { r with overwritten := (v, lanes) :: r.overwritten }
        else r }

/-- Write lanes of a vector register of a group. -/
def writeReg (s : State) (g v : Nat) (xs : List (Nat × W32)) : State :=
  let s := s.youngerWrite g v (maskOf (xs.map (·.1)))
  s.modGrp g fun G => G.vwrite v fun l => (xs.find? fun p => p.1 == l).map (·.2)

/-- Write lanes of a vector register, or of an even pair. -/
def writeLanes (s : State) (a : Agent) (d : Nat) (wide : Bool) (xs : List (Nat × W64)) : State :=
  match a with
  | .ks _ => s
  | .frag g _ =>
    let s := s.writeReg g d (xs.map fun p => (p.1, lo32 p.2))
    if wide then s.writeReg g (d + 1) (xs.map fun p => (p.1, hi32 p.2)) else s

/-- A younger write of scalar registers ends what an outstanding load, or the completion value of a command not accepted
yet, would still write there (R70, R142, R180). -/
def cutScl (s : State) (a : Agent) (rs : List Nat) : State :=
  let s := if s.pends.any fun p => sameRegs a p.2.agent && p.2.dst.any fun q => rs.contains q.1 then
      { s with pends := s.pends.mapVal fun _ p =>
          if sameRegs a p.agent then { p with dst := p.dst.filter fun q => !rs.contains q.1 } else p }
    else s
  if s.reqs.any fun p => sameRegs a p.2.agent && (match p.2.dst with | some (.scl, _) => true | _ => false) then
    { s with reqs := s.reqs.mapVal fun _ r =>
        match r.dst with
        | some (.scl, e) =>
          if sameRegs a r.agent then
            { r with overwritten :=
                (rs.filter fun x => e ≤ x && x < e + r.regs).map (fun x => (x, BitVec.allOnes 64)) ++ r.overwritten }
          else r
        | _ => r }
  else s

/-- Write a scalar register or pair of an agent. -/
def writeScl (s : State) (a : Agent) (d : Nat) (wide : Bool) (x : W64) : State :=
  (if wide then s.sset64 a d x else s.sset a d (lo32 x)).cutScl a (if wide then [d, d + 1] else [d])

/-- Write lanes of a predicate (R82). -/
def writePred (s : State) (a : Agent) (p : Nat) (lanes val : Mask) : State :=
  match a with
  | .frag g _ => s.modGrp g (·.pwrite p lanes val)
  | .ks k => if p = 15 then s else s.modKs k fun c => { c with preds := setAt false c.preds p (val.getLsbD 0) }

/-- Run an instruction that writes vector registers: the unmapped ones are mapped at issue, and when neither the
reservation nor the pool holds enough, the group parks with the instruction not issued (R265, R266). -/
def withRegs (s : State) (a : Agent) (regs : List Nat) (k : State → State) : State :=
  match a with
  | .ks _ => k s
  | .frag g _ =>
    match s.grps.get? g with
    | none => s
    | some G =>
      let need := (regs.filter fun v => (G.reg.get? v).isNone).length
      if need = 0 || s.canMap g need then k s else s.startPark g 1 []

/-- The registers that an outstanding result will reach are mapped when its instruction issues (R265). -/
def mapRegs (s : State) (a : Agent) (regs : List Nat) : State :=
  match a with
  | .frag g _ => s.modGrp g fun G => regs.foldl Group.mapReg G
  | .ks _ => s

/-- Retire an instruction that read vector sources and wrote registers: last-read bits act, results are interlocked. -/
def finish (s : State) (a : Agent) (h : Hdr) (srcs : List Opnd) (written : List Nat) (busy : List (Nat × Nat))
    (lat : Nat) : State :=
  ((s.lastReads a (lastReadRegs srcs) written).addBusy a busy lat).retire a h
end State

/-- A per-lane instruction with a vector destination (R14, R73): the participating lanes' results from the sources as
they were before any write. With no lane taking part it only retires. -/
def vecOp (s : State) (a : Agent) (h : Hdr) (d : Nat) (wideD : Bool) (srcs : List Opnd) (aux : BitVec 6) (lat : Nat)
    (f : Mask → List (List W64) → List (Nat × W64)) : State :=
  let part := s.guardMask a h
  let regs := dstRegs d (if wideD then 2 else 1)
  if part = 0#64 then s.retire a h
  else s.withRegs a regs fun s =>
    let (vs, s) := readSrcs s a aux srcs
    (s.writeLanes a d wideD (f part vs)).finish a h srcs regs (regs.map fun v => (0, v)) lat

/-- A per-lane instruction with a predicate destination (R82). -/
def predOp (s : State) (a : Agent) (h : Hdr) (p : Nat) (srcs : List Opnd) (aux : BitVec 6) (lat : Nat)
    (f : Mask → List (List W64) → Mask) : State :=
  let part := s.guardMask a h
  if part = 0#64 then s.retire a h
  else
    let (vs, s) := readSrcs s a aux srcs
    (s.writePred a p part (f part vs)).finish a h srcs [] [(2, p)] lat

/-- An instruction that acts once and writes a scalar register or pair (R14, R65). -/
def sclOp (s : State) (a : Agent) (h : Hdr) (d : Nat) (wideD : Bool) (lat : Nat) (x : State → W64) : State :=
  if s.guardOnce a h then
    ((s.writeScl a d wideD (x s)).addBusy a (if wideD then [(1, d), (1, d + 1)] else [(1, d)]) lat).retire a h
  else s.retire a h

/-- Lane k of the n-th source. -/
def srcLane (vs : List (List W64)) (n l : Nat) : W64 := lane (vs.getD n []) l

/-- Writes of a lane function over the participating lanes. -/
def eachLane (part : Mask) (f : Nat → W64) : List (Nat × W64) := (lanesOf part).map fun l => (l, f l)

/-- The mask of the lanes that pass a test, among the participating ones. -/
def lanesWhere (part : Mask) (f : Nat → Bool) : Mask := maskOf ((lanesOf part).filter f)

/-- Whether a type is 64 bits wide. -/
def wideTy (t : Ty) : Bool := t.is64

end Sys2Proof.Machine
end

