-- ==== Sys2Proof/Machine/Access.lean ====
section
/-! DEFINITION. Memory instructions from issue to request (R149-R156): addresses, the address phase, the reply phase,
fault records by page, and the request that the homes serve. -/
namespace Sys2Proof.Machine

/-- The spaces of an access (R23, R149). -/
inductive Space | global | scratch | window
  deriving DecidableEq, Repr

/-- The stronger policy (R152). -/
def strongest (a b : Policy) : Policy :=
  if a = .nostore || b = .nostore then .nostore else if a = .stream || b = .stream then .stream else .dflt

/-- The address of a lane as an exact number (R149). -/
def exactAddr (base : Nat) (idx : Int) (off : BitVec 20) : Int := (base : Int) + idx + off.toInt
/-- A global address: modulo 2^64. -/
def wrapAddr (x : Int) : W64 := BitVec.ofInt 64 x

/-- A lane's fault of the address or reply phase (R154): cause, CODE, the page it names and the address; or what the lane
waits for before it can be checked. -/
structure LaneFault where
  lane : Nat
  cause : Nat
  code : Nat
  page : Nat
  addr : W64
  held : Option Wait := none
  deriving DecidableEq, Repr

/-- A fault at an address in a page of a size. -/
def laneFault (l : Nat) (f : XFault) (va : W64) : LaneFault :=
  { lane := l, cause := f.cause, code := f.code, page := va.toNat / f.psize * f.psize, addr := va, held := f.held }

/-- One fault for each lane: its lowest cause, at the first of its bytes that takes it (R154; DEDUCED, log 15, for the
chunk of a v.sld lane, whose bytes may lie in two pages). -/
def laneLowest (fs : List LaneFault) : List LaneFault :=
  fs.zipIdx.filterMap fun x =>
    if fs.zipIdx.any fun y => y.1.lane == x.1.lane && (y.1.cause < x.1.cause || (y.1.cause == x.1.cause && y.2 < x.2)) then none
    else some x.1

/-- Distinct pages in the order of their lowest lane. -/
def pagesOf (fs : List LaneFault) : List Nat := (fs.map (·.page)).eraseDups

/-- The faults of one page that its record carries: those of the lowest cause. -/
def pageFaults (fs : List LaneFault) (page : Nat) : List LaneFault :=
  let ps := fs.filter (·.page == page)
  let low := ps.foldl (fun m f => min m f.cause) 64
  ps.filter (·.cause == low)

/-- Insert a record by its lowest lane. -/
def insertRec (r : Nat × FaultRec) : List (Nat × FaultRec) → List (Nat × FaultRec)
  | [] => [r]
  | q :: rest => if r.1 < q.1 then r :: q :: rest else q :: insertRec r rest

/-- The record set of an instruction whose lanes fault (R154): one record per page, in order of lowest lane. A single
access names the lanes given. -/
def faultSet (s : State) (a : Agent) (acc : Acc) (single : Option Mask) (all : List LaneFault) : List FaultRec :=
  let fs := laneLowest all
  let recs := (pagesOf fs).filterMap fun pg =>
    match pageFaults fs pg with
    | [] => none
    | f :: rest =>
      some (f.lane, s.mkRec a f.cause (BitVec.ofNat 32 f.code) f.addr
        (single.getD (maskOf ((f :: rest).map (·.lane)))) acc.code)
  (recs.foldl (fun acc r => insertRec r acc) []).map (·.2)

namespace State
/-- Take the faults of an instruction's lanes; while one of them waits for a holder or a bank, the fragment waits. -/
def raiseLanes (s : State) (a : Agent) (acc : Acc) (single : Option Mask) (fs : List LaneFault) : State :=
  match fs.findSome? (·.held) with
  | some w => s.wait a w
  | none => s.raise a (faultSet s a acc single fs)
/-- Take one fault that names an address. -/
def raiseAt (s : State) (a : Agent) (acc : Acc) (f : XFault) (va : W64) : State :=
  s.raiseLanes a acc (some (s.maskOfAgent a)) [laneFault 0 f va]

/-- A core watch that an access meets (R242). -/
def coreWatch (s : State) (a : Agent) (va n : Nat) (acc : Acc) : Bool :=
  match a with
  | .frag _ _ =>
    (s.core (s.coreOf a)).watch.any fun p =>
      let w := p.2
      w.asid == s.asidOf a && w.va.toNat < va + n && va < w.va.toNat + w.len &&
        ((acc.reads && w.r) || (acc.writes && w.w))
  | .ks _ => false

end State

/-- Where an access leads, the size of the page that its translation names, and the chunk of mapped scratch that its home
must fill first: mapping, chunk and where it comes from (R174). -/
structure Target where
  loc : Place
  psize : Nat
  fill : Option (Nat × Nat × Nat × Xlat)

namespace State
/-- A core watch joins the causes of an access: it applies beside any but a lower one (R154, R242). -/
def watchCause (watched : Bool) (f : XFault) : XFault :=
  if watched && 0x0F < f.cause && f.held.isNone then { f with cause := 0x0F, code := 0 } else f

/-- Whether the bank that holds a byte of a task's scratch is between two roles (R314). -/
def switchingAt (s : State) (T : Task) (off : Nat) : Bool :=
  match scratchAt T off with
  | some (b, _) => (match ((s.core T.core).bank b).role with
    | .switching _ => true
    | _ => false)
  | none => false

/-- The address phase of a global access of n bytes (R149, R150, R154, R174). -/
def checkTarget (s : State) (a : Agent) (va : W64) (n : Nat) (acc : Acc) (pol : Policy) : State × Except XFault Target :=
  let watched := s.coreWatch a va.toNat n acc
  let asid := s.asidOf a
  let sup := s.supOf a
  let bad := va.toNat % n != 0
  let err := fun c size => Except.error { cause := c, code := 0, psize := size }
  let mapped : Option (Nat × Nat × SMap) := match a, s.taskIdOf a with
    | .frag _ _, some t => ((s.tasks.get? t).bind fun T => mapAt T va.toNat).map fun m => (t, m.1, m.2)
    | _, _ => none
  match mapped with
  | some (t, i, m) =>
    let o := va.toNat - m.va.toNat
    let at' := Place.bank t (m.off + o) true
    if bad then (s, err 4 4096)
    else if (s.tasks.get? t).any fun T => s.switchingAt T (m.off + o) then (s, .error (.waits (.switching t)))
    else
      match s.fillPlan t i (o / 128) asid sup acc with
      | (s, .error f) => (s, .error (watchCause watched f))
      | (s, .ok x) =>
        let size := (x.map (·.size)).getD 4096
        if watched then (s, err 0x0F size)
        else (s, .ok { loc := at', psize := size, fill := x.map fun y => (t, i, o / 128, y) })
  | none =>
    match s.translate asid sup va acc with
    | (s, .error f) => if bad then (s, err 4 f.psize) else (s, .error (watchCause watched f))
    | (s, .ok x) =>
      if bad then (s, err 4 x.size)
      else if watched then (s, err 0x0F x.size)
      else (s, .ok { loc := .mem x.pa x.grain (strongest pol x.pol), psize := x.size, fill := none })

/-- The homes that a target's fill must wait for, or the cause with which its home refuses it (R154, R174). -/
def fillWaits (s : State) (who : W32) (t : Target) : Option Nat :=
  t.fill.bind fun f => if s.dirConflict who false f.2.2.2.pa 128 then some f.2.2.2.pa else none
def fillError (s : State) (t : Target) : Option Nat := t.fill.bind fun f => s.homeError f.2.2.2.pa 128 .read
/-- The chunk that a target needs is filled. -/
def fillTarget (s : State) (who : W32) (t : Target) : State :=
  match t.fill with
  | some (k, i, c, x) => s.fillFrom k i c x who
  | none => s

/-- Both phases of an access that one lane makes, as far as a mapped chunk is concerned. -/
def checkOnce (s : State) (a : Agent) (va : W64) (n : Nat) (acc : Acc) (pol : Policy) : State × Except XFault Target :=
  match s.checkTarget a va n acc pol with
  | (s, .error f) => (s, .error f)
  | (s, .ok t) =>
    match s.fillWaits (s.agentId a) t, s.fillError t with
    | some pa, _ => (s.recallFor (s.agentId a) false pa 128, .error (.waits (.home pa 128 false)))
    | none, some c => (s, .error { cause := c, code := 0, psize := t.psize })
    | none, none => (s.fillTarget (s.agentId a) t, .ok t)
/-- The place that such an access leads to. -/
def checkGlobal (s : State) (a : Agent) (va : W64) (n : Nat) (acc : Acc) (pol : Policy) : State × Except XFault Place :=
  match s.checkOnce a va n acc pol with
  | (s, r) => (s, r.map Target.loc)

/-- A sharing group of a cluster: its members as slot and task, and the next slot (R173). -/
def shareOf (s : State) (clu k : Nat) : List (Nat × Nat) × Nat := (s.clu clu).shares.getD k ([], 0)

/-- The address phase of a scratch or window access at an exact offset (R149-R151). An access that meets a bank between two
roles waits for its switch point (R314, R319; DEDUCED, log 24). -/
def checkLocal (s : State) (a : Agent) (sp : Space) (x : Int) (n : Nat) : Except XFault Place :=
  let err := fun c => Except.error { cause := c, code := 0, psize := 4096 }
  match s.taskIdOf a, s.taskOf a with
  | some t, some T =>
    if x % n != 0 then err 4
    else if x < 0 then err 0x0C
    else
      let o := x.toNat
      match sp with
      | .window =>
        if 2 ^ 23 ≤ o then err 0x0C
        else
          match T.share with
          | none => err 0x0D
          | some (k, _) =>
            match (s.shareOf (s.cluOf a) k).1.find? fun p => p.1 == o / 2 ^ 19 with
            | none => err 0x0D
            | some (_, m) =>
              match s.tasks.get? m with
              | none => err 0x0D
              | some M =>
                if M.st != .resident then err 0x0D
                else if M.scratch < o % 2 ^ 19 + n then err 0x0C
                else if s.switchingAt M (o % 2 ^ 19) then .error (.waits (.switching m))
                else .ok (.bank m (o % 2 ^ 19) false)
      | _ =>
        if T.scratch < o + n then err 0x0C
        else if s.switchingAt T o then .error (.waits (.switching t))
        else .ok (.bank t o false)
  | _, _ => err 0x0C
end State

/-- One lane's access before the checks: lane, byte offset in its access, exact address, operand and compare bytes. -/
structure LaneAddr where
  lane : Nat
  off : Nat
  addr : Int
  data : List Byte
  cmp : List Byte

/-- What a memory instruction asks for (R156, R159, R163): the lanes that take part, whether one access serves them all,
the lane mask of the records of such an access, whether it counts in LD or ST, and whether
the filter of the measured lease sees it (R269). -/
structure MemSpec where
  op : ReqOp
  space : Space
  size : Nat
  order : Order
  scope : Scope
  pol : Policy
  lanes : List LaneAddr
  dst : Option (Cls × Nat)
  regs : Nat
  part : Mask
  one : Bool
  single : Option Mask
  counted : Bool
  place : Nat := 2
  noted : Bool := true

/-- What an operation needs of the leaf and of its home. -/
def ReqOp.acc : ReqOp → Acc
  | .load | .watch _ _ => .read
  | .store | .det _ | .atom _ _ false => .write
  | _ => .both
def ReqOp.want : ReqOp → Want
  | .load | .watch _ _ => .read
  | .store => .write
  | _ => .atomic
/-- Whether an instruction counts in LD; the others count in ST (R141). -/
def ReqOp.inLd : ReqOp → Bool
  | .load => true
  | .atom _ _ ret => ret
  | .xlat _ | .watch _ _ => true
  | _ => false
def ReqOp.writes : ReqOp → Bool
  | .store | .atom _ _ _ | .det _ => true
  | _ => false
def acquires : Order → Bool
  | .acq | .acqrel => true
  | _ => false
def releases : Order → Bool
  | .rel | .acqrel => true
  | _ => false
/-- Scopes whose releases and acquires move logical time (R298). -/
def wideScope : Scope → Bool
  | .clu | .pkg | .sys => true
  | _ => false

/-- A window of another device or of a host (R162, R166). -/
def isRemote (pa : Nat) : Bool :=
  match regionOf pa with
  | .peer _ | .host => true
  | _ => false
def Place.remote : Place → Bool
  | .mem pa _ _ => isRemote pa
  | _ => false

/-- Every part of a request has been served. -/
def Req.served (r : Req) : Bool := r.lanes.all fun p => p.got.isSome
/-- Every part that a release narrower than .sys waits for has been served: it orders nothing towards writes to homes off
the package (R307). -/
def Req.performed (r : Req) : Bool := r.lanes.all fun p => p.got.isSome || (r.op.writes && p.loc.remote)

namespace State
/-- Requests of an agent's fragment in program order: those whose lanes overlap it (R288). -/
def reqsOf (s : State) (a : Agent) : List (Nat × Req) :=
  let m := s.maskOfAgent a
  s.reqs.filter fun p =>
    match a, p.2.agent with
    | .frag g _, .frag g' _ => g == g' && p.2.fmask &&& m != 0#64
    | .ks k, .ks k' => k == k'
    | _, _ => false

/-- An older acquire of the agent whose value has not returned: later accesses are not performed (R153). -/
def acquirePending (s : State) (a : Agent) : Option Nat :=
  ((s.reqsOf a).find? fun p => acquires p.2.order && p.2.op.inLd).map (·.1)
/-- Whether every earlier access of an agent has been performed (R153). -/
def quiet (s : State) (a : Agent) : Bool := (s.reqsOf a).all fun p => Req.performed p.2
/-- Release requests of an agent at .clu or wider that are not performed (R168, R302). -/
def releasesOf (s : State) (a : Agent) : List Nat :=
  ((s.reqsOf a).filter fun p => releases p.2.order && wideScope p.2.scope).map (·.1)

/-- The oldest load or returning atomic of an agent whose value has not arrived. -/
def olderLoad (s : State) (a : Agent) : Option Nat :=
  ((s.reqsOf a).find? fun p => p.2.op.inLd && !(Req.served p.2)).map (·.1)
/-- The release timestamp of the lanes of an agent (R298); a Keystone context has no core time, so that what it has acquired
enters here (R290, R303). -/
def relTs (s : State) (a : Agent) (m : Mask) : Nat :=
  match a with
  | .frag g _ => ((s.grps.get? g).map fun G => (lanesOf m).foldl (fun t l => max t (G.laneVis.getD l 0)) 0).getD 0
  | .ks k => max (s.ksCtx k).vis (s.ksCtx k).acqSeen
/-- The largest write time of an agent's earlier reads (R298). -/
def acqTs (s : State) (a : Agent) (m : Mask) : Nat :=
  match a with
  | .frag g _ => ((s.grps.get? g).map fun G => (lanesOf m).foldl (fun t l => max t (G.laneSeen.getD l 0)) 0).getD 0
  | .ks k => (s.ksCtx k).acqSeen

/-- A fresh number for a request, a command or a watch. -/
def takeId (s : State) : Nat × State := (s.nextId, { s with nextId := s.nextId + 1 })

def ldOf (s : State) (a : Agent) : Nat :=
  match a with
  | .frag g _ => ((s.grps.get? g).map (·.ld)).getD 0
  | .ks k => (s.ksCtx k).ld
def stcOf (s : State) (a : Agent) : Nat :=
  match a with
  | .frag g _ => ((s.grps.get? g).map (·.stc)).getD 0
  | .ks k => (s.ksCtx k).stc
def ecOf (s : State) (a : Agent) : Nat :=
  match a with
  | .frag g _ => ((s.grps.get? g).map (·.ec)).getD 0
  | .ks k => (s.ksCtx k).ec
def trOf (s : State) (a : Agent) : Nat :=
  match a with
  | .frag g _ => ((s.grps.get? g).map (·.tr)).getD 0
  | .ks _ => 0
def modLd (s : State) (a : Agent) (f : Nat → Nat) : State :=
  match a with
  | .frag g _ => s.modGrp g fun G => { G with ld := f G.ld }
  | .ks k => s.modKs k fun c => { c with ld := f c.ld }
def modStc (s : State) (a : Agent) (f : Nat → Nat) : State :=
  match a with
  | .frag g _ => s.modGrp g fun G => { G with stc := f G.stc }
  | .ks k => s.modKs k fun c => { c with stc := f c.stc }
def modEc (s : State) (a : Agent) (f : Nat → Nat) : State :=
  match a with
  | .frag g _ => s.modGrp g fun G => { G with ec := f G.ec }
  | .ks k => s.modKs k fun c => { c with ec := f c.ec }

/-- Whether an agent's group has writes to remote homes not yet acknowledged (R307). -/
def offAcksOf (s : State) (a : Agent) : Nat :=
  match a with
  | .frag g _ => ((s.grps.get? g).map (·.offAcks)).getD 0
  | .ks _ => 0
def lostOf (s : State) (a : Agent) : Option W64 :=
  match a with
  | .frag g _ => (s.grps.get? g).bind (·.lost)
  | .ks _ => none

/-- A release at .sys waits for the outstanding acknowledgements; over a lost write it raises 0x0B and has no effect
(R153, R307, R414). -/
def sysRelease (s : State) (a : Agent) (k : State → State) : State :=
  if s.offAcksOf a != 0 || !((s.reqsOf a).all fun p => Req.served p.2) then s.wait a .release
  else
    match a, s.lostOf a with
    | .frag g _, some va =>
      (s.modGrp g fun G => { G with lost := none }).raise a [s.mkRec a 0x0B 0#32 va (s.maskOfAgent a) 2]
    | _, _ => k s

/-- The effect of a release on its core's time (R298). -/
def releaseCt (s : State) (a : Agent) (sc : Scope) : State :=
  match a with
  | .frag _ _ => if wideScope sc then s.raiseCt (s.coreOf a) (s.relTs a (s.maskOfAgent a)) else s
  | .ks _ => s
/-- A release by an instruction that is not a store: it waits until every earlier access is performed (R153, R168). -/
def releaseThen (s : State) (a : Agent) (sc : Scope) (k : State → State) : State :=
  if sc = .sys then s.sysRelease a fun s => k (s.releaseCt a sc)
  else if s.quiet a then k (s.releaseCt a sc) else s.wait a .release
/-- The effect of an acquire that read a write time on its core's time (R298). -/
def acquireCt (s : State) (a : Agent) (o : Order) (sc : Scope) (wts : Nat) : State :=
  match a with
  | .frag _ _ => if acquires o && wideScope sc then s.raiseCt (s.coreOf a) wts else s
  | .ks k => s.modKs k fun c => { c with acqSeen := max c.acqSeen wts }

/-- A load part that L1 serves at issue (R296): default policy, no older access of the fragment to the bytes under way. -/
def l1Capture (s : State) (a : Agent) (op : ReqOp) (p : LaneReq) : LaneReq × Nat :=
  match a, op, p.loc with
  | .frag _ _, .load, .mem pa _ .dflt =>
    let busy := (s.reqsOf a).any fun q => q.2.lanes.any fun o =>
      o.got.isNone && (match o.loc with | .mem x _ _ => x < pa + p.size && pa < x + o.size | _ => false)
    if isRemote pa || busy then (p, 0)
    else
      match s.l1Read (s.coreOf a) pa p.size with
      | some (bs, wts) => ({ p with got := some bs }, wts)
      | none => (p, 0)
  | _, _, _ => (p, 0)
end State

/-- The single-copy-atomic units of an access (R150): 8 bytes each when it is wider. -/
def unitsOf (lane off : Nat) (loc : Place) (size : Nat) (va : W64) (data cmp : List Byte) : List LaneReq :=
  let u := if size ≤ 8 then size else 8
  (List.range (size / u)).map fun k =>
    { lane := lane, off := off + u * k, size := u, va := va + BitVec.ofNat 64 (u * k), data := (data.drop (u * k)).take u,
      cmp := (cmp.drop (u * k)).take u, sent := false, got := none,
      loc := match loc with
        | .mem pa g pol => .mem (pa + u * k) g pol
        | .bank t o mp => .bank t (o + u * k) mp
        | .none => .none }

/-- A unit that has passed the address phase, and the target it belongs to. -/
structure Checked extends LaneReq where
  target : Target

namespace State
/-- The address phase of the lanes in turn: the units of those that pass and the faults of the others. -/
def addressPhase (s : State) (a : Agent) (m : MemSpec) : List LaneAddr → State × List Checked × List LaneFault
  | [] => (s, [], [])
  | x :: rest =>
    let va := wrapAddr x.addr
    let (s, r) := match m.space with
      | .global => s.checkTarget a va m.size m.op.acc m.pol
      | sp => (s, (s.checkLocal a sp x.addr m.size).map fun loc => { loc := loc, psize := 4096, fill := none })
    let (s, us, fs) := addressPhase s a m rest
    match r with
    | .ok t => (s, (unitsOf x.lane x.off t.loc m.size va x.data x.cmp).map (Checked.mk · t) ++ us, fs)
    | .error f => (s, us, laneFault x.lane f va :: fs)

/-- The homes that units must wait for (R402, R406), each with its length and whether for a write: those of the chunks to
fill and those of the units that L1 does not serve. -/
def waitsOf (s : State) (a : Agent) (m : MemSpec) (ps : List Checked) : List (Nat × Nat × Bool) :=
  ps.filterMap fun p =>
    match s.fillWaits (s.agentId a) p.target, p.loc with
    | some pa, _ => some (pa, 128, false)
    | none, .mem pa _ _ =>
      if (s.l1Capture a m.op p.toLaneReq).1.got.isNone && s.dirConflict (s.agentId a) m.op.writes pa p.size then
        some (pa, p.size, m.op.writes)
      else none
    | none, _ => none

/-- The reply phase of a unit (R154): the cause with which its home, or the home of the chunk it fills, refuses. Loads that
hit in L1 and remote homes are not asked here (R414). -/
def replyError (s : State) (a : Agent) (op : ReqOp) (p : Checked) : Option Nat :=
  match s.fillError p.target, p.loc with
  | some c, _ => some c
  | none, .mem pa _ _ =>
    if (s.l1Capture a op p.toLaneReq).1.got.isSome || isRemote pa then none else s.homeError pa p.size op.want
  | none, _ => none
/-- The reply-phase faults of units, each on the page that its translation names. -/
def replyFaults (s : State) (a : Agent) (op : ReqOp) (ps : List Checked) : List LaneFault :=
  ps.filterMap fun p => (s.replyError a op p).map fun c => laneFault p.lane { cause := c, code := 0, psize := p.target.psize } p.va

/-- Recall the holders that homes wait for, and wait for the first. -/
def awaitHomes (s : State) (a : Agent) (q : Nat × Nat × Bool) (ws : List (Nat × Nat × Bool)) : State :=
  (ws.foldl (fun (s : State) x => s.recallFor (s.agentId a) x.2.2 x.1 x.2.1) s).wait a (.home q.1 q.2.1 q.2.2)

/-- The measured lease's filter takes the lines of a group's global default-policy accesses (R269). -/
def noteLines (s : State) (a : Agent) (locs : List Place) : State :=
  match a with
  | .frag g _ =>
    let ls := locs.filterMap fun l => match l with
      | .mem pa _ .dflt => if pa / 2 ^ 7 % 16 = 0 then some (pa / 128) else none
      | _ => none
    s.modGrp g fun G => { G with filter := (NatSet.addAll G.filter ls).take 256, memIssued := G.memIssued + 1 }
  | .ks _ => s

/-- A memory instruction's request enters the machine; with a remote home that must answer, its fragment waits (R413). -/
def addReq (s : State) (a : Agent) (m : MemSpec) (ps : List LaneReq) (seen : Nat) (blocking : Bool) : Nat × State :=
  let (id, s) := s.takeId
  let r : Req := { agent := a, who := s.agentId a, sup := s.supOf a, fmask := s.maskOfAgent a, core := s.coreOf a, pc := s.pcOf a, op := m.op, lanes := ps,
                   dst := m.dst, regs := m.regs, part := m.part, one := m.one, order := m.order, scope := m.scope, place := m.place, vis := 0,
                   seen := seen, blocking := blocking, overwritten := [], born := s.clk }
  let s := { s with reqs := s.reqs.set id r }
  let s := if m.counted then (if m.op.inLd then s.modLd a (· + 1) else s.modStc a (· + 1)) else s
  let off := (ps.filter fun p => p.loc.remote).length
  let s := match a with
    | .frag g _ => if m.op.writes && off != 0 then s.modGrp g fun G => { G with offAcks := G.offAcks + off } else s
    | .ks _ => s
  (id, s)

/-- A write time that the lanes of a fragment, or a context, have read: what a later acquire takes (R298). -/
def noteSeen (s : State) (a : Agent) (m : Mask) (t : Nat) : State :=
  match a with
  | .ks k => s.modKs k fun c => { c with acqSeen := max c.acqSeen t }
  | .frag g _ =>
    let new := fun (G : Group) l => if m.getLsbD l then max (G.laneSeen.getD l 0) t else G.laneSeen.getD l 0
    s.modGrp g fun G => { G with laneSeen := (List.range 64).map (new G) }
/-- A visibility time of a write of those lanes, or of a context: what a later release passes on (R298). -/
def noteVis (s : State) (a : Agent) (m : Mask) (t : Nat) : State :=
  match a with
  | .ks k => s.modKs k fun c => { c with vis := max c.vis t }
  | .frag g _ =>
    let new := fun (G : Group) l => if m.getLsbD l then max (G.laneVis.getD l 0) t else G.laneVis.getD l 0
    s.modGrp g fun G => { G with laneVis := (List.range 64).map (new G) }
/-- A fragment that waits for the answer of a request goes on. -/
def resume (s : State) (a : Agent) (id : Nat) : State :=
  match a with
  | .ks _ => s
  | .frag g e =>
    match s.stOf (.frag g e) with
    | .waiting (.request i) =>
      if i = id then s.modGrp g fun G => ({ G with frags := G.frags.update e fun F =>
        { F with pc := F.pc + 12#64, st := .ready, readySince := s.clk } }).fuse else s
    | .trappedOut (some (.request i)) =>
      if i = id then s.modFrag g e fun F => { F with pc := F.pc + 12#64, st := .trappedOut none } else s
    | _ => s

/-- A request whose every unit is served: its fragment's visibility and read times, a release's effect on ct (R298), and
the fragment that waits for it goes on. -/
def settleReq (s : State) (id : Nat) : State :=
  match s.reqs.get? id with
  | none => s
  | some r =>
    if !(Req.served r) then s
    else
      let s := match r.agent with
        | .frag _ _ => if releases r.order && wideScope r.scope then s.raiseCt r.core (s.relTs r.agent r.fmask) else s
        | .ks _ => s
      let s := (s.noteVis r.agent r.fmask r.vis).noteSeen r.agent r.fmask r.seen
      if r.blocking then s.resume r.agent id else s

/-- A memory instruction whose lanes have passed the address phase: the homes that must wait, the reply phase, and then
its fills and its request; it retires, or waits for a remote answer. -/
def memAccept (s : State) (a : Agent) (h : Hdr) (m : MemSpec) (srcs : List Opnd) (ps : List Checked) : State :=
  match s.waitsOf a m ps, s.replyFaults a m.op ps with
  | q :: ws, _ => s.awaitHomes a q (q :: ws)
  | [], f :: fs => s.raiseLanes a m.op.acc m.single (f :: fs)
  | [], [] =>
    let s := ps.foldl (fun (s : State) p => s.fillTarget (s.agentId a) p.target) s
    let cap := ps.map fun p => s.l1Capture a m.op p.toLaneReq
    let us := cap.map (·.1)
    let seen := cap.foldl (fun t p => max t p.2) 0
    let s := us.foldl (fun (s : State) p => match p.loc, p.got with
      | .mem pa _ _, some _ => s.l1Touch (s.coreOf a) pa
      | _, _ => s) s
    let s := match a, m.dst with
      | .frag g _, some (.vec, d) =>
        if m.op.inLd then
          ((dstRegs d m.regs).foldl (fun (s : State) v => s.youngerWrite g v m.part) s).mapRegs a (dstRegs d m.regs)
        else s
      | _, some (.scl, d) => s.cutScl a (dstRegs d m.regs)
      | _, _ => s
    let s := s.noteLines a (if m.space = .global && m.noted then us.map (·.loc) else [])
    let blocking := m.op.inLd && us.any fun p => p.loc.remote
    let (id, s) := s.addReq a m us seen blocking
    let s := s.lastReads a (lastReadRegs srcs) (match m.dst with | some (.vec, d) => dstRegs d m.regs | _ => [])
    if blocking then s.wait a (.request id) else (s.settleReq id).retire a h

/-- A memory instruction of an agent (R153-R156): counts, ordering, destination registers, then both phases. -/
def memIssue (s : State) (a : Agent) (h : Hdr) (m : MemSpec) (srcs : List Opnd) : State :=
  if m.part = 0#64 then s.retire a h
  else
    match s.stOf a with
    | .waiting (.request id) =>
      if ((s.reqs.get? id).map (·.blocking)) = some true then s else go s
    | _ => go s
where
  go (s : State) : State :=
    match s.acquirePending a with
    | some id => s.wait a (.request id)
    | none =>
      if (if m.op.inLd then 63 ≤ s.ldOf a else 63 ≤ s.stcOf a) then s.hold a
      else if releases m.order && m.scope = .sys then s.sysRelease a phases
      else phases s
  phases (s : State) : State :=
    let regs := match m.dst with
      | some (.vec, d) => if m.op.inLd then dstRegs d m.regs else []
      | _ => []
    s.withRegs a regs fun s =>
      match s.addressPhase a m m.lanes with
      | (s1, ps, []) => s1.memAccept a h m srcs ps
      | (s1, _, fs) => s1.raiseLanes a m.op.acc m.single fs
end State

end Sys2Proof.Machine
end

