-- ==== Sys2Proof/Machine/HomeService.lean ====
section
/-! DEFINITION. The homes serving requests (R155, R161, R289-R301): which part of a request may be served, what a load, a
store and an atomic do, and the results that return. -/
namespace Sys2Proof.Machine

/-! Atomic functions (R160). -/
/-- The type that size and scale give an atomic (R160). -/
def atomTy (f : MForm) : Ty :=
  match f.size, f.scale.toNat with
  | .d, 0 => .s64
  | .d, 1 => .n64
  | .d, _ => .f64
  | _, 0 => .s32
  | _, 1 => .n32
  | _, 2 => .f32
  | _, _ => .bf16x2

/-- A float sum, per element (R160). -/
def atomFadd (t : Ty) (x y : W64) : W64 :=
  match t with
  | .bf16x2 => joinElems 16 ((List.range 2).map fun k => (opAdd .bf16 {} (elemAt 16 k x) (elemAt 16 k y)).1)
  | _ => BitVec.ofNat 64 (opAdd (Ty.ff t) {} x.toNat y.toNat).1

/-- A sum of a deterministic reduction, in one of its two types (R163). -/
def detAdd (f64 : Bool) (x y : W64) : W64 := atomFadd (if f64 then .f64 else .f32) x y

/-- A float result of an atomic: a NaN is the canonical one, per element (R160). -/
def atomCanon (t : Ty) (x : W64) : W64 :=
  let fix := fun (F : FF) (n : Nat) => if (decVal F false n).isNan then F.canon else n
  match t with
  | .f32 | .f64 => BitVec.ofNat 64 (fix (Ty.ff t) x.toNat)
  | .bf16x2 => joinElems 16 ((List.range 2).map fun k => fix .bf16 (elemAt 16 k x))
  | _ => x

/-- new := f(old, d, b) of an atomic's minor opcode (R160). -/
def atomFn (op : Nat) (t : Ty) (old d b : W64) : W64 :=
  match op with
  | 0x01 | 0x0D => mapLane t (fun x y _ => elAdd (Ty.width t) (Ty.signed t) false x y 0) old d 0#64
  | 0x02 => (combElem t 1 {} old d).1
  | 0x03 => (combElem t 2 {} old d).1
  | 0x04 => old &&& d
  | 0x05 => old ||| d
  | 0x06 => old ^^^ d
  | 0x07 => d
  | 0x08 => if old = b then d else old
  | 0x09 => if d ≤ old then 0#64 else old + 1#64
  | 0x0A | 0x0E => atomCanon t (atomFadd t old d)
  | 0x0B => atomCanon t (combElem t 1 {} old d).1
  | 0x0C => atomCanon t (combElem t 2 {} old d).1
  | _ => old

/-- The run of an atomic's lanes at one location, ascending (R161): the final value and each lane's old value. -/
def atomRun (op : Nat) (t : Ty) : List LaneReq → W64 → W64 × List (List Byte)
  | [], v => (v, [])
  | p :: rest, v =>
    let new := atomFn op t v (BitVec.ofNat 64 (natOfBytes p.data)) (BitVec.ofNat 64 (natOfBytes p.cmp))
    let (fin, olds) := atomRun op t rest new
    (fin, Memory.leBytes p.size v.toNat :: olds)

/-! Which part of a request may be served. -/
/-- Whether two places share a byte. -/
def Place.overlap : Place → Nat → Place → Nat → Bool
  | .mem p _ _, n, .mem q _ _, m => p < q + m && q < p + n
  | .bank t p _, n, .bank u q _, m => t == u && p < q + m && q < p + n
  | _, _, _, _ => false
/-- The location that a place names, whatever the mapping that led there (R156, R161). -/
def Place.spot : Place → Place
  | .mem p _ _ => .mem p 0 .dflt
  | .bank t o _ => .bank t o false
  | .none => .none
/-- Whether two remote places lie in one 32-byte grain (R307). -/
def Place.sameGrain : Place → Place → Bool
  | .mem p _ _, .mem q _ _ => p / 32 == q / 32
  | _, _ => false

namespace State
/-- Older requests in the program order of a request's fragment (R288). -/
def olderThan (s : State) (id : Nat) (r : Req) : List Req :=
  (s.reqs.filter fun p => p.1 < id && (match r.agent, p.2.agent with
    | .frag g _, .frag g' _ => g == g' && p.2.fmask &&& r.fmask != 0#64
    | .ks k, .ks k' => k == k'
    | _, _ => false)).map (·.2)

/-- Whether a write of the request's core to the line of a load is on its way (R296). -/
def coreWriteUnderWay (s : State) (id : Nat) (r : Req) (p : LaneReq) : Bool :=
  match r.agent, p.loc with
  | .frag _ _, .mem pa _ _ =>
    s.reqs.any fun q => q.1 < id && q.2.core == r.core && q.2.op.writes && q.2.lanes.any fun u =>
      u.got.isNone && (match u.loc with | .mem x _ _ => x / 128 == pa / 128 | _ => false)
  | _, _ => false

/-- Whether the order rules let a unit of a request be served (R153, R155, R292, R296, R307). -/
def orderAllows (s : State) (id : Nat) (r : Req) (p : LaneReq) : Bool :=
  let older := s.olderThan id r
  let open' := older.filter fun q => !(Req.served q)
  p.got.isNone && !p.sent &&
    !(open'.any fun q => q.lanes.any fun u => u.got.isNone &&
        (Place.overlap u.loc u.size p.loc p.size || (p.loc.remote && Place.sameGrain u.loc p.loc))) &&
    !(r.op.writes && open'.any fun q => q.op.inLd) &&
    !(releases r.order && open'.any fun q => r.scope == .sys || !(Req.performed q)) &&
    !(r.op = .load && s.coreWriteUnderWay id r p)

/-- Whether a request still waits at its home for a half of a line (R402). -/
def waitsAt (s : State) (h : Nat) : HomeWaiter → Bool
  | .req id => (s.reqs.get? id).any fun r => r.lanes.any fun u => u.got.isNone && !u.sent && (match u.loc with
      | .mem pa _ _ => (halvesOf pa u.size).contains h
      | _ => false)
  | .peer r => s.peerQ.contains r
  | .host p r => s.hostQ.contains (p, r)
/-- Whether requests that arrived before a request wait for a half of its run (R402). -/
def queuedAhead (s : State) (w : HomeWaiter) (pa n : Nat) : Bool :=
  (halvesOf pa n).any fun h => (s.homeQ.takeWhile (· != (h, w))).any fun x => x.1 == h && s.waitsAt h x.2
/-- A request that cannot be served waits at its home for a run, behind those that arrived before it (R402). -/
def joinQueue (s : State) (w : HomeWaiter) (pa n : Nat) : State :=
  { s with homeQ := (s.homeQ.filter fun x => x.2 == w || s.waitsAt x.1 x.2) ++
      ((halvesOf pa n).map fun h => (h, w)).filter fun x => !(s.homeQ.contains x) }

/-- A tag that is free towards a device (R409). -/
def freeTag (s : State) (dev : Nat) : Option Nat := (List.range 4096).find? fun k => (s.peerTags.get? (dev * 4096 + k)).isNone

/-- Whether the place of a unit can be served now: no conflicting holder, and none that arrived before it and waits (R402);
towards a peer, a free tag (R409). -/
def placeAllows (s : State) (id : Nat) (r : Req) (p : LaneReq) : Bool :=
  match p.loc with
  | .mem pa _ _ => !(s.dirConflict r.who r.op.writes pa p.size) && !(s.queuedAhead (.req id) pa p.size) &&
      (match regionOf pa with
        | .peer dev => (s.freeTag dev).isSome
        | _ => true)
  | .bank _ _ _ => true
  | .none => true

/-- Answer units of a request that lie at a location. -/
def answerAt (s : State) (id : Nat) (loc : Place) (f : LaneReq → LaneReq) : State :=
  s.modReq id fun r => { r with lanes := r.lanes.map fun p => if p.loc.spot == loc.spot && p.got.isNone then f p else p }
/-- Answer each of some units with its own bytes. -/
def answerEach (s : State) (id : Nat) (xs : List (LaneReq × List Byte)) : State :=
  let put := fun (u : LaneReq) => match xs.find? (·.1 == u) with
    | some x => { u with got := some x.2 }
    | none => u
  s.modReq id fun r => { r with lanes := r.lanes.map put }

/-- The hold that the request's group has on a line. -/
def ownHold (s : State) (a : Agent) (line : Nat) : Option (Nat × Lease) :=
  match a with
  | .frag g _ => (s.holdOn g line).map fun l => (g, l)
  | .ks _ => none
/-- The bytes that a request sees at a physical address: under a hold of its group, those of its L1 (R166). -/
def seenBytes (s : State) (a : Agent) (pa n : Nat) : List Byte :=
  match s.ownHold a (pa / 128) with
  | some (_, l) => s.heldRead l pa n
  | none => s.mem.readBytes pa n

/-- A write of a request (R297, R299): at its home, or under its group's hold. -/
def reqWrite (s : State) (r : Req) (pa : Nat) (bs : List Byte) (grain : Nat) (pol : Policy) : State × Nat :=
  match s.ownHold r.agent (pa / 128) with
  | some (g, _) => s.leaseWrite g pa bs grain
  | none =>
    let ct := match r.agent with
      | .frag _ _ => (s.core r.core).ct
      | .ks _ => 0
    let T := if releases r.order && wideScope r.scope then max ct (s.relTs r.agent r.fmask) else ct
    let (s, v) := s.homeWrite pa bs grain T pol r.who
    match r.agent with
    | .frag _ _ => (s.l1Write r.core pa bs pol v, v)
    | .ks _ => (s, v)

/-- The sectors of some bytes, each with a time, joined to others: the later time stays. -/
def joinTimes (m : Assoc Nat) (secs : List Nat) (t : Nat) : Assoc Nat := secs.foldl (fun m x => m.set x (max (m.getD x 0) t)) m
/-- Sectors that a fragment wrote since its last fence.code, with the largest visibility time of those writes (R169, R305). -/
def noteWritten (s : State) (r : Req) (pa n vis : Nat) : State :=
  let secs := (List.range ((pa + (n - 1)) / 32 + 1 - pa / 32)).map (pa / 32 + ·)
  match r.agent with
  | .frag g _ => s.modGrp g fun G =>
      { G with written := match G.written.find? fun p => p.1 == r.fmask with
          | some _ => G.written.map fun p => if p.1 == r.fmask then (p.1, joinTimes p.2 secs vis) else p
          | none => G.written ++ [(r.fmask, joinTimes [] secs vis)] }
  | .ks _ => s

/-- Chunks of mapped scratch that a write through a mapping makes dirty (R174). -/
def markDirty (s : State) (t off : Nat) : State :=
  s.modTask t fun T => { T with maps := T.maps.map fun m =>
    if m.off ≤ off && off < m.off + m.len then { m with dirty := NatSet.insert m.dirty ((off - m.off) / 128) } else m }

/-- The device's own identity in the Ashlar domain. -/
def selfId (s : State) : Nat := (s.mmio.getD 0x60000 0#64).toNat % 64

/-- Links along which a device's packets may leave: those of the routing table, any where it names none (R408). -/
def linksTo (s : State) (dev : Nat) : List Nat :=
  let named := match s.health.routing.get? dev with
    | some ls => ls
    | none => List.range 16
  named.filter fun l => ((s.links.get? l).map fun (L : Link) => L.up) == some true
/-- A flit leaves on the first such link and is kept until an answer covers it; of 1,024 kept the oldest goes (R410). -/
def sendFlit (s : State) (dev : Nat) : State :=
  match s.linksTo dev with
  | [] => s
  | l :: _ =>
    match s.links.get? l with
    | none => s
    | some L =>
      let kept := if 1024 ≤ L.unacked.length then L.unacked.drop 1 else L.unacked
      { s with links := s.links.set l { L with txSeq := (L.txSeq + 1) % 4096, unacked := kept ++ [L.txSeq] }
               out := s.out ++ [.flitSend l L.txSeq] }

/-- A write to a remote home leaves the device (R409, R414, R418): towards a peer under a free tag; towards a host until
it grants global observation. -/
def sendRemote (s : State) (id : Nat) (p : LaneReq) (pa : Nat) : State :=
  match regionOf pa with
  | .peer dev =>
    match s.freeTag dev with
    | some tag =>
      let s := (s.answerAt id p.loc fun q => { q with sent := true }).sendFlit dev
      { s with peerTags := s.peerTags.set (dev * 4096 + tag) (id, pa, p.size)
               out := s.out ++ [.peerRequest dev tag (pa % 2 ^ 44) true] }
    | none => s
  | _ => s.answerAt id p.loc fun q => { q with sent := true }

/-- The reset value of a register of the control and MMIO window: the traffic registers' WIN (R337). -/
def mmioReset (off : Nat) : W64 :=
  if 0x10000 ≤ off && off < 0x10400 && off % 0x100 < 0x20 && off % 8 = 0 then 0x010000000000#64 else 0#64
def mmioReg (s : State) (off : Nat) : W64 := s.mmio.getD off (mmioReset off)
def setMmio (s : State) (off : Nat) (v : W64) : State := { s with mmio := s.mmio.put (mmioReset off) off v }

/-- Whether a task that a pre-emption request names can still be pre-empted or is being so: not once it drains or is done,
as when its last group exits or it is killed (R355). -/
def preqNamed (s : State) (t : Nat) : Bool :=
  match s.tasks.get? t with
  | some T => T.st == .resident || T.st == .saved || T.st == .distributed
  | none => false
/-- Tasks of a die's pre-emption request in progress (R355). -/
def preqTasks (s : State) (die : Nat) : List (Nat × Nat) := (s.preq.getD die []).filter fun x => s.preqNamed x.1
/-- BUSY of a die's PREQ: a task that the request names has not finished its sequence. -/
def preqBusy (s : State) (die : Nat) : Bool := !(s.preqTasks die).isEmpty

/-- What a read of the control and MMIO window gives at an offset: BUSY of PREQ and of PUBREQ beside what was written
(R355, R419); zero where there is no register. -/
def mmioRead (s : State) (off : Nat) : W64 :=
  let v := s.mmioReg off
  if 0x20000 ≤ off && off < 0x20400 && off % 0x100 = 0 then
    if s.preqBusy ((off - 0x20000) / 0x100) then v ||| 0x1000000#64 else v
  else if off = 0x40000 then if s.pubBusy.isSome then v ||| 0x8000000000000000#64 else v
  else v

/-- Whether an access is an 8-byte supervisor load or store (R337). -/
def mmioAccess (r : Req) (p : LaneReq) : Bool :=
  r.sup && p.size == 8 && r.regs == 2 && (match r.op with | .load | .store => true | _ => false)

/-- A write that reaches the control and MMIO window: its register's own step follows (R233, R337). -/
def mmioStore (s : State) (off : Nat) (v : W64) : State :=
  { s with agenda := s.agenda ++ [.controlRegisterWrite (.mmio off) v] }

/-- Serve the units of a request at a byte of a bank (R301). -/
def serveBank (s : State) (id : Nat) (r : Req) (p : LaneReq) (here : List LaneReq) (t o : Nat) : State :=
  let mapped := match p.loc with
    | .bank _ _ m => m
    | _ => false
  let dirty := fun (s : State) => if mapped then s.markDirty t o else s
  match r.op with
  | .load =>
    let bs := s.scratchRead t o p.size
    s.answerAt id p.loc fun q => { q with got := some bs }
  | .atom op ty _ =>
    let (v, olds) := atomRun op ty here (BitVec.ofNat 64 (natOfBytes (s.scratchRead t o p.size)))
    (dirty (s.scratchWrite t o (Memory.leBytes p.size v.toNat))).answerEach id (here.zip olds)
  | _ =>
    let s := here.foldl (fun (s : State) q => s.scratchWrite t o q.data) s
    (dirty s).answerAt id p.loc fun q => { q with got := some [] }

/-- Serve the units of a request at a register of the control and MMIO window (R337). -/
def serveMmio (s : State) (id : Nat) (r : Req) (p : LaneReq) (here : List LaneReq) (off : Nat) : State :=
  match r.op with
  | .store =>
    let s := if mmioAccess r p then here.foldl (fun (s : State) q =>
      s.mmioStore off (BitVec.ofNat 64 (natOfBytes q.data))) s else s
    s.answerAt id p.loc fun q => { q with got := some [] }
  | _ =>
    let v := if mmioAccess r p then s.mmioRead off else 0#64
    s.answerAt id p.loc fun q => { q with got := some (Memory.leBytes p.size v.toNat) }

/-- Serve a load's units at a home (R296), or under the group's hold. A load that reads past the core's L1 takes its older
copy of those bytes with it, so that no later load of the core returns them (R289). -/
def serveLoad (s : State) (id : Nat) (r : Req) (p : LaneReq) (pa grain : Nat) (pol : Policy) : State :=
  match s.ownHold r.agent (pa / 128) with
  | some (_, l) =>
    let s := s.modReq id fun r => { r with seen := max r.seen (s.tsOf pa grain).1 }
    s.answerAt id p.loc fun q => { q with got := some (s.heldRead l pa p.size) }
  | none =>
    let local' := (match r.agent with | .frag _ _ => true | .ks _ => false) && !isRemote pa
    let (s, bs, wts, rts) := s.homeRead pa p.size grain (if local' then some (s.core r.core).ct else none) pol r.who
    let s := if !local' then s
      else if pol = .dflt then s.l1Fill r.core pa grain (wts, rts) r.who else s.l1Drop r.core pa p.size
    let s := s.modReq id fun r => { r with seen := max r.seen wts }
    s.answerAt id p.loc fun q => { q with got := some bs }

/-- Where an atomic runs (R162): at its home, or in the L1 of a core that takes the line exclusive (true). It is far off
the package, under another policy than the default, on a line of which a half is lost, and for .auto on a line that the
contention predictor has seen move; otherwise .auto may be either. -/
def runsNear (s : State) (r : Req) (pa : Nat) (pol : Policy) : Bool × State :=
  match r.agent with
  | .ks _ => (false, s)
  | .frag _ _ =>
    if isRemote pa || pol != .dflt || 1 < r.place || s.lostAt (pa / 128 * 128) 128 then (false, s)
    else if r.place = 1 then (true, s)
    else if s.contended.contains (pa / 128) then (false, s)
    else
      let (k, s) := pick s 2
      (k = 0, s)
/-- A group takes a line exclusive for near atomics (R162, R403): false while a holder or a full directory makes it wait.
It keeps the line for a time that nothing fixes (log 14). -/
def takeNear (s : State) (g pa grain : Nat) : State × Bool :=
  let line := pa / 128
  if s.dirConflict (s.grpId g) true (line * 128) 128 then (s.recallFor (s.grpId g) true (line * 128) 128, false)
  else
    match s.dirRoom (2 * line) with
    | (s, false) => (s, false)
    | (s, true) =>
      let s' := { s with free := s.free + 1 }
      ((s'.grantHold g pa grain (s.clk + Config.freeNat s.free) true).1, true)

/-- One atomic's run at a location (R161): where the line is held, in the holder's L1, otherwise at its home. -/
def runAtomic (s : State) (id : Nat) (r : Req) (p : LaneReq) (here : List LaneReq) (op : Nat) (ty : Ty) (pa grain : Nat)
    (pol : Policy) : State :=
  let ts := s.tsOf pa grain
  let (v, olds) := atomRun op ty here (BitVec.ofNat 64 (natOfBytes (s.seenBytes r.agent pa p.size)))
  let (s, vis) := s.reqWrite r pa (Memory.leBytes p.size v.toNat) grain pol
  let s := s.noteWritten r pa p.size vis
  let s := if isRemote pa then (match r.agent with
    | .frag g _ => s.modGrp g fun G => { G with offAcks := G.offAcks - here.length }
    | .ks _ => s) else s
  (s.modReq id fun r => { r with vis := max r.vis vis, seen := max r.seen ts.1 }).answerEach id (here.zip olds)

/-- Serve an atomic's units at a location. -/
def serveAtomic (s : State) (id : Nat) (r : Req) (p : LaneReq) (here : List LaneReq) (op : Nat) (ty : Ty) (pa grain : Nat)
    (pol : Policy) : State :=
  match r.agent, s.ownHold r.agent (pa / 128) with
  | .frag g _, none =>
    match s.runsNear r pa pol with
    | (true, s) =>
      match s.takeNear g pa grain with
      | (s, true) => s.runAtomic id r p here op ty pa grain pol
      | (s, false) => s
    | (false, s) => s.runAtomic id r p here op ty pa grain pol
  | _, _ => s.runAtomic id r p here op ty pa grain pol

/-- Units of one store at a location, in ascending lane order (R156). -/
def storeUnits (s : State) (id : Nat) (r : Req) (pa : Nat) (here : List LaneReq) : State :=
  let (s, vis) := here.foldl (fun (acc : State × Nat) q =>
    match q.loc with
    | .mem _ grain pol =>
      let (s, v) := acc.1.reqWrite r pa q.data grain pol
      (s, max acc.2 v)
    | _ => acc) (s, 0)
  ((s.noteWritten r pa ((here.head?.map (·.size)).getD 0) vis).modReq id fun r => { r with vis := max r.vis vis }).answerAt id
    (.mem pa 0 .dflt) fun q => { q with got := some [] }
/-- The units of a store in a line, when the store covers it whole and each of them may be served (R435). -/
def wholeLine (s : State) (id : Nat) (r : Req) (line : Nat) : Option (List LaneReq) :=
  let us := r.lanes.filter fun q => match q.loc with
    | .mem x _ _ => x / 128 == line
    | _ => false
  if (us.all fun q => s.orderAllows id r q) && (List.range 128).all fun k => us.any fun q => match q.loc with
      | .mem x _ _ => x ≤ line * 128 + k && line * 128 + k < x + q.size
      | _ => false then some us
  else none
/-- Serve a store's units at a location. Those of a store that covers a line whole take effect in a single step, which
clears the line's poison (R435). -/
def serveStore (s : State) (id : Nat) (r : Req) (pa : Nat) (here : List LaneReq) : State :=
  match s.wholeLine id r (pa / 128) with
  | none => s.storeUnits id r pa here
  | some us =>
    let s := ((us.map (·.loc.spot)).eraseDups).foldl (fun (s : State) q => match q with
      | .mem x _ _ => s.storeUnits id r x (us.filter fun y => y.loc.spot == q)
      | _ => s) s
    if (s.ownHold r.agent (pa / 128)).isSome then s else s.clearPoison (pa / 128 * 128) 128

/-! Sums of deterministic partials (R163, R164). -/
/-- A sum applied to memory by a home's Mortar unit (R163, R164): its visibility time. A home that refuses the location writes
nothing (R406, R435); the sum is then dropped (DESIGN CHOICE, log 14: nothing says whose fault it is). -/
def addToMemory (s : State) (pa : Nat) (f64 : Bool) (val : W64) : State × Nat :=
  let n := if f64 then 8 else 4
  if (s.homeError pa n .atomic).isSome then (s, 0)
  else
    let old := BitVec.ofNat 64 (s.mem.readNat pa n)
    s.homeWrite pa (Memory.leBytes n (atomCanon (if f64 then .f64 else .f32) (detAdd f64 old val)).toNat) (s.ftGrain pa) 0 .dflt
      (idMortar (s.homeOf pa))
/-- Serve a sum that waited for a holder (R163, R402). -/
def serveDet (s : State) (id : Nat) (p : LaneReq) (pa : Nat) : State :=
  let (s, v) := s.addToMemory pa (p.size == 8) (BitVec.ofNat 64 (natOfBytes p.data))
  (s.modReq id fun r => { r with vis := max r.vis v }).answerAt id p.loc fun q => { q with got := some [] }

/-! Watches (R167). -/
/-- Entries of a slice's watch table. -/
def watchEntries : Nat := 64
/-- Whether a watch occupies an entry of a slice's table: not after its waiter has left or the watch is dropped. -/
def Watch.fills (w : Watch) (slice : Nat) : Bool := w.slice == slice && !w.overflow && !w.woken && w.cause != some 4
/-- Register a watch on the grain of an address: in the slice's table, or in its overflow set when that is full. -/
def addWatch (s : State) (who : Waiter) (pa grain : Nat) (expiry : Option Nat) : Nat × State :=
  let (id, s) := s.takeId
  let slice := s.homeOf pa
  let full := watchEntries ≤ (s.watches.filter fun w => Watch.fills w slice).length
  (id, { s with watches := s.watches ++ [{ id := id, who := who, slice := slice, grain := pa / grain * grain,
                                           size := grain, overflow := full, expiry := expiry, cause := none,
                                           woken := false }] })
/-- When a wait that a group begins now times out: WTO of LEASECTL in units of 256 clocks, 0 for never (R165). -/
def waitExpiry (s : State) (g : Nat) : Option Nat :=
  let wto := (((s.grps.get? g).map (·.leasectl)).getD 0#32).toNat / 2 ^ 16
  if wto = 0 then none else some (s.clk + wto * 256)
/-- The registration of a wait.addr at a remote home, in one step with its read (R167): with another value the instruction
completes, otherwise its fragment waits on the watch. -/
def serveWatch (s : State) (id : Nat) (r : Req) (p : LaneReq) (pa grain : Nat) (pol : Policy) (want : W64) (d : Nat) : State :=
  match r.agent with
  | .ks _ => s
  | .frag g e =>
    let (s, bs, wts, _) := s.homeRead pa p.size grain none pol r.who
    let s := (s.noteSeen r.agent r.fmask wts).acquireCt r.agent r.order r.scope wts
    if s.stOf (.frag g e) != .waiting (.request id) then { s with reqs := s.reqs.erase id }
    else if BitVec.ofNat 64 (natOfBytes bs) != want then
      let s := ((s.writeScl (.frag g e) d false 0#64).addBusy (.frag g e) [(1, d)] 1).resume (.frag g e) id
      { s with reqs := s.reqs.erase id }
    else
      let (w, s) := s.addWatch (.frag g e) pa grain (s.waitExpiry g)
      ({ s with reqs := s.reqs.erase id }).wait (.frag g e) (.address w)

/-- Serve the units of a request at one place. -/
def serveAt (s : State) (id : Nat) (r : Req) (p : LaneReq) : State :=
  let here := r.lanes.filter fun q => q.loc.spot == p.loc.spot && q.got.isNone
  match p.loc with
  | .none => s
  | .bank t o _ => s.serveBank id r p here t o
  | .mem pa grain pol =>
    if regionOf pa = .mmio then s.serveMmio id r p here (pa - 2 ^ 41)
    else
      match r.op with
      | .load => s.serveLoad id r p pa grain pol
      | .watch want d => s.serveWatch id r p pa grain pol want d
      | .det _ => s.serveDet id p pa
      | .atom op ty ret =>
        if isRemote pa && !ret then s.sendRemote id p pa else s.serveAtomic id r p here op ty pa grain pol
      | _ => if isRemote pa then s.sendRemote id p pa else s.serveStore id r pa here

/-- A home serves one place of a request, unpredictable among those that may be served (R296, R301). -/
def serve (s : State) (id : Nat) : State :=
  match s.reqs.get? id with
  | none => s
  | some r =>
    let ready := r.lanes.filter fun p => s.orderAllows id r p
    let (free, held) := ready.partition fun p => s.placeAllows id r p
    let places := (free.map (·.loc.spot)).eraseDups
    match places with
    | [] => held.foldl (fun (s : State) p => match p.loc with
        | .mem pa _ _ => (s.recallFor r.who r.op.writes pa p.size).joinQueue (.req id) pa p.size
        | _ => s) s
    | d :: _ =>
      let (loc, s) := pickFrom s places d
      match free.find? (·.loc.spot == loc) with
      | some p =>
        let (cls, port) := s.portOf r.agent
        match p.loc with
        | .mem _ _ _ =>
          if s.mayInject cls port p.size then ((s.noteInject cls port p.size).serveAt id r p).settleReq id else s
        | _ => (s.serveAt id r p).settleReq id
      | none => s
end State

/-! Results. -/
/-- Write the answer of a request to its destination (R142, R150). -/
def State.writeResult (s : State) (r : Req) : State :=
  match r.agent, r.dst with
  | .frag g _, some (.vec, d) =>
    (dstRegs d r.regs).foldl (fun s v =>
      s.modGrp g fun G => G.vwrite v fun l =>
        if r.part.getLsbD l && !(r.overwritten.any fun p => p.1 == v && p.2.getLsbD l) then r.word l (4 * (v - d)) else none) s
  | a, some (.scl, d) =>
    (dstRegs d r.regs).foldl (fun s x =>
      if r.overwritten.any fun p => p.1 == x then s
      else match r.word 0 (4 * (x - d)) with
        | some w => s.sset a x w
        | none => s) s
  | _, _ => s

/-- HOME_ACCESS (R296). -/
def execHomeAccess (id : Nat) (s : State) : Host.Outcome State Fault Refusal := .next (s.serve id)

/-- STORE_ACKNOWLEDGE (R156): ST falls once every home has acknowledged. -/
def execStoreAcknowledge (id : Nat) (s : State) : Host.Outcome State Fault Refusal :=
  .next (match s.reqs.get? id with
    | some r =>
      let done := match r.op with
        | .store | .det _ | .atom _ _ false => Req.served r
        | _ => false
      if done then { s.modStc r.agent (· - 1) with reqs := s.reqs.erase id } else s
    | none => s)

end Sys2Proof.Machine
end

