-- ==== Sys2Proof/Machine/LoadStore.lean ====
section
/-! DEFINITION. Loads and stores: s.ld and s.st (R70), class 0x8 (R156-R158) and v.sld (R124). -/
namespace Sys2Proof.Machine

/-- Bytes of a size (R23). -/
def szBytes : Sz → Nat
  | .b => 1
  | .h => 2
  | .w => 4
  | .d => 8
  | .q => 16
  | .o => 32
/-- Registers of a size (R150). -/
def szRegs (z : Sz) : Nat := if szBytes z ≤ 4 then 1 else szBytes z / 4

/-- The bytes of a run of vector registers as each lane reads them (R19, R142). -/
def readRun (s : State) (g e : Nat) : List Nat → State × (Nat → List Byte)
  | [] => (s, fun _ => [])
  | v :: rest =>
    let (xs, s) := readReg s g e v 0#4 0#6
    let (s, f) := readRun s g e rest
    (s, fun l => Memory.leBytes 4 (xs.getD l 0#32).toNat ++ f l)

/-- The exact addresses of the lanes (R149). `implicit`: without an index, a scalar base steps by the size. -/
def laneAddrs (s : State) (a : Agent) (f : MForm) (sp : Space) (implicit : Bool) : State × (Nat → Int) :=
  let (av, s) := readSrc s a f.a (sp == .global) 0#6
  if f.b.isZero then
    let step := if implicit && f.a.cls = .scl then szBytes f.size else 0
    (s, fun l => exactAddr (lane av l).toNat (l * step : Nat) f.off)
  else
    let (bv, s) := readSrc s a f.b false 0#6
    (s, fun l => exactAddr (lane av l).toNat ((lo32 (lane bv l)).toInt * (2 ^ f.scale.toNat : Nat)) f.off)

/-- The operands whose registers last-read bits release. -/
def memOpnds (h : Hdr) (f : MForm) (sp : Space) : List Opnd :=
  { src := f.a, wide := sp == .global, lr := h.lra } ::
    (if f.b.isZero then [] else [{ src := f.b, wide := false, lr := h.lrb }])

/-- A per-lane load or store of class 0x8 (R156). -/
def vecMem (op : ReqOp) (sp : Space) (implicit : Bool) (h : Hdr) (f : MForm) (s : State) :
    Host.Outcome State Fault Refusal :=
  withAgent s fun a =>
    let part := s.guardMask a h
    if part = 0#64 then s.retire a h
    else
      let d := f.d.idx.toNat
      let n := szBytes f.size
      let (s, addr) := laneAddrs s a f sp implicit
      let (s, data) := match op, a with
        | .store, .frag g e => readRun s g e (dstRegs d (szRegs f.size))
        | _, _ => (s, fun _ => [])
      let spec : MemSpec :=
        { op := op, space := sp, size := n, order := f.order, scope := f.scope, pol := f.policy,
          lanes := (lanesOf part).map fun l => { lane := l, off := 0, addr := addr l, data := (data l).take n, cmp := [] },
          dst := if op = .load then some (.vec, d) else none, regs := szRegs f.size, part := part, one := false,
          single := none, counted := true }
      s.memIssue a h spec (memOpnds h f sp)

/-- The space of a scalar access or of a string load (R70, R124). -/
def subSpace (x : BitVec 3) : Space :=
  match x.toNat with
  | 0 => .global
  | 1 => .scratch
  | _ => .window

/-- A scalar load or store: one access for the agent (R70). -/
def sclMem (op : ReqOp) (h : Hdr) (f : MForm) (s : State) : Host.Outcome State Fault Refusal :=
  withAgent s fun a =>
    if s.guardOnce a h then
      let d := f.d.idx.toNat
      let n := szBytes f.size
      let sp := subSpace f.sub
      let base := (readScl s a f.a (sp == .global)).toNat
      let data := if f.size = .d then Memory.leBytes 8 (s.sread64 a d).toNat else Memory.leBytes 4 (s.sread a d).toNat
      let spec : MemSpec :=
        { op := op, space := sp, size := n, order := f.order, scope := f.scope, pol := f.policy,
          lanes := [{ lane := 0, off := 0, addr := exactAddr base 0 f.off, data := data.take n, cmp := [] }],
          dst := if op = .load then some (.scl, d) else none, regs := szRegs f.size, part := 1#64, one := true,
          single := some (s.maskOfAgent a), counted := true }
      s.memIssue a h spec []
    else s.retire a h

/-- s.ld (R70). -/
def execSLd (h : Hdr) (f : MForm) (s : State) : Host.Outcome State Fault Refusal := sclMem .load h f s
/-- s.st (R70). -/
def execSSt (h : Hdr) (f : MForm) (s : State) : Host.Outcome State Fault Refusal := sclMem .store h f s

/-- v.ld (R156). -/
def execVLd (h : Hdr) (f : MForm) (s : State) : Host.Outcome State Fault Refusal := vecMem .load .global true h f s
/-- v.st (R156). -/
def execVSt (h : Hdr) (f : MForm) (s : State) : Host.Outcome State Fault Refusal := vecMem .store .global true h f s
/-- v.ldg (R156). -/
def execVLdg (h : Hdr) (f : MForm) (s : State) : Host.Outcome State Fault Refusal := vecMem .load .global false h f s
/-- v.stg (R156). -/
def execVStg (h : Hdr) (f : MForm) (s : State) : Host.Outcome State Fault Refusal := vecMem .store .global false h f s
/-- v.lds (R156). -/
def execVLds (h : Hdr) (f : MForm) (s : State) : Host.Outcome State Fault Refusal := vecMem .load .scratch true h f s
/-- v.sts (R156). -/
def execVSts (h : Hdr) (f : MForm) (s : State) : Host.Outcome State Fault Refusal := vecMem .store .scratch true h f s
/-- v.ldsw (R156). -/
def execVLdsw (h : Hdr) (f : MForm) (s : State) : Host.Outcome State Fault Refusal := vecMem .load .window true h f s
/-- v.stsw (R156). -/
def execVStsw (h : Hdr) (f : MForm) (s : State) : Host.Outcome State Fault Refusal := vecMem .store .window true h f s

/-- v.ldc (R156): one access whose value goes to every participating lane. -/
def execVLdc (h : Hdr) (f : MForm) (s : State) : Host.Outcome State Fault Refusal :=
  withAgent s fun a =>
    let part := s.guardMask a h
    if part = 0#64 then s.retire a h
    else
      let base := (readScl s a f.a true).toNat
      let spec : MemSpec :=
        { op := .load, space := .global, size := szBytes f.size, order := f.order, scope := f.scope, pol := f.policy,
          lanes := [{ lane := lowLane part, off := 0, addr := exactAddr base 0 f.off, data := [], cmp := [] }],
          dst := some (.vec, f.d.idx.toNat), regs := szRegs f.size, part := part, one := true, single := some part,
          counted := true }
      s.memIssue a h spec []

/-- The bytes of a string chunk that a lane reads (R124). -/
def sldBytes (l n : Nat) (addr : Int) : List LaneAddr :=
  (List.range n).map fun k => { lane := l, off := k, addr := addr + (k : Int), data := [], cmp := [] }

/-- v.sld (R124): each byte within the remaining length is an access of its own; the others read zero. -/
def execVSld (h : Hdr) (f : MForm) (s : State) : Host.Outcome State Fault Refusal :=
  withAgent s fun a =>
    let part := s.guardMask a h
    if part = 0#64 then s.retire a h
    else
      let sp := subSpace f.sub
      let (av, s) := readSrc s a f.a (sp == .global) 0#6
      let (bv, s) := readSrc s a f.b false 0#6
      let n := fun l => min (lo32 (lane bv l)).toNat (szBytes f.size)
      let spec : MemSpec :=
        { op := .load, space := sp, size := 1, order := f.order, scope := f.scope, pol := f.policy,
          lanes := (lanesOf part).flatMap fun l => sldBytes l (n l) (exactAddr (lane av l).toNat 0 f.off),
          dst := some (.vec, f.d.idx.toNat), regs := szRegs f.size, part := part, one := false, single := none,
          counted := true, noted := false }
      s.memIssue a h spec [{ src := f.a, wide := sp == .global, lr := h.lra }, { src := f.b, wide := false, lr := h.lrb }]

namespace State
/-- What a prefetch does for one lane (R157): its line comes into L1 under the default policy, into its home slice alone under
stream or nostore, and off the package into the proxy slice, since L1 holds no such line (R412). A lane that would fault
is dropped, and so is one of mapped scratch, which has no line. Answers what it must wait for, and the place. -/
def prefetch (s : State) (a : Agent) (va : W64) (n : Nat) (pol : Policy) : State × Option Wait × Place :=
  match s.checkTarget a va n .read pol with
  | (s, .error f) => (s, f.held, .none)
  | (s, .ok t) =>
    match t.loc with
    | .mem pa grain p =>
      let who := s.agentId a
      if regionOf pa = .mmio || (s.homeError pa n .read).isSome then (s, none, t.loc)
      else if s.dirConflict who false pa n then (s.recallFor who false pa n, some (.home pa n false), t.loc)
      else if p = .dflt && !isRemote pa then
        let core := s.coreOf a
        let (s, _, wts, rts) := (s.noteInject (s.portOf a).1 (s.portOf a).2 128).homeRead pa n grain (some (s.core core).ct) p who
        (s.l1Fill core pa grain (wts, rts) who, none, t.loc)
      else (((s.noteInject (s.portOf a).1 (s.portOf a).2 128).touchLine (pa / 128) false (if p = .dflt then .dflt else .stream)).sliceWatch pa n 1 who, none, t.loc)
    | _ => (s, none, .none)
/-- The lanes of a prefetch in turn: what one of them waits for, and the places. -/
def prefetchAll (s : State) (a : Agent) (n : Nat) (pol : Policy) : List W64 → State × Option Wait × List Place
  | [] => (s, none, [])
  | va :: rest =>
    let (s, w, loc) := s.prefetch a va n pol
    let (s, w', locs) := prefetchAll s a n pol rest
    (s, w.or w', loc :: locs)
end State

/-- v.pf (R157): no fault but of decoding, and no count; the measured lease sees it (R269). -/
def execVPf (h : Hdr) (f : MForm) (s : State) : Host.Outcome State Fault Refusal :=
  withAgent s fun a =>
    let part := s.guardMask a h
    if part = 0#64 then s.retire a h
    else
      let (s, addr) := laneAddrs s a f .global true
      match s.prefetchAll a (szBytes f.size) f.policy ((lanesOf part).map fun l => wrapAddr (addr l)) with
      | (s, some w, _) => s.wait a w
      | (s, none, locs) => ((s.noteLines a locs).lastReads a (lastReadRegs (memOpnds h f .global)) []).retire a h

/-! FIFOs (R158). A waiter is a group and twice its entry, plus 1 for a push. -/
/-- The bank of a FIFO instruction when the team may use it (R158, R316). -/
def fifoBank (s : State) (a : Agent) (k : Nat) : Option Bank :=
  match s.taskIdOf a with
  | none => none
  | some t =>
    let b := (s.core (s.coreOf a)).bank k
    if b.role = .fifo && (s.bankRights t).contains k then some b else none

def fifoCap : Nat := 4096

/-- A FIFO instruction that cannot complete waits its turn; the first of the waiting ones completes first. -/
def fifoTurn (b : Bank) (g e kind : Nat) (room : Bool) : Bool :=
  room && (match b.waiters.filter fun w => w.2 % 2 == kind with
    | [] => true
    | w :: _ => w == (g, 2 * e + kind))

namespace State
def fifoWait (s : State) (a : Agent) (k n : Nat) (w : Nat × Nat) : State :=
  (s.modCore (s.coreOf a) fun c =>
    let b := c.bank k
    c.setBank k { b with waiters := if b.waiters.contains w then b.waiters else b.waiters ++ [w] }).wait a (.fifo k n (w.2 % 2 == 1))

/-- A FIFO instruction of a fragment: 0x0C on a bank it may not use, waiting, or its one indivisible step. -/
def fifoOp (s : State) (a : Agent) (h : Hdr) (k kind n : Nat) (step : Bank → Nat → Nat → State) : State :=
  match a with
  | .ks _ => s
  | .frag g e =>
    match fifoBank s a k with
    | none => s.raise a [s.mkRec a 0x0C 0#32 0#64 (s.guardMask a h) (if kind = 1 then 2 else 1)]
    | some b =>
      let room := if kind = 1 then b.fifo.length + n ≤ fifoCap else n ≤ b.fifo.length
      if !fifoTurn b g e kind room || !s.quiet a then s.fifoWait a k n (g, 2 * e + kind) else step b g e
end State

/-- v.fifo.push (R158): the participating lanes' entries, ascending, low word first. -/
def execVFifoPush (h : Hdr) (f : NForm) (s : State) : Host.Outcome State Fault Refusal :=
  withAgent s fun a =>
    let part := s.guardMask a h
    if part = 0#64 then s.retire a h
    else
      let k := (readScl s a f.b false).toNat % 32
      let w := wideTy f.ty
      s.fifoOp a h k 1 ((lanesOf part).length * (if w then 2 else 1)) fun b g e =>
        let (av, s) := readSrc s a f.a w 0#6
        let xs := (lanesOf part).flatMap fun l => if w then [lo32 (lane av l), hi32 (lane av l)] else [lo32 (lane av l)]
        let b := { b with fifo := b.fifo ++ xs, waiters := b.waiters.filter (· != (g, 2 * e + 1)) }
        let s := s.modCore (s.coreOf a) fun c => c.setBank k b
        (s.lastReads a (lastReadRegs [{ src := f.a, wide := w, lr := h.lra }]) []).retire a h

/-- v.fifo.pop (R158). -/
def execVFifoPop (h : Hdr) (f : NForm) (s : State) : Host.Outcome State Fault Refusal :=
  withAgent s fun a =>
    let part := s.guardMask a h
    if part = 0#64 then s.retire a h
    else
      let k := (readScl s a f.b false).toNat % 32
      let w := wideTy f.ty
      let d := f.d.idx.toNat
      let u := if w then 2 else 1
      let n := (lanesOf part).length * u
      s.withRegs a (dstRegs d u) fun s => s.fifoOp a h k 0 n fun b g e =>
        let ls := lanesOf part
        let val := fun i => if w then pairOf (b.fifo.getD (2 * i) 0#32) (b.fifo.getD (2 * i + 1) 0#32)
          else (b.fifo.getD i 0#32).setWidth 64
        let nb := { b with fifo := b.fifo.drop n, waiters := b.waiters.filter (· != (g, 2 * e)) }
        let s := s.modCore (s.coreOf a) fun c => c.setBank k nb
        (s.writeLanes a d w (((List.range ls.length).zip ls).map fun p => (p.2, val p.1))).retire a h

end Sys2Proof.Machine
end

