-- ==== Sys2Proof/Machine/Atomic.lean ====
section
/-! DEFINITION. Class 0x9: atomics and reductions (R159-R162), deterministic reductions (R163, R164), line leases (R165,
R166) and wait.addr (R167). -/
namespace Sys2Proof.Machine

/-- The space of an atomic (R148). -/
def atomSpace (x : BitVec 3) : Space :=
  match x.toNat with
  | 3 => .scratch
  | 4 => .window
  | _ => .global

/-- An atomic or a reduction (R159-R162). -/
def atomMem (op : Nat) (ret : Bool) (h : Hdr) (f : MForm) (s : State) : Host.Outcome State Fault Refusal :=
  withAgent s fun a =>
    let part := s.guardMask a h
    if part = 0#64 then s.retire a h
    else
      let t := atomTy f
      let n := szBytes f.size
      let d := f.d.idx.toNat
      let regs := dstRegs d (szRegs f.size)
      let sp := atomSpace f.sub
      let (av, s) := readSrc s a f.a (sp == .global) 0#6
      let (s, data) := match a with
        | .frag g e => readRun s g e regs
        | .ks _ => (s, fun _ => [])
      let (bv, s) := if op = 0x08 then readSrc s a f.b (n == 8) 0#6 else ([], s)
      let spec : MemSpec :=
        { op := .atom op t ret, space := sp, size := n, order := f.order, scope := f.scope, pol := f.policy,
          lanes := (lanesOf part).map fun l =>
            { lane := l, off := 0, addr := exactAddr (lane av l).toNat 0 f.off, data := (data l).take n,
              cmp := (Memory.leBytes 8 (lane bv l).toNat).take n },
          dst := if ret then some (.vec, d) else none, regs := szRegs f.size, part := part, one := false,
          single := none, counted := true, place := f.sub.toNat }
      s.memIssue a h spec ({ src := f.a, wide := sp == .global, lr := h.lra } ::
        (if op = 0x08 then [{ src := f.b, wide := n == 8, lr := h.lrb }] else []))

/-- a.add (R160). -/
def execAAdd (h : Hdr) (f : MForm) (s : State) : Host.Outcome State Fault Refusal := atomMem 0x01 true h f s
/-- a.min (R160). -/
def execAMin (h : Hdr) (f : MForm) (s : State) : Host.Outcome State Fault Refusal := atomMem 0x02 true h f s
/-- a.max (R160). -/
def execAMax (h : Hdr) (f : MForm) (s : State) : Host.Outcome State Fault Refusal := atomMem 0x03 true h f s
/-- a.and (R160). -/
def execAAnd (h : Hdr) (f : MForm) (s : State) : Host.Outcome State Fault Refusal := atomMem 0x04 true h f s
/-- a.or (R160). -/
def execAOr (h : Hdr) (f : MForm) (s : State) : Host.Outcome State Fault Refusal := atomMem 0x05 true h f s
/-- a.xor (R160). -/
def execAXor (h : Hdr) (f : MForm) (s : State) : Host.Outcome State Fault Refusal := atomMem 0x06 true h f s
/-- a.xchg (R160). -/
def execAXchg (h : Hdr) (f : MForm) (s : State) : Host.Outcome State Fault Refusal := atomMem 0x07 true h f s
/-- a.cas (R160). -/
def execACas (h : Hdr) (f : MForm) (s : State) : Host.Outcome State Fault Refusal := atomMem 0x08 true h f s
/-- a.inc (R160). -/
def execAInc (h : Hdr) (f : MForm) (s : State) : Host.Outcome State Fault Refusal := atomMem 0x09 true h f s
/-- a.fadd (R160). -/
def execAFadd (h : Hdr) (f : MForm) (s : State) : Host.Outcome State Fault Refusal := atomMem 0x0A true h f s
/-- a.fmin (R160). -/
def execAFmin (h : Hdr) (f : MForm) (s : State) : Host.Outcome State Fault Refusal := atomMem 0x0B true h f s
/-- a.fmax (R160). -/
def execAFmax (h : Hdr) (f : MForm) (s : State) : Host.Outcome State Fault Refusal := atomMem 0x0C true h f s
/-- red.add (R160). -/
def execRedAdd (h : Hdr) (f : MForm) (s : State) : Host.Outcome State Fault Refusal := atomMem 0x0D false h f s
/-- red.fadd (R160). -/
def execRedFadd (h : Hdr) (f : MForm) (s : State) : Host.Outcome State Fault Refusal := atomMem 0x0E false h f s

/-! Deterministic reductions (R163, R164). -/
def bufferEntries : Nat := 64
def stagingEntries : Nat := 1024
/-- The contributor's key (R163): die, cluster, core, partition, team slot, group. -/
def detKey (s : State) (g : Nat) : Nat :=
  let core := s.coreOfGrp g
  let slot := ((s.grpTask g).map (·.slot)).getD 0
  let part := ((s.grps.get? g).map (·.partition)).getD 0
  let i := ((s.grps.get? g).map (·.idx)).getD 0
  ((((dieOfCore core * 48 + cluOfCore core) * 256 + core) * 4 + part) * 128 + slot) * 16 + i

/-- The value of a staged entry: what has arrived for it, combined in order (R163). -/
def Staged.val (p : Staged) : W64 :=
  match p.parts with
  | [] => 0#64
  | x :: r => r.foldl (fun v y => detAdd p.f64 v y.2) x.2

namespace State
/-- Order of a launch's partials not fixed (R163). -/
def setNf (s : State) (l : Nat) : State := s.modLaunch l fun L => { L with nf := true }

/-- A partial that finds its staging table full is added to memory (R163), once no holder has its line (R402). -/
def addPartial (s : State) (g pa : Nat) (f64 : Bool) (v : W64) : State :=
  let who := idMortar (s.homeOf pa)
  let n := if f64 then 8 else 4
  if s.dirConflict who true pa n then
    let s := s.recallFor who true pa n
    let (id, s) := s.takeId
    let p : LaneReq := { lane := 0, off := 0, loc := .mem pa (s.ftGrain pa) .dflt, size := n, va := 0#64,
                         data := Memory.leBytes n v.toNat, cmp := [], sent := false, got := none }
    let r : Req := { agent := .frag g 0, who := who, sup := true, fmask := BitVec.allOnes 64, core := s.coreOfGrp g, pc := 0#64,
                     op := .det (if f64 then .f64 else .f32), lanes := [p], dst := none, regs := 0, part := 0#64, one := false,
                     order := .rlx, scope := .grp, vis := 0, seen := 0, blocking := false, overwritten := [], born := s.clk }
    ({ s with reqs := s.reqs.set id r }).modStc (.frag g 0) (· + 1)
  else
    let (s, vis) := s.addToMemory pa f64 v
    s.noteOver (g / 16) vis

/-- A partial of a group reaches its home's staging table (R163). -/
def stage (s : State) (g key pa : Nat) (f64 : Bool) (v : W64) : State :=
  let h := s.homeOf pa
  let tab := s.staging.getD h []
  let launch := s.launchIdOf (.frag g 0)
  let part := (g / 16, v)
  let same := fun (q : Staged) => q.key == key && q.pa == pa && q.launch == launch && q.f64 == f64
  if tab.any same then
    let tab := tab.map fun q => if same q then { q with parts := q.parts ++ [part] } else q
    { (s.setNf launch) with staging := s.staging.set h tab }
  else if stagingEntries ≤ tab.length then (s.setNf launch).addPartial g pa f64 v
  else { s with staging := s.staging.set h (tab ++ [{ key := key, pa := pa, f64 := f64, launch := launch, parts := [part] }]) }

/-- Partials of a group, oldest first, drain to their homes. -/
def drainPartials (s : State) (g : Nat) (ps : List Partial) : State :=
  let key := detKey s g
  ps.foldl (fun (s : State) p => s.stage g key p.pa p.f64 p.val) s

/-- Every buffer entry of a group drains (R164). -/
def drainGroup (s : State) (g : Nat) : State :=
  match s.grps.get? g with
  | none => s
  | some G => (s.drainPartials g G.partials).modGrp g fun G => { G with partials := [] }

/-- Groups of one partition of a core. -/
def partitionGroups (s : State) (core part : Nat) : List (Nat × Group) :=
  s.grps.filter fun p => p.2.partition == part && s.coreOfGrp p.1 == core

/-- One lane's contribution folds into its group's entry (R163). -/
def foldPartial (s : State) (g pa : Nat) (f64 : Bool) (v : W64) : State :=
  let hit := fun (q : Partial) => q.pa == pa && q.f64 == f64
  match (s.grps.get? g).bind fun G => G.partials.find? hit with
  | some _ =>
    let upd := fun (q : Partial) => if hit q then { q with val := detAdd f64 q.val v } else q
    s.modGrp g fun G => { G with partials := G.partials.map upd }
  | none =>
    let (id, s) := s.takeId
    s.modGrp g fun G => { G with partials := G.partials ++ [{ seq := id, pa := pa, f64 := f64, val := v }] }

/-- Insert by key (R164). -/
def insertStaged (p : Staged) : List Staged → List Staged
  | [] => [p]
  | q :: r => if p.key < q.key then p :: q :: r else q :: insertStaged p r

/-- The staged partials of a launch in ascending key order. -/
def stagedOf (s : State) (launch : Nat) : List Staged :=
  s.staging.flatMap fun p => (p.2.filter (·.launch == launch)).foldl (fun ps q => insertStaged q ps) []
/-- The staging tables with the entries of a launch replaced. -/
def modStaged (s : State) (launch : Nat) (f : Staged → List Staged) : State :=
  let tabs := s.staging.mapVal fun _ ps => ps.flatMap fun p => if p.launch = launch then f p else [p]
  { s with staging := tabs.filter fun p => !p.2.isEmpty }
/-- Locations of a launch's staged partials that a holder keeps from their homes (R402). -/
def stagedWaits (s : State) (launch : Nat) : List Nat :=
  (s.stagedOf launch).filterMap fun p =>
    if s.dirConflict (idMortar (s.homeOf p.pa)) true p.pa (if p.f64 then 8 else 4) then some p.pa else none
/-- At every home slice, the staged partials of a launch are added in ascending key order and leave the table (R164):
the largest visibility time. While a holder keeps one of the locations, all wait, and it is recalled: the address. -/
def commitStaged (s : State) (launch : Nat) : State × Except Nat Nat :=
  match s.stagedWaits launch with
  | pa :: r => ((pa :: r).foldl (fun (s : State) x => s.recallFor noAgentId true x 4) s, .error pa)
  | [] =>
    let (s, v) := (s.stagedOf launch).foldl (fun (acc : State × Nat) p =>
      let (s, v) := acc.1.addToMemory p.pa p.f64 p.val
      (s, max acc.2 v)) (s.modStaged launch fun _ => [], 0)
    (s, .ok v)

/-- The partials of a task are discarded: in its groups' buffers (R356) with the groups, and here where they are staged. -/
def discardStaged (s : State) (launch task : Nat) : State :=
  s.modStaged launch fun p =>
    match p.parts.filter (·.1 != task) with
    | [] => []
    | ps => [{ p with parts := ps }]

/-- Entries of a partition's buffer that contributions of a group at these locations still need. -/
def entriesNeeded (s : State) (g : Nat) (f64 : Bool) (pas : List Nat) : Nat :=
  let have' := (((s.grps.get? g).map (·.partials)).getD []).filter (·.f64 == f64)
  (pas.eraseDups.filter fun pa => !(have'.any (·.pa == pa))).length
/-- The partition drains its oldest entries until an instruction finds the entries it needs (R163). -/
def bufferRoom (s : State) (g : Nat) (f64 : Bool) (pas : List Nat) : Nat → State
  | 0 => s
  | fuel + 1 =>
    let part := ((s.grps.get? g).map (·.partition)).getD 0
    let all := (s.partitionGroups (s.coreOfGrp g) part).flatMap fun p => p.2.partials.map fun q => (p.1, q)
    if all.length + s.entriesNeeded g f64 pas ≤ bufferEntries then s
    else
      match all with
      | [] => s
      | p :: r =>
        let o := r.foldl (fun b q => if q.2.seq < b.2.seq then q else b) p
        ((s.drainPartials o.1 [o.2]).modGrp o.1 fun G =>
          { G with partials := G.partials.filter (·.seq != o.2.seq) }).bufferRoom g f64 pas fuel

/-- Whether an address leads off the package, for a lane that fails another check of the address phase. -/
def offPackage (s : State) (a : Agent) (va : W64) : Bool :=
  let (s, w) := s.leafFor (s.asidOf a) va.toNat
  w.fault.isNone && isRemote (s.ownWindow (leafPa w.level w.val va.toNat))
/-- The address phase of red.det: a home off the package is permission 0x06, beside any but a lower cause (R154, R163). -/
def detFaults (s : State) (a : Agent) (ps : List Checked) (fs : List LaneFault) : List LaneFault :=
  let off := (ps.filter fun p => p.loc.remote).map fun p =>
    laneFault p.lane { cause := 6, code := 0, psize := p.target.psize } p.va
  off ++ fs.map fun f => if 6 < f.cause && f.held.isNone && s.offPackage a f.addr then { f with cause := 6 } else f
end State

/-- An instruction that moves partials waits for the fragment's older acquires and loads (R153, R292). -/
def afterLoads (s : State) (a : Agent) (k : State → State) : State :=
  match s.acquirePending a, s.olderLoad a with
  | some id, _ | none, some id => s.wait a (.request id)
  | none, none => k s

/-- red.det (R163): contributions fold in ascending lane order and no location changes; a home outside the package raises
0x06; through a mapping of scratch the sum is made in the bank (R174). -/
def execRedDet (h : Hdr) (f : MForm) (s : State) : Host.Outcome State Fault Refusal :=
  withAgent s fun a =>
    let part := s.guardMask a h
    if part = 0#64 then s.retire a h
    else
      match a with
      | .ks _ => s.retire a h
      | .frag g e =>
        let n := szBytes f.size
        let t := atomTy f
        let (av, s) := readSrc s a f.a true 0#6
        let (s, data) := readRun s g e (dstRegs f.d.idx.toNat (szRegs f.size))
        let spec : MemSpec :=
          { op := .atom 0x0E t false, space := .global, size := n, order := f.order, scope := f.scope, pol := f.policy,
            lanes := (lanesOf part).map fun l =>
              { lane := l, off := 0, addr := exactAddr (lane av l).toNat 0 f.off, data := (data l).take n, cmp := [] },
            dst := none, regs := szRegs f.size, part := part, one := false, single := none, counted := true }
        let go := fun (s : State) =>
          if 63 ≤ s.stcOf a then s.hold a
          else
            let (s, ps, fs) := s.addressPhase a spec spec.lanes
            match s.detFaults a ps fs, ps.filterMap (fun p => s.fillWaits (s.agentId a) p.target), s.replyFaults a spec.op ps with
            | x :: fs, _, _ => s.raiseLanes a .write none (x :: fs)
            | [], pa :: r, _ => s.awaitHomes a (pa, 128, false) ((pa :: r).map fun x => (x, 128, false))
            | [], [], x :: r => s.raiseLanes a .write none (x :: r)
            | [], [], [] =>
              let s := ps.foldl (fun (s : State) p => s.fillTarget (s.agentId a) p.target) s
              let homes := ps.filterMap fun p => match p.loc with
                | .mem pa _ _ => some (pa, BitVec.ofNat 64 (natOfBytes p.data))
                | _ => none
              let s := s.bufferRoom g (n == 8) (homes.map (·.1)) (2 * bufferEntries)
              let s := homes.foldl (fun (s : State) p => s.foldPartial g p.1 (n == 8) p.2) s
              let s := s.noteLines a (ps.map (·.loc))
              let banks := (ps.map (·.toLaneReq)).filter fun p => match p.loc with | .bank _ _ _ => true | _ => false
              let (_, s) := s.addReq a spec banks 0 false
              (s.lastReads a (lastReadRegs [{ src := f.a, wide := true, lr := h.lra }]) []).retire a h
        afterLoads s a fun s => if releases f.order then s.releaseThen a f.scope go else go s

/-- red.flush.drain (R164). -/
def execRedFlushDrain (h : Hdr) (_f : NForm) (s : State) : Host.Outcome State Fault Refusal :=
  withAgent s fun a =>
    match a with
    | .frag g _ => if s.guardOnce a h then afterLoads s a fun s => (s.drainGroup g).retire a h else s.retire a h
    | .ks _ => s.retire a h

/-- red.flush.commit (R164): D := NF, and the fragment has acquired the sums. -/
def execRedFlushCommit (h : Hdr) (f : NForm) (s : State) : Host.Outcome State Fault Refusal :=
  withAgent s fun a =>
    if s.guardOnce a h then
      afterLoads s a fun s =>
        let l := s.launchIdOf a
        match s.commitStaged l with
        | (s, .error pa) => s.wait a (.home pa 4 true)
        | (s, .ok v) =>
          let nf := ((s.launches.get? l).map (·.nf)).getD false
          let s := (s.noteSeen a (s.maskOfAgent a) v).raiseCt (s.coreOf a) v
          (s.writeScl a f.d.idx.toNat false (if nf then 1#64 else 0#64)).retire a h
    else s.retire a h

/-! Line leases (R165, R166). -/
/-- LLIM of LEASECTL (R165). -/
def llim (c : W32) : Nat := max 64 (min 4096 (c.toNat % 2 ^ 13))
def leasesPerGroup : Nat := 4

namespace State
/-- The grant of a line lease to a group (R166, R299): it ends by itself LLIM clocks later. -/
def grantLease (s : State) (g pa grain : Nat) : State × Nat :=
  s.grantHold g pa grain (s.clk + llim (((s.grps.get? g).map (·.leasectl)).getD 0#32)) false
/-- Line leases that a group holds. -/
def leaseCount (s : State) (g : Nat) : Nat := (((s.grps.get? g).map (·.leases)).getD []).countP fun l => !l.near
end State

/-- The address of a lease instruction or of wait.addr (R166, R167). -/
def onceAddr (s : State) (a : Agent) (f : MForm) : W64 := wrapAddr (exactAddr (readScl s a f.a true).toNat 0 f.off)

/-- lease.acq (R166). -/
def execLeaseAcq (h : Hdr) (f : MForm) (s : State) : Host.Outcome State Fault Refusal :=
  withAgent s fun a =>
    match a with
    | .ks _ => s.retire a h
    | .frag g _ =>
      if !s.guardOnce a h then s.retire a h
      else
        match s.acquirePending a with
        | some id => s.wait a (.request id)
        | none =>
          let va := onceAddr s a f
          let done := fun (s : State) loc b =>
            (((s.noteLines a [loc]).pset a f.d.idx.toNat b).addBusy a [(2, f.d.idx.toNat)] 1).retire a h
          match s.checkOnce a va 1 .read f.policy with
          | (s1, .error x) => s1.raiseAt a .read x va
          | (s1, .ok t) =>
            match t.loc with
            | .mem pa grain pol =>
              let line := pa / 128
              if s1.leases g line then done s1 t.loc true
              else if leasesPerGroup ≤ s1.leaseCount g || pol != .dflt || isRemote pa then done s1 t.loc false
              else if s1.dirConflict (s1.grpId g) true (line * 128) 128 then
                (s1.recallFor (s1.grpId g) true (line * 128) 128).wait a (.lease line)
              else
                match s1.homeError pa 1 .exclusive with
                | some c => s1.raiseAt a .read { cause := c, code := 0, psize := t.psize } va
                | none =>
                  match s1.dirRoom (2 * line) with
                  | (s2, false) => s2.wait a (.lease line)
                  | (s2, true) =>
                    let (s3, w) := s2.grantLease g pa grain
                    done ((s3.noteSeen a (s3.maskOfAgent a) w).acquireCt a f.order f.scope w) t.loc true
            | loc => done s1 loc false

/-- lease.rel (R166): D tells whether the lease was broken. -/
def execLeaseRel (h : Hdr) (f : MForm) (s : State) : Host.Outcome State Fault Refusal :=
  withAgent s fun a =>
    match a with
    | .ks _ => s.retire a h
    | .frag g _ =>
      if !s.guardOnce a h then s.retire a h
      else if !s.quiet a then s.wait a .release
      else
        let va := onceAddr s a f
        let go := fun (s : State) =>
          match s.checkOnce a va 1 .read f.policy with
          | (s1, .error x) => s1.raiseAt a .read x va
          | (s1, .ok t) =>
            let (held, s2) := match t.loc with
              | .mem pa _ _ => if s1.leases g (pa / 128) then (true, s1.returnLease g (pa / 128)) else (false, s1)
              | _ => (false, s1)
            (((s2.noteLines a [t.loc]).pset a f.d.idx.toNat (!held)).addBusy a [(2, f.d.idx.toNat)] 1).retire a h
        if releases f.order then s.releaseThen a f.scope go else go s

/-! wait.addr (R167). -/
namespace State
/-- A waiter of a location in mapped scratch (R174): no home holds its grain, so that it ends by its time or with its
group. -/
def addBankWatch (s : State) (g e : Nat) : Nat × State :=
  let (id, s) := s.takeId
  (id, { s with watches := s.watches ++ [{ id := id, who := .frag g e, slice := 256, grain := 0, size := 0, overflow := false,
                                           expiry := s.waitExpiry g, cause := none, woken := false }] })

/-- A wait.addr whose location is at a home of this device, no other holder having the line (R167). A hold of its own group
ends before the watch is registered: that of near atomics at once, a line lease when it is released or breaks. -/
def waitHere (s : State) (g e : Nat) (f : MForm) (t : Target) (va : W64) (want : W64) (pa grain : Nat) (pol : Policy)
    (done : State → Nat → State) : State :=
  let a := Agent.frag g e
  let n := szBytes f.size
  match s.homeError pa n .read with
  | some c => s.raiseAt a .read { cause := c, code := 0, psize := t.psize } va
  | none =>
    let now := BitVec.ofNat 64 (natOfBytes (s.seenBytes a pa n))
    let line := pa / 128
    if now = want && s.leases g line then (s.recallHalf (2 * line)).wait a (.ownLease line)
    else
      let s := if now = want then s.returnLease g line else s
      let (s, _, wts, _) := s.homeRead pa n grain none pol (s.grpId g)
      let s := ((s.noteSeen a (s.maskOfAgent a) wts).acquireCt a f.order f.scope wts).noteLines a [t.loc]
      if now != want then done s 0
      else
        let (id, s) := s.addWatch (.frag g e) pa grain (s.waitExpiry g)
        s.wait a (.address id)

/-- A wait.addr that begins: it compares and registers in one step, at a remote home by a request (R167, R413). -/
def waitStart (s : State) (g e : Nat) (f : MForm) (done : State → Nat → State) : State :=
  let a := Agent.frag g e
  let n := szBytes f.size
  let va := onceAddr s a f
  let want := readScl s a f.b (n == 8)
  match s.checkOnce a va n .read f.policy with
  | (s, .error x) => s.raiseAt a .read x va
  | (s, .ok t) =>
    match t.loc with
    | .mem pa grain pol =>
      if s.dirConflict (s.grpId g) false pa n then (s.recallFor (s.grpId g) false pa n).wait a (.home pa n false)
      else if isRemote pa then
        let spec : MemSpec :=
          { op := .watch want f.d.idx.toNat, space := .global, size := n, order := f.order, scope := f.scope, pol := pol,
            lanes := [], dst := none, regs := 0, part := 0#64, one := true, single := some (s.maskOfAgent a), counted := false }
        let (id, s) := (s.noteLines a [t.loc]).addReq a spec (unitsOf (lowLane (s.maskOfAgent a)) 0 t.loc n va [] []) 0 true
        s.wait a (.request id)
      else s.waitHere g e f t va want pa grain pol done
    | .bank t' o _ =>
      let s := s.noteLines a []
      if BitVec.ofNat 64 (natOfBytes (s.scratchRead t' o n)) != want then done s 0
      else
        let (id, s) := s.addBankWatch g e
        s.wait a (.address id)
    | .none => done s 0
end State

/-- wait.addr (R167): once woken it returns the cause. -/
def execWaitAddr (h : Hdr) (f : MForm) (s : State) : Host.Outcome State Fault Refusal :=
  withAgent s fun a =>
    match a with
    | .ks _ => s.retire a h
    | .frag g e =>
      let d := f.d.idx.toNat
      let done := fun (s : State) (c : Nat) =>
        ((s.writeScl a d false (BitVec.ofNat 64 c)).addBusy a [(1, d)] 1).retire a h
      let start := fun (s : State) =>
        if !s.guardOnce a h then s.retire a h
        else
          match s.acquirePending a with
          | some id => s.wait a (.request id)
          | none => if !s.quiet a then s.wait a .release else s.waitStart g e f done
      match s.stOf a with
      | .waiting (.address id) =>
        match s.watches.find? (·.id == id) with
        | some w =>
          match w.woken, w.cause with
          | true, some c => done { s with watches := s.watches.filter (·.id != id) } c
          | _, _ => s
        | none => start s
      | .waiting (.request id) =>
        if ((s.reqs.get? id).map (·.blocking)) = some true then s else start s
      | _ => start s

end Sys2Proof.Machine
end

