-- ==== Sys2Proof/Machine/FenceBank.lean ====
section
/-! DEFINITION. Class 0xA: fences (R168-R170), bank roles (R171, R172, R314-R321), sharing groups (R173) and mapped
scratch (R174, R175). -/
namespace Sys2Proof.Machine

namespace State
/-- Every earlier read of an agent has its value. -/
def readsDone (s : State) (a : Agent) : Bool := (s.reqsOf a).all fun p => !p.2.op.inLd || Req.served p.2
/-- Every earlier write of an agent has taken effect. -/
def writesDone (s : State) (a : Agent) : Bool := (s.reqsOf a).all fun p => !p.2.op.writes || Req.served p.2
/-- The acquire part of a fence (R298). -/
def acquireAll (s : State) (a : Agent) (sc : Scope) : State :=
  match a with
  | .frag _ _ => if wideScope sc then s.raiseCt (s.coreOf a) (s.acqTs a (s.maskOfAgent a)) else s
  | .ks _ => s
/-- Code time of every core of a scope's instance rises (R305). -/
def raiseKt (s : State) (core : Nat) (sc : Scope) (p : Nat) : State :=
  let cores := match sc with
    | .grp | .core => [core]
    | .clu => (List.range 4).map (cluOfCore core * 4 + ·)
    | _ => List.range 192
  let clus := match sc with
    | .grp | .core => []
    | .clu => [cluOfCore core]
    | _ => List.range 48
  let s := cores.foldl (fun (s : State) c => s.modCore c fun C => { C with kt := max C.kt p }) s
  clus.foldl (fun (s : State) c => s.modClu c fun C => { C with kt := max C.kt p }) s
/-- The published bits of sectors in executable-capable frames are set (R169): the largest of their times. -/
def publish (s : State) (secs : List (Nat × Nat)) : State × Nat :=
  let es := secs.filter fun x => s.exc (x.1 * 32)
  ({ s with published := NatSet.addAll s.published (es.map (·.1)) }, es.foldl (fun t x => max t x.2) 0)
end State

/-- fence (R168). -/
def execFence (h : Hdr) (f : MForm) (s : State) : Host.Outcome State Fault Refusal :=
  withAgent s fun a =>
    if !s.guardOnce a h then s.retire a h
    else
      let acq := fun (s : State) => if acquires f.order then s.acquireAll a f.scope else s
      if acquires f.order && !s.readsDone a then s.wait a .release
      else if releases f.order then s.releaseThen a f.scope fun s => (acq s).retire a h
      else (acq s).retire a h

/-- fence.code (R169, R305): the fragment's sectors written since its previous one are published, and code time rises by the
largest visibility time among those writes. What the group holds of their lines returns to the homes first (R166, R405). -/
def execFenceCode (h : Hdr) (f : MForm) (s : State) : Host.Outcome State Fault Refusal :=
  withAgent s fun a =>
    match a with
    | .ks _ => s.retire a h
    | .frag g _ =>
      if !s.guardOnce a h then s.retire a h
      else if !s.writesDone a then s.wait a .release
      else
        let m := s.maskOfAgent a
        let ws := ((s.grps.get? g).map (·.written)).getD []
        let secs := (ws.filter fun p => p.1 &&& m != 0#64).flatMap (·.2)
        match (secs.map (·.1 / 4)).find? (s.leases g) with
        | some line => (s.recallHalf (2 * line)).wait a (.ownLease line)
        | none =>
          let s := ((secs.map (·.1 / 4)).eraseDups).foldl (fun (s : State) line => s.returnLease g line) s
          let (s, p) := s.publish secs
          let left := (ws.map fun p => (p.1 &&& ~~~m, p.2)).filter fun p => p.1 != 0#64
          let s := s.modGrp g fun G => { G with written := left }
          (s.raiseKt (s.coreOf a) f.scope p).retire a h

/-- fence.eng (R170): every earlier write has taken effect before a later command is accepted. -/
def execFenceEng (h : Hdr) (_f : MForm) (s : State) : Host.Outcome State Fault Refusal :=
  withAgent s fun a =>
    if s.guardOnce a h && !s.writesDone a then s.wait a .release else s.retire a h

/-! Bank roles. -/
/-- The role of a code (R171). -/
def roleOf (n : Nat) : Role := if n = 1 then .scratch else if n = 2 then .fifo else .cache
/-- Banks of a mask, ascending. -/
def banksOf (m : W32) : List Nat := (List.range 32).filter fun k => m.getLsbD k

/-- Whether the banks are the last of an allocation, free of mappings, in a team that shares nothing (R321). -/
def removable (T : Task) (ks : List Nat) : Bool :=
  let keep := T.banks.length - ks.length
  (T.banks.drop keep).all ks.contains && ks.all T.banks.contains &&
    T.maps.all (fun m => m.off + m.len ≤ keep * bankBytes) && T.share.isNone

namespace State
/-- The status of a bank.cfg before any bank changes (R171). -/
def bankStatus (s : State) (t : Nat) (T : Task) (ks : List Nat) (role : Role) : Nat :=
  let c := s.core T.core
  let rights := s.bankRights t
  let leaving := ks.filter fun k => (c.bank k).role == .scratch && role != .scratch
  if ks.any fun k => !rights.contains k then 1
  else if ks.any fun k => (c.bank k).role == .fifo && role != .fifo && !(c.bank k).fifo.isEmpty then 2
  else if !leaving.isEmpty && !removable T leaving then 3
  else if ks.any fun k => (match (c.bank k).role with
      | .switching _ => (c.bank k).holder != some t
      | _ => false) then 4
  else 0

/-- Incomplete copies of a team that write scratch in a bank (R318), by channel and value. -/
def copiesTo (T : Task) (k : Nat) : List (Nat × Nat) :=
  let place := (List.range T.banks.length).filter fun i => T.banks[i]? == some k
  let hits := fun (x : W64) (n : Nat) => place.any fun i => x.toNat < (i + 1) * bankBytes && i * bankBytes < x.toNat + n
  T.chs.flatMap fun p => (p.2.cmds.filter fun c =>
    c.ended.isNone && (match c.kind with
      | .plain dsp _ | .fill _ dsp | .gather dsp => dsp && hits c.dst c.len
      | _ => false)).map fun c => (p.1, c.value)
/-- Whether a place lies in a bank of a task. -/
def onBank (t : Nat) (T : Task) (k : Nat) : Place → Bool
  | .bank t' o _ => t' == t && (scratchAt T o).map (·.1) == some k
  | _ => false
/-- Matrix commands under way that read a bank of a team (R210, R318), by context and value. -/
def matsOn (s : State) (t : Nat) (T : Task) (k : Nat) : List (Nat × Nat) :=
  s.ks.flatMap fun c => (c.2.mq.filter fun q => q.started && q.reads.any fun r => onBank t T k r.loc).map fun q => (c.1, q.value)

/-- Whether the bank controller may carry out a role change (R318): what had begun on the bank when it arrived is over. -/
def switchReady (s : State) (w : Switch) : Bool :=
  match s.tasks.get? w.task with
  | none => true
  | some T =>
    !(s.reqs.any fun p => p.1 < w.ticket && p.2.lanes.any fun u => u.got.isNone && onBank w.task T w.bank u.loc) &&
      (w.copies.all fun c => !(((T.chs.get? c.1).map (·.cmds)).getD []).any fun d => d.value == c.2 && d.ended.isNone) &&
      w.mats.all fun m => !(s.ksCtx m.1).mq.any fun q => q.value == m.2
/-- Whether the quiesce of a switching bank is over: in its turn (R318). -/
def quiesced (s : State) (core k : Nat) : Bool :=
  match (s.core core).switches with
  | w :: _ => w.bank == k && s.switchReady w
  | [] => false

/-- Place a role change behind those that arrived before it; in one clock by rank (R318). -/
def addSwitch (w : Switch) : List Switch → List Switch
  | [] => [w]
  | x :: r => if w.clk = x.clk && w.rank < x.rank then w :: x :: r else x :: addSwitch w r
/-- Banks of a core begin to take a role for a task, one after the other: each is in the switching role from now on (R318).
`rank` orders the requests of one clock: admission first, then bank.cfg by team slot. Answers the tickets. -/
def beginSwitch (s : State) (core t role rank : Nat) (ks : List Nat) : State × List Nat :=
  ks.foldl (fun (acc : State × List Nat) k =>
    let (id, s) := acc.1.takeId
    let T := s.tasks.get? t
    let w : Switch := { ticket := id, clk := s.clk, rank := rank, bank := k, role := role, task := t,
                        copies := (T.map fun T => copiesTo T k).getD [], mats := (T.map fun T => s.matsOn t T k).getD [] }
    (s.modCore core fun c => { (c.setBank k { c.bank k with role := .switching role, holder := some t }) with
      switches := addSwitch w c.switches }, acc.2 ++ [id])) (s, [])

/-- The switch point of a bank (R317, R318, R320): a bank admitted with its task is already in the allocation, and reads as
zero, or as the task's image gives, since then. -/
def switchPoint (s : State) (core k : Nat) : State :=
  match (s.core core).switches with
  | [] => s
  | w :: rest =>
    let admitted := w.role = 1 && (s.tasks.get? w.task).any fun T => T.banks.contains k
    let s := s.modCore core fun c =>
      let c' := if admitted then (c.setBank k { c.bank k with role := .scratch }).dropWay k
        else c.takeRole k (roleOf w.role) (if w.role = 0 then none else some w.task)
      { c' with switches := rest }
    s.modTask w.task fun T =>
      if w.role = 1 then
        let bs := if T.banks.contains k then T.banks else T.banks ++ [k]
        { T with banks := bs, scratch := if T.banks.contains k then T.scratch else bankBytes * bs.length }
      else if T.banks.contains k && T.core = core then
        let bs := T.banks.filter (· != k)
        { T with banks := bs, scratch := min T.scratch (bankBytes * bs.length) }
      else T

/-- The order in which the banks of one bank.cfg switch: those of the allocation from its end on, then the others ascending. -/
def switchOrder (T : Task) (ks : List Nat) : List Nat :=
  (T.banks.reverse.filter ks.contains) ++ ks.filter fun k => !T.banks.contains k
/-- Role changes of a team at its core that are not over. -/
def ownSwitches (s : State) (core t : Nat) : List Nat := ((s.core core).switches.filter (·.task == t)).map (·.ticket)

/-- bank.cfg with its role (R171): a status, or the banks switch and the fragment waits for every switch point of them. A
team's earlier role changes come first. -/
def bankCfg (s : State) (a : Agent) (h : Hdr) (d : Nat) (mask : W32) (role : Nat) : State :=
  let done := fun (s : State) n => ((s.writeScl a d false (BitVec.ofNat 64 n)).addBusy a [(1, d)] 1).retire a h
  match s.taskIdOf a, s.taskOf a with
  | some t, some T =>
    match s.stOf a with
    | .waiting (.banks _ true) => done s 0
    | _ =>
      match s.ownSwitches T.core t with
      | x :: r => s.wait a (.banks (x :: r) false)
      | [] =>
        let ks := banksOf mask
        match s.bankStatus t T ks (roleOf role), ks.filter fun k => ((s.core T.core).bank k).role != roleOf role with
        | 0, k :: r =>
          let (s, ids) := s.beginSwitch T.core t role (1 + T.slot) (switchOrder T (k :: r))
          s.wait a (.banks ids true)
        | n, _ => done s n
  | _, _ => s.retire a h
end State

/-- bank.cfg with the role in a register (R171). -/
def execBankCfg (h : Hdr) (f : NForm) (s : State) : Host.Outcome State Fault Refusal :=
  withAgent s fun a =>
    if !s.guardOnce a h then s.retire a h
    else
      let role := (readScl s a f.b false).toNat
      if 2 < role then s.raisePlain a 2 3 else s.bankCfg a h f.d.idx.toNat (lo32 (readScl s a f.a false)) role

/-- bank.cfg with an immediate role (R171). -/
def execBankCfgImm (h : Hdr) (f : IForm) (s : State) : Host.Outcome State Fault Refusal :=
  withAgent s fun a =>
    if !s.guardOnce a h then s.retire a h
    else if 2 < f.imm.toNat then s.raisePlain a 2 3
    else s.bankCfg a h f.d.idx.toNat (lo32 (readScl s a f.a false)) f.imm.toNat

/-- BANK_SWITCH_POINT (R318). -/
def execBankSwitchPoint (core bank : Nat) (s : State) : Host.Outcome State Fault Refusal :=
  .next (if s.quiesced core bank then s.switchPoint core bank else s)

/-- bank.qry (R172). -/
def execBankQry (h : Hdr) (f : NForm) (s : State) : Host.Outcome State Fault Refusal :=
  withAgent s fun a =>
    sclOp s a h f.d.idx.toNat true 1 fun s =>
      let c := s.core (s.coreOf a)
      BitVec.ofNat 64 ((List.range 32).foldr (fun k n => n * 4 + (c.bank k).role.code) 0)

/-! Sharing groups (R173). -/
namespace State
def setShare (s : State) (clu k : Nat) (v : List (Nat × Nat) × Nat) : State :=
  s.modClu clu fun c => { c with shares := if v.1.isEmpty then c.shares.erase k else c.shares.set k v }
/-- A team leaves its sharing group; an empty group uses its slots anew. -/
def leaveShare (s : State) (t : Nat) : State :=
  match s.tasks.get? t with
  | none => s
  | some T =>
    match T.share with
    | none => s
    | some (k, _) =>
      let clu := cluOfCore T.core
      let (ms, n) := s.shareOf clu k
      (s.setShare clu k (ms.filter (·.2 != t), n)).modTask t fun T => { T with share := none }
/-- Accesses under way to a team's scratch, through the window or not. -/
def windowUnderWay (s : State) (t : Nat) : Bool :=
  s.reqs.any fun p => p.2.lanes.any fun u => u.got.isNone && (match u.loc with
    | .bank t' _ _ => t' == t
    | _ => false)
end State

/-- share.join (R173). -/
def execShareJoin (h : Hdr) (f : NForm) (s : State) : Host.Outcome State Fault Refusal :=
  withAgent s fun a =>
    if !s.guardOnce a h then s.retire a h
    else
      let d := f.d.idx.toNat
      let done := fun (s : State) (v : Nat) => ((s.writeScl a d false (BitVec.ofNat 64 v)).addBusy a [(1, d)] 1).retire a h
      match s.taskIdOf a, s.taskOf a with
      | some t, some T =>
        let k := (readScl s a f.a false).toNat % 16
        match T.share with
        | some (k', slot) => done s (if k = k' then slot else 0xFFFFFFFE)
        | none =>
          let (ms, n) := s.shareOf (s.cluOf a) k
          if 16 ≤ n then done s 0xFFFFFFFF
          else done ((s.setShare (s.cluOf a) k (ms ++ [(n, t)], n + 1)).modTask t fun T => { T with share := some (k, n) }) n
      | _, _ => s.retire a h

/-- share.leave (R173). -/
def execShareLeave (h : Hdr) (_f : NForm) (s : State) : Host.Outcome State Fault Refusal :=
  withAgent s fun a =>
    if !s.guardOnce a h then s.retire a h
    else
      match s.taskIdOf a with
      | some t => if s.windowUnderWay t then s.wait a .shareLeave else (s.leaveShare t).retire a h
      | none => s.retire a h

/-! Mapped scratch. -/
/-- Whether two ranges share a byte. -/
def rangesMeet (x n y m : Nat) : Bool := x < y + m && y < x + n

/-- The status of sp.map (R174). -/
def mapStatus (T : Task) (va off len : Nat) : Nat :=
  if T.maps.any fun m => rangesMeet va len m.va.toNat m.len || rangesMeet off len m.off m.len then 1
  else if 8 ≤ T.maps.length then 2
  else if T.scratch < off + len then 3
  else if len = 0 || len % 128 != 0 then 4
  else 0

/-- sp.map (R174). -/
def execSpMap (h : Hdr) (f : NForm) (s : State) : Host.Outcome State Fault Refusal :=
  withAgent s fun a =>
    if !s.guardOnce a h then s.retire a h
    else
      let va := readScl s a f.a true
      let off := (readScl s a f.b false).toNat
      let len := (readScl s a f.c false).toNat
      let d := f.d.idx.toNat
      let fault := fun (x : W64) => s.raiseAt a .fetch { cause := 4, code := 0, psize := 4096 } x
      if va.toNat % 128 != 0 then fault va
      else if off % 128 != 0 then fault (BitVec.ofNat 64 off)
      else
        match s.taskIdOf a, s.taskOf a with
        | some t, some T =>
          let st := mapStatus T va.toNat off len
          let m : SMap := { va := va, off := off, len := len, valid := [], dirty := [] }
          let s := if st = 0 then s.modTask t fun T => { T with maps := T.maps ++ [m] } else s
          ((s.writeScl a d false (BitVec.ofNat 64 st)).addBusy a [(1, d)] 1).retire a h
        | _, _ => s.retire a h

namespace State
/-- The dirty chunks of a mapping that overlap a range, by number. -/
def dirtyIn (m : SMap) (lo n : Nat) : List Nat := m.dirty.filter fun c => rangesMeet (m.va.toNat + 128 * c) 128 lo n

/-- Write back chunks named by mapping and number (R175): the chunks of a page that faults are not written. Answers the
visibility time and the faults. -/
def writeBack (s : State) (t asid : Nat) (sup : Bool) (who : W32) (cs : List (Nat × Nat)) :
    State × Nat × List (XFault × W64) :=
  let vaOf := fun (p : Nat × Nat) => ((s.tasks.get? t).bind fun T => T.maps[p.1]?).map (fun m => chunkVa m p.2) |>.getD 0#64
  let bad := cs.filterMap fun p => match s.writeBackChunk t p.1 p.2 asid sup who with
    | (_, .error f) => some (f, vaOf p)
    | _ => none
  let inBad := fun p => bad.any fun b => b.2.toNat / b.1.psize == (vaOf p).toNat / b.1.psize
  let (s, v) := (cs.filter fun p => !inBad p).foldl (fun (acc : State × Nat) p =>
    match acc.1.writeBackChunk t p.1 p.2 asid sup who with
    | (s, .ok v) => (s, max acc.2 v)
    | (s, .error _) => (s, acc.2)) (s, 0)
  (s, v, bad)

/-- What the write-back of chunks waits for: lines that another agent holds are recalled first (R402). -/
def recallChunks (s : State) (t asid : Nat) (sup : Bool) (who : W32) (cs : List (Nat × Nat)) : State × Option Wait :=
  cs.foldl (fun (acc : State × Option Wait) p =>
    match (s.tasks.get? t).bind fun T => T.maps[p.1]? with
    | none => acc
    | some m =>
      match acc.1.translate asid sup (chunkVa m p.2) .write with
      | (s, .ok x) =>
        if s.dirConflict who true x.pa 128 then (s.recallFor who true x.pa 128, some (.home x.pa 128 true)) else acc
      | (s, .error f) => match f.held with
        | some w => (s, some w)
        | none => acc) (s, none)

/-- A write-back by an instruction: its faults are precise (R154, R175). -/
def writeBackBy (s : State) (a : Agent) (t : Nat) (cs : List (Nat × Nat)) (k : State → State) : State :=
  match s.recallChunks t (s.asidOf a) (s.supOf a) (s.agentId a) cs with
  | (s, some w) => s.wait a w
  | (_, none) =>
    let (s, v, bad) := s.writeBack t (s.asidOf a) (s.supOf a) (s.agentId a) cs
    let s := s.noteVis a (s.maskOfAgent a) v
    match bad with
    | [] => k s
    | _ => s.raiseLanes a .write (some (s.maskOfAgent a)) (bad.map fun b => laneFault 0 b.1 b.2)
end State

/-- sp.unmap (R175). -/
def execSpUnmap (h : Hdr) (f : NForm) (s : State) : Host.Outcome State Fault Refusal :=
  withAgent s fun a =>
    if !s.guardOnce a h then s.retire a h
    else if !s.quiet a then s.wait a .release
    else
      let va := readScl s a f.a true
      let d := f.d.idx.toNat
      let done := fun (s : State) (n : Nat) => ((s.writeScl a d false (BitVec.ofNat 64 n)).addBusy a [(1, d)] 1).retire a h
      match s.taskIdOf a, s.taskOf a with
      | some t, some T =>
        match ((List.range T.maps.length).zip T.maps).find? fun p => p.2.va == va with
        | none => done s 1
        | some (i, m) =>
          let gone := fun (s : State) => done (s.modTask t fun T => { T with maps := T.maps.eraseIdx i }) 0
          if f.op = 1#5 then gone s else s.writeBackBy a t (m.dirty.map fun c => (i, c)) gone
      | _, _ => s.retire a h

/-- sp.wb (R175). -/
def execSpWb (h : Hdr) (f : NForm) (s : State) : Host.Outcome State Fault Refusal :=
  withAgent s fun a =>
    if !s.guardOnce a h then s.retire a h
    else if !s.quiet a then s.wait a .release
    else
      let lo := (readScl s a f.a true).toNat
      let n := (readScl s a f.b false).toNat
      match s.taskIdOf a, s.taskOf a with
      | some t, some T =>
        let cs := ((List.range T.maps.length).zip T.maps).flatMap fun p => (State.dirtyIn p.2 lo n).map fun c => (p.1, c)
        s.writeBackBy a t cs fun s => s.retire a h
      | _, _ => s.retire a h

/-- sp.inv (R175). -/
def execSpInv (h : Hdr) (f : NForm) (s : State) : Host.Outcome State Fault Refusal :=
  withAgent s fun a =>
    if !s.guardOnce a h then s.retire a h
    else if !s.quiet a then s.wait a .release
    else
      let lo := (readScl s a f.a true).toNat
      let n := (readScl s a f.b false).toNat
      let keep := fun (m : SMap) c => !(rangesMeet (m.va.toNat + 128 * c) 128 lo n)
      match s.taskIdOf a with
      | some t =>
        (s.modTask t fun T => { T with maps := T.maps.map fun m =>
          { m with valid := m.valid.filter (keep m), dirty := m.dirty.filter (keep m) } }).retire a h
      | none => s.retire a h

end Sys2Proof.Machine
end

