-- ==== Sys2Proof/Machine/Engine.lean ====
section
/-! DEFINITION. Engine contexts (R177-R190): timelines, channels, the acceptance of commands, and the Mortar units that
execute copy chunks (R183, R338). -/
namespace Sys2Proof.Machine

/-! Timelines (R177, R178). -/
namespace Timeline
def failBit (t : Timeline) : Bool := t.err.getLsbD 31
/-- A failure is recorded: FAIL, NFAIL, STF with FIRST, STL. -/
def fail (t : Timeline) (v st : Nat) : Timeline :=
  let n := min 127 (t.err.toNat / 2 ^ 24 % 128 + 1)
  let first := if t.failBit then min t.first v else v
  let stf := if t.failBit && t.first < v then t.err.toNat / 2 ^ 8 % 256 else st
  { t with err := BitVec.ofNat 32 (2 ^ 31 + n * 2 ^ 24 + stf * 2 ^ 8 + st), first := first }
/-- V moves over completed commands. -/
def advance : Nat → Timeline → Timeline
  | 0, t => t
  | n + 1, t =>
    match t.done.find? fun p => p.1 == t.v + 1 with
    | some _ => advance n { t with v := t.v + 1, done := t.done.filter fun p => p.1 != t.v + 1 }
    | none => t
/-- A command completes with a status, a visibility time and the sectors it wrote. -/
def complete (t : Timeline) (v st ts : Nat) (wrote : NatSet) : Timeline :=
  let t := if st = 0 then t else t.fail v st
  let t := { t with done := t.done ++ [(v, st)], ts := t.ts ++ [(v, ts)], wrote := t.wrote ++ [(v, wrote)] }
  advance t.done.length t
/-- The release timestamp of the commands up to n (R302), and the sectors they wrote, each with its command's. -/
def tsTo (t : Timeline) (n : Nat) : Nat := t.ts.foldl (fun m p => if p.1 ≤ n then max m p.2 else m) 0
def wroteTo (t : Timeline) (n : Nat) : Assoc Nat :=
  t.wrote.foldl (fun m p => if p.1 ≤ n then
    State.joinTimes m p.2 ((t.ts.filter (·.1 == p.1)).foldl (fun x q => max x q.2) 0) else m) []
end Timeline

/-! Contexts. -/
namespace State
/-- The task that a channel serves. -/
def chanTask (s : State) : Chan → Option Nat
  | .team t _ => some t
  | .key k => (s.ksCtx k).task
def getChan (s : State) : Chan → Channel
  | .team t ch => ((s.tasks.get? t).map fun T => T.chs.getD ch emptyChannel).getD emptyChannel
  | .key k => (s.ksCtx k).ch0
def modChan (s : State) (c : Chan) (f : Channel → Channel) : State :=
  match c with
  | .team t ch => s.modTask t fun T => { T with chs := T.chs.set ch (f (T.chs.getD ch emptyChannel)) }
  | .key k => s.modKs k fun x => { x with ch0 := f x.ch0 }
/-- A task's counter. -/
def taskTl (s : State) (t n : Nat) : Timeline := ((s.tasks.get? t).map fun T => T.tcs.getD n emptyTimeline).getD emptyTimeline
def modTaskTl (s : State) (t n : Nat) (f : Timeline → Timeline) : State :=
  s.modTask t fun T => { T with tcs := T.tcs.set n (f (T.tcs.getD n emptyTimeline)) }
/-- The counter of a channel. -/
def chanTl (s : State) : Chan → Timeline
  | .team t ch => s.taskTl t ch
  | .key k => (s.ksCtx k).tc
def modChanTl (s : State) (c : Chan) (f : Timeline → Timeline) : State :=
  match c with
  | .team t ch => s.modTaskTl t ch f
  | .key k => s.modKs k fun x => { x with tc := f x.tc }
/-- The counter that a fragment or a context names (R177): tc16 is that of the bound Keystone context. -/
def counterOf (s : State) (a : Agent) (n : Nat) : Timeline :=
  match a with
  | .ks k => (s.ksCtx k).tc
  | .frag _ _ =>
    match s.taskIdOf a with
    | some t => if n = 16 then ((s.taskOf a).bind (·.ks)).map (fun k => (s.ksCtx k).tc) |>.getD emptyTimeline
                else s.taskTl t n
    | none => emptyTimeline
def modCounter (s : State) (a : Agent) (n : Nat) (f : Timeline → Timeline) : State :=
  match a with
  | .ks k => s.modKs k fun x => { x with tc := f x.tc }
  | .frag _ _ =>
    match s.taskIdOf a with
    | some t =>
      if n = 16 then (match (s.taskOf a).bind (·.ks) with
        | some k => s.modKs k fun x => { x with tc := f x.tc }
        | none => s)
      else s.modTaskTl t n f
    | none => s
/-- The channel that an instruction of an agent names (R180, R186). -/
def chanOf (s : State) (a : Agent) (n : Nat) : Chan :=
  match a with
  | .ks k => .key k
  | .frag _ _ => .team ((s.taskIdOf a).getD 0) n
/-- Address space and privilege of an engine context (R257). -/
def chanAsid (s : State) (c : Chan) : Nat :=
  (((s.chanTask c).bind s.tasks.get?).bind s.launchOf).map (fun l => if l.sup then 0 else l.asid) |>.getD 0
def chanSup (s : State) (c : Chan) : Bool := (((s.chanTask c).bind s.tasks.get?).bind s.launchOf).map (·.sup) |>.getD false
/-- Whether a channel's task runs or drains: a held task's chunks do not start (R356). -/
def chanLive (s : State) (c : Chan) : Bool :=
  ((s.chanTask c).map s.enginesRun).getD false
end State

/-! Streams and chunks (R182, R183, R196). -/
def chunkBytes : Nat := 4096
/-- The bytes of a command's stream. -/
def CopyCmd.streamLen (c : CopyCmd) : Nat :=
  match c.kind with
  | .gather _ | .scatter _ => c.len / 256 * 2 ^ (c.len % 16)
  | .transpose esz rows cols _ _ => rows * cols * esz
  | _ => c.len
def CopyCmd.ended? (c : CopyCmd) : Bool := c.ended.isSome
/-- How many chunks a command has. -/
def chunkCount (len : Nat) : Nat := (len + (chunkBytes - 1)) / chunkBytes

/-- A side of a piece: global memory or the team's scratch. -/
structure Side where
  scratch : Bool
  addr : W64
  deriving DecidableEq, Repr

/-- A contiguous piece of a chunk: where it goes, where it comes from (nothing: a pattern), its place in the chunk. -/
structure Piece where
  dst : Side
  src : Option Side
  off : Nat
  n : Nat
  deriving DecidableEq, Repr

/-- Bytes of address x plus an offset. -/
def plus (x : W64) (n : Nat) : W64 := x + BitVec.ofNat 64 n

/-- The pieces of an element command: element i of size e at list entry i. -/
def listPieces (c : CopyCmd) (entries : List W64) (first e : Nat) : List Piece :=
  ((List.range entries.length).zip entries).map fun p =>
    let i := first + p.1
    let far : Side := { scratch := false, addr := p.2 }
    match c.kind with
    | .gather dsp => { dst := { scratch := dsp, addr := plus c.dst (i * e) }, src := some far, off := p.1 * e, n := e }
    | .scatter ssp => { dst := far, src := some { scratch := ssp, addr := plus c.src (i * e) }, off := p.1 * e, n := e }
    | _ => { dst := far, src := none, off := 0, n := 0 }

/-- The pieces of chunk j: of a list command, from the list entries given. -/
def CopyCmd.pieces (c : CopyCmd) (j : Nat) (entries : List W64) : List Piece :=
  let o := chunkBytes * j
  let n := min chunkBytes (c.streamLen - o)
  match c.kind with
  | .plain dsp ssp =>
    [{ dst := { scratch := dsp, addr := plus c.dst o }, src := some { scratch := ssp, addr := plus c.src o }, off := 0, n := n }]
  | .remote => [{ dst := { scratch := false, addr := plus c.dst o }, src := some { scratch := false, addr := plus c.src o },
                  off := 0, n := n }]
  | .multicast =>
    (c.dests.getD []).map fun d =>
      { dst := { scratch := false, addr := plus d o }, src := some { scratch := false, addr := plus c.src o }, off := 0, n := n }
  | .fill _ dsp => [{ dst := { scratch := dsp, addr := plus c.dst o }, src := none, off := 0, n := n }]
  | .gather _ | .scatter _ => let e := 2 ^ (c.len % 16); listPieces c entries (o / e) e
  | .transpose esz rows _ sp dp =>
    (List.range (n / esz)).map fun k =>
      let at' := o / esz + k
      let i := at' % rows
      let r := at' / rows
      { dst := { scratch := false, addr := plus c.dst (r * dp + i * esz) },
        src := some { scratch := false, addr := plus c.src (i * sp + r * esz) }, off := k * esz, n := esz }
  | .reduce ty _ =>
    let esz := if ty = 2 || ty = 3 || ty = 5 then 8 else 4
    (List.range (n / esz)).map fun k =>
      { dst := { scratch := false, addr := plus c.dst (o + k * esz) },
        src := some { scratch := false, addr := plus c.src (o + k * esz) }, off := k * esz, n := esz }

/-- The element function of m.red (R197). -/
def redFn (ty op : Nat) (x y : W64) : W64 :=
  let t : Ty := match ty with
    | 0 => .s32
    | 1 => .n32
    | 2 => .s64
    | 3 => .n64
    | 4 => .f32
    | 5 => .f64
    | _ => .bf16x2
  if ty = 6 && op != 0 then
    atomCanon t (joinElems 16 ((List.range 2).map fun k => (opMinMax .bf16 {} (op == 2) (elemAt 16 k x) (elemAt 16 k y)).1))
  else match op with
    | 0 => atomFn (if 4 ≤ ty then 0x0E else 0x0D) t x y 0#64
    | 1 => atomFn (if 4 ≤ ty then 0x0B else 0x02) t x y 0#64
    | _ => atomFn (if 4 ≤ ty then 0x0C else 0x03) t x y 0#64

/-! Translation of runs by an engine. -/
/-- A physical run: address, bytes, grain and policy. -/
structure PRun where
  pa : Nat
  n : Nat
  grain : Nat
  pol : Policy
  deriving DecidableEq, Repr

/-- A run of virtual bytes cut at 4 KiB boundaries. -/
def cutPages : Nat → Nat → Nat → List (Nat × Nat)
  | 0, _, _ => []
  | _, _, 0 => []
  | f + 1, va, n =>
    let k := min n (4096 - va % 4096)
    (va, k) :: cutPages f ((va + k) % 2 ^ 64) (n - k)

namespace State
/-- The translation of a run of bytes by an engine (R185); a fault names its address. -/
def xlatRuns (s : State) (asid : Nat) (sup : Bool) (acc : Acc) : List (Nat × Nat) → State × Except (XFault × W64) (List PRun)
  | [] => (s, .ok [])
  | (va, n) :: rest =>
    match s.translate asid sup (BitVec.ofNat 64 va) acc with
    | (s, .error f) => (s, .error (f, BitVec.ofNat 64 va))
    | (s, .ok x) =>
      match xlatRuns s asid sup acc rest with
      | (s, .error e) => (s, .error e)
      | (s, .ok rs) => (s, .ok ({ pa := x.pa, n := n, grain := x.grain, pol := x.pol } :: rs))
def xlatRange (s : State) (asid : Nat) (sup : Bool) (va : W64) (n : Nat) (acc : Acc) :
    State × Except (XFault × W64) (List PRun) :=
  s.xlatRuns asid sup acc (cutPages (n / 4096 + 2) va.toNat n)

/-- The bytes of physical runs, read once at their homes, and a refusal of a home (R184, R185). -/
def readRuns (s : State) (who : W32) (rs : List PRun) : State × List Byte × Option Nat :=
  rs.foldl (fun (acc : State × List Byte × Option Nat) r =>
    let err := if isRemote r.pa then none else acc.1.homeError r.pa r.n .read
    let (s, bs, _, _) := acc.1.homeRead r.pa r.n r.grain none r.pol who
    (s, acc.2.1 ++ bs, acc.2.2.or err)) (s, [], none)
def runsError (s : State) (rs : List PRun) (w : Want) : Option Nat :=
  rs.foldl (fun e r => e.or (if isRemote r.pa then none else s.homeError r.pa r.n w)) none
/-- A run cut at 64 bytes, the units in which homes refuse. -/
def unitRuns (r : PRun) : List PRun :=
  (halfRuns r.pa r.n).map fun u => { r with pa := u.1, n := u.2 }
/-- Write bytes to physical runs, but for units that their homes refuse: the visibility time. -/
def writeRuns (s : State) (who : W32) (want : Want) (rs : List PRun) (bs : List Byte) : State × Nat :=
  let rs := if (s.runsError rs want).isSome then rs.flatMap unitRuns else rs
  let (s, _, v) := rs.foldl (fun (acc : State × List Byte × Nat) r =>
    if (acc.1.runsError [r] want).isSome then (acc.1, acc.2.1.drop r.n, acc.2.2)
    else
      let (s, v) := acc.1.homeWrite r.pa (acc.2.1.take r.n) r.grain 0 r.pol who
      (s, acc.2.1.drop r.n, max acc.2.2 v)) (s, bs, 0)
  (s, v)
/-- The bytes that runs hold. -/
def runBytes (s : State) (rs : List PRun) : List Byte := rs.flatMap fun r => s.mem.readBytes r.pa r.n
end State

/-- One byte of two, chosen for each in turn. -/
def mixBytes (s : State) : List Byte → List Byte → State × List Byte
  | o :: os, n :: ns =>
    let (b, s) := if o = n then (n, s) else pickFrom s [o, n] n
    let (s, bs) := mixBytes s os ns
    (s, b :: bs)
  | _, _ => (s, [])

/-- The same for the flagged bytes; the others are new. -/
def mixAt (s : State) : List Bool → List Byte → List Byte → State × List Byte
  | f :: fs, o :: os, n :: ns =>
    let (b, s) := if o = n || !f then (n, s) else pickFrom s [o, n] n
    let (s, bs) := mixAt s fs os ns
    (s, b :: bs)
  | _, _, _ => (s, [])

/-! Execution of a chunk. -/
/-- A piece with its places: runs for global sides. -/
structure Placed where
  piece : Piece
  dst : List PRun
  src : List PRun

namespace State
/-- Translate the pieces of a chunk: destinations for writing, and for m.red reading as well. -/
def placePieces (s : State) (asid : Nat) (sup both : Bool) : List Piece → State × Except (XFault × W64 × Bool) (List Placed)
  | [] => (s, .ok [])
  | p :: rest =>
    let (s, d) : State × Except (XFault × W64) (List PRun) := if p.dst.scratch then (s, .ok []) else s.xlatRange asid sup p.dst.addr p.n (if both then .both else .write)
    match d with
    | .error (f, va) => (s, .error (f, va, true))
    | .ok d =>
      let (s, r) : State × Except (XFault × W64) (List PRun) := match p.src with
        | some x => if x.scratch then (s, .ok []) else s.xlatRange asid sup x.addr p.n .read
        | none => (s, .ok [])
      match r with
      | .error (f, va) => (s, .error (f, va, false))
      | .ok r =>
        match placePieces s asid sup both rest with
        | (s, .error e) => (s, .error e)
        | (s, .ok ps) => (s, .ok ({ piece := p, dst := d, src := r } :: ps))

/-- The entries of a list in memory, by index, with the runs that hold them. -/
def listEntries (s : State) (asid : Nat) (sup : Bool) (list : W64) (i n : Nat) :
    State × Except (XFault × W64) (List W64 × List PRun) :=
  match s.xlatRange asid sup (plus list (8 * i)) (8 * n) .read with
  | (s, .error e) => (s, .error e)
  | (s, .ok rs) =>
    let bs := s.runBytes rs
    (s, .ok ((List.range n).map fun k => BitVec.ofNat 64 (natOfBytes ((bs.drop (8 * k)).take 8)), rs))

/-- Recall the holders that keep runs from an engine; whether there are any (R402). -/
def recallRuns (s : State) (who : W32) (write : Bool) (rs : List PRun) : State × Bool :=
  if rs.any fun r => s.dirConflict who write r.pa r.n then
    (rs.foldl (fun (s : State) r => s.recallFor who write r.pa r.n) s, true)
  else (s, false)

/-- The source bytes of a placed piece. -/
def pieceSource (s : State) (t : Nat) (who : W32) (c : CopyCmd) (j : Nat) (p : Placed) : State × List Byte × Option Nat :=
  match p.piece.src with
  | none =>
    let pat := match c.kind with
      | .fill x _ => Memory.leBytes 4 x.toNat
      | _ => []
    (s, (List.range p.piece.n).map fun k => pat.getD ((chunkBytes * j + p.piece.off + k) % 4) 0#8, none)
  | some x => if x.scratch then (s, s.scratchRead t x.addr.toNat p.piece.n, none) else s.readRuns who p.src

/-- What a chunk needs of its destinations' homes: m.red updates its elements as far atomics do (R197). -/
def copyWant (c : CopyCmd) : Want := match c.kind with
  | .reduce _ _ => .atomic
  | _ => .write

/-- Write a placed piece: its bytes as they land, visibility time and sectors. A byte that an earlier element of a scatter
has reached is that element's or this one's (R184); `mixed`: every byte is old or new. -/
def pieceWrite (s : State) (t : Nat) (who : W32) (c : CopyCmd) (mixed : Bool) (covered : List PRun) (p : Placed)
    (bs : List Byte) : State × List Byte × Nat × NatSet :=
  if p.piece.dst.scratch then
    let o := p.piece.dst.addr.toNat
    let (s, bs) := if mixed then mixBytes s (s.scratchRead t o bs.length) bs else (s, bs)
    (s.scratchWrite t o bs, bs, 0, [])
  else
    let old := s.runBytes p.dst
    let bs := match c.kind with
      | .reduce ty op => Memory.leBytes p.piece.n (redFn ty op (BitVec.ofNat 64 (natOfBytes old)) (BitVec.ofNat 64 (natOfBytes bs))).toNat
      | _ => bs
    let at' := p.dst.flatMap fun r => (List.range r.n).map (r.pa + ·)
    let (s, bs) := mixAt s (at'.map fun a => mixed || covered.any fun r => r.pa ≤ a && a < r.pa + r.n) old bs
    let (s, v) := s.writeRuns who (copyWant c) p.dst bs
    (s, bs, v, NatSet.addAll [] (p.dst.flatMap fun r => (List.range ((r.pa + (r.n - 1)) / 32 + 1 - r.pa / 32)).map (r.pa / 32 + ·)))

/-- Pieces whose bytes are already known, written in turn. The stream of a multicast is its first destination's. -/
def writePieces (s : State) (t : Nat) (who : W32) (c : CopyCmd) (mixed : Bool) (covered : List PRun) :
    List (Placed × List Byte) → State × List Byte × Nat × NatSet
  | [] => (s, [], 0, [])
  | (p, bs) :: rest =>
    let (s, b, v, w) := s.pieceWrite t who c mixed covered p bs
    let next := match c.kind with
      | .scatter _ => covered ++ p.dst
      | _ => covered
    let (s, more, v', w') := writePieces s t who c mixed next rest
    (s, (if c.kind = .multicast then b else b ++ more), max v v', NatSet.addAll w w')

/-- The sources of the pieces in turn; the destinations of a multicast share one read of each source byte (R188). -/
def readPieces (s : State) (t : Nat) (who : W32) (c : CopyCmd) (j : Nat) :
    Option (List Byte) → List Placed → State × List (Placed × List Byte) × Option Nat
  | _, [] => (s, [], none)
  | some bs, p :: rest =>
    let (s, ps, e) := readPieces s t who c j (some bs) rest
    (s, (p, bs) :: ps, e)
  | none, p :: rest =>
    let (s, bs, e) := s.pieceSource t who c j p
    let (s, ps, e') := readPieces s t who c j (if c.kind = .multicast then some bs else none) rest
    (s, (p, bs) :: ps, e.or e')
end State

/-- A chunk that may run: its pieces with their places, the runs of its list, whether bytes lie off the package. -/
structure ChunkPlan where
  placed : List Placed
  list : List PRun
  remote : Bool
/-- What stands before a chunk: a fault of translation, a holder that its homes wait for, a status that it takes without a
write, or nothing. -/
inductive PlanEnd
  | stopped (f : XFault) (va : W64) (write : Bool)
  | held
  | refused (status : Nat)
  | ready (p : ChunkPlan)

namespace State
/-- The list that a chunk uses (R182): the entries of its elements, or a multicast's whole list. -/
def chunkList (s : State) (ch : Chan) (c : CopyCmd) (j : Nat) : State × Except (XFault × W64) (List W64 × List PRun) :=
  let e := 2 ^ (c.len % 16)
  let o := chunkBytes * j
  let n := min chunkBytes (c.streamLen - o)
  match c.kind with
  | .gather _ => s.listEntries (s.chanAsid ch) (s.chanSup ch) c.src (o / e) (n / e)
  | .scatter _ => s.listEntries (s.chanAsid ch) (s.chanSup ch) c.dst (o / e) (n / e)
  | .multicast =>
    match s.listEntries (s.chanAsid ch) (s.chanSup ch) c.dst 0 (((c.dests.getD []).length) + 1) with
    | (s, .error e) => (s, .error e)
    | (s, .ok (_, rs)) => (s, .ok ([], rs))
  | _ => (s, .ok ([], []))

/-- The checks of a chunk when it starts: its list, its translations, its window rule (R182; m.tr and m.red have none), and
the holders of its lines (R402). -/
def planChunk (s : State) (ch : Chan) (c : CopyCmd) (j slice : Nat) : State × PlanEnd :=
  let who := idMortar slice
  let e := 2 ^ (c.len % 16)
  let stop := fun (f : XFault) va w => if f.held.isSome then PlanEnd.held else .stopped f va w
  let ruled := match c.kind with
    | .transpose _ _ _ _ _ | .reduce _ _ => false
    | _ => true
  match s.chunkList ch c j with
  | (s, .error (f, va)) => (s, stop f va false)
  | (s, .ok (es, lruns)) =>
    match s.recallRuns who false lruns with
    | (s, true) => (s, .held)
    | (s, false) =>
      if es.any fun x => x.toNat % min e 8 != 0 then (s, .refused 0x04)
      else
        match s.placePieces (s.chanAsid ch) (s.chanSup ch) (copyWant c == .atomic) (c.pieces j es) with
        | (s, .error (f, va, w)) => (s, stop f va w)
        | (s, .ok ps) =>
          let reads := ps.flatMap (·.src)
          let writes := ps.flatMap (·.dst)
          let remote := (writes ++ reads).any fun r => isRemote r.pa
          if ruled && (if c.kind = .remote then !remote else remote || lruns.any fun r => isRemote r.pa) then (s, .refused 0x34)
          else
            match s.recallRuns who false reads, s.recallRuns who true writes with
            | (_, false), (_, false) => (s, .ready { placed := ps, list := lruns, remote := remote })
            | (s1, _), _ => ((s1.recallRuns who true writes).1, .held)

/-- The destinations of a scatter's chunks that have run, which a later element may reach as well (R184). -/
def coveredRuns (s : State) (ch : Chan) (c : CopyCmd) : List PRun :=
  match c.kind with
  | .scatter _ =>
    c.chunks.zipIdx.flatMap fun x => match x.1 with
      | .done _ _ => (match s.chunkList ch c x.2 with
        | (_, .ok (es, _)) => es.flatMap fun va => match s.xlatRange (s.chanAsid ch) (s.chanSup ch) va (2 ^ (c.len % 16)) .write with
          | (_, .ok rs) => rs
          | _ => []
        | _ => [])
      | _ => []
  | _ => []

/-- A chunk runs (R183-R190, R197): sources are read, destinations written. With a status that is settled (`fate`), or after a
unit that a home refuses, each byte is old or new. Answers the status, the bytes of the stream, the visibility time and
the sectors. -/
def performChunk (s : State) (ch : Chan) (c : CopyCmd) (j slice : Nat) (p : ChunkPlan) (fate : Option Nat) :
    State × Nat × List Byte × Nat × NatSet :=
  let t := (s.chanTask ch).getD 0
  let who := idMortar slice
  let werr := s.runsError (p.placed.flatMap (·.dst)) (copyWant c)
  let (s, _, lerr) := s.readRuns who p.list
  let (s, data, rerr) := s.readPieces t who c j none p.placed
  let bads := ([lerr, rerr, werr].filterMap id).eraseDups
  let (bad, s) := pickFrom s bads 0
  let (s, bs, v, w) := s.writePieces t who c (fate.isSome || !bads.isEmpty) (s.coveredRuns ch c) data
  (s, fate.getD bad, bs, v, w)

/-- The home of an address (R183), whatever its access rights; slice 0 when it does not translate. -/
def homeAt (s : State) (asid : Nat) (va : W64) : Option (Nat × Bool) :=
  let (s, w) := s.leafFor asid va.toNat
  if w.fault.isSome then none
  else
    let pa := s.ownWindow (leafPa w.level w.val va.toNat)
    some (s.homeOf pa, isRemote pa)

/-- The first destination byte's home (R183), the source's for cp.sct and for scratch destinations; slice 0 when the
address does not translate. -/
def chunkHome (s : State) (ch : Chan) (c : CopyCmd) (j : Nat) : Nat :=
  let o := chunkBytes * j
  let at' := s.homeAt (s.chanAsid ch)
  let dst := match c.kind with
    | .transpose esz rows _ _ dp => plus c.dst (o / esz / rows * dp + o / esz % rows * esz)
    | _ => plus c.dst o
  let first := match c.kind with
    | .scatter ssp => if ssp then none else at' (plus c.src o)
    | .plain true ssp => if ssp then none else at' (plus c.src o)
    | .gather true | .fill _ true => none
    | .multicast => (match s.listEntries (s.chanAsid ch) (s.chanSup ch) c.dst 1 1 with
        | (_, .ok (d :: _, _)) => at' (plus d o)
        | _ => none)
    | .remote => (match at' dst with
        | some (_, true) => at' (plus c.src o)
        | r => r)
    | _ => at' dst
  (first.map (·.1)).getD 0
end State

/-! Checksums (R190). -/
/-- The register that a command's checksum leaves. -/
def checksum (ck start : Nat) (bs : List Byte) : W32 :=
  if ck = 1 then bs.foldl crc32cStep (BitVec.ofNat 32 start)
  else (List.range ((bs.length + 3) / 4)).foldl
    (fun c k => c + BitVec.ofNat 32 (natOfBytes ((bs.drop (4 * k)).take 4))) (BitVec.ofNat 32 start)
/-- What the compare sees. -/
def checksumResult (ck : Nat) (c : W32) : W32 := if ck = 1 then c ^^^ 0xFFFFFFFF#32 else c
def checksumStart (ck : Nat) : Nat := if ck = 1 then 0xFFFFFFFF else 0

def ChunkSt.done? : ChunkSt → Bool
  | .done _ _ => true
  | _ => false
def ChunkSt.status : ChunkSt → Nat
  | .done st _ => st
  | _ => 0
def ChunkSt.bytes : ChunkSt → List Byte
  | .done _ bs => bs
  | _ => []
/-- The bytes of a command's stream. -/
def CopyCmd.stream (c : CopyCmd) : List Byte := c.chunks.flatMap ChunkSt.bytes
/-- The register that a command leaves in Rv. -/
def CopyCmd.sum (c : CopyCmd) (rv : W32) : W32 :=
  checksum c.ck (if c.chain then rv.toNat else checksumStart c.ck) c.stream

namespace State
/-- The status with which a command whose chunks are all executed completes, where it is settled (R182, R190): a chained
compare waits until Rv stands at its predecessor. -/
def finalStatus (s : State) (ch : Chan) (c : CopyCmd) : Option Nat × State :=
  if c.ended.isSome || !(c.chunks.all ChunkSt.done?) then (none, s)
  else
    match c.bad with
    | some st => (some st, s)
    | none =>
      let sts := ((c.chunks.map ChunkSt.status).filter (· != 0)).eraseDups
      match sts with
      | d :: _ =>
        let (st, s) := pickFrom s sts d
        (some st, s)
      | [] =>
        let C := s.getChan ch
        if !c.cmp then (some 0, s)
        else if c.chain && C.cmds.any (fun q => q.value < c.value) then (none, s)
        else (some (if checksumResult c.ck (c.sum C.rv) = C.x then 0 else 0x30), s)

/-- Commands that V covers leave the channel in order, and their checksums enter Rv. -/
def applyRv (s : State) (ch : Chan) : State :=
  let v := (s.chanTl ch).v
  s.modChan ch fun C =>
    C.cmds.foldl (fun D c =>
      if c.value ≤ v && c.ended.isSome then
        { D with
          rv := if c.ck != 0 && (c.ended == some 0 || c.ended == some 0x30) then c.sum D.rv else D.rv }
      else { D with cmds := D.cmds ++ [c] }) { C with cmds := [] }

/-- Complete one command of a channel with a status. -/
def endCopy (s : State) (ch : Chan) (value st : Nat) : State :=
  match (s.getChan ch).cmds.find? fun c => c.value == value with
  | none => s
  | some c =>
    let wrote := ((s.chanTl ch).wrote.filter fun p => p.1 == value).flatMap (·.2)
    let upd := fun (d : CopyCmd) => if d.value == value then { d with ended := some st } else d
    let s := s.modChan ch fun C => { C with cmds := C.cmds.map upd }
    (s.modChanTl ch fun t =>
      { t with wrote := t.wrote.filter fun p => p.1 != value }.complete value st c.vis (NatSet.addAll [] wrote)).applyRv ch

/-- Every command that can complete does (R183, R190). -/
def settleChan : Nat → Chan → State → State
  | 0, _, s => s
  | n + 1, ch, s =>
    let found := (s.getChan ch).cmds.find? fun c => (s.finalStatus ch c).1.isSome
    match found with
    | none => s
    | some c =>
      match s.finalStatus ch c with
      | (some st, s) => settleChan n ch (s.endCopy ch c.value st)
      | (none, s) => s
def settle (s : State) (ch : Chan) : State := settleChan (s.getChan ch).cmds.length ch s

def setCmd (s : State) (ch : Chan) (value : Nat) (f : CopyCmd → CopyCmd) : State :=
  s.modChan ch fun C => { C with cmds := C.cmds.map fun d => if d.value == value then f d else d }
/-- Sectors that an incomplete command has written so far. -/
def noteWrote (s : State) (ch : Chan) (value : Nat) (w : NatSet) : State :=
  s.modChanTl ch fun t => { t with wrote := t.wrote ++ [(value, w)] }

/-- Core, team slot and CTX of a channel's retry entries (R351). -/
def chanPlace (s : State) (ch : Chan) : Nat × Nat × Nat :=
  let T := (s.chanTask ch).bind s.tasks.get?
  ((T.map (·.core)).getD 0, (T.map (·.slot)).getD 0, match ch with | .team _ n => n | .key _ => 19)
def chanTarget (s : State) (ch : Chan) (value : Nat) : AckTarget :=
  match ch with
  | .team t n => .channel t n value
  | .key k => .ksChannel k ((s.chanTask ch).getD 0) value
/-- A fault that an engine meets stops the channel (R185). -/
def stopChan (s : State) (ch : Chan) (c : CopyCmd) (f : XFault) (va : W64) (write : Bool) : State :=
  let (core, team, ctx) := s.chanPlace ch
  (s.modChan ch fun C => { C with stopped := true }).pushRetry core team ctx f.cause va (BitVec.ofNat 64 c.value) c.pc write
    (s.chanTarget ch c.value)

/-- A command that ch.rst or the end of its task has cancelled and that is not complete (R194). -/
def CopyCmd.cancelled (c : CopyCmd) : Bool := c.ended.isNone && c.bad == some 0x31
/-- The command of a queued chunk. -/
def refCmd (s : State) (r : ChunkRef) : Option CopyCmd :=
  (s.getChan r.chan).cmds.find? fun c => c.value == r.value && c.ended.isNone && c.chunks[r.idx]? == some .unstarted
/-- Whether a chunk keeps its place without keeping the others of its unit from their turn: its channel is stopped, or its
task is held (R185, R356; DEDUCED, log 17). A cancelled one runs. -/
def passive (s : State) (r : ChunkRef) (c : CopyCmd) : Bool :=
  !(CopyCmd.cancelled c) && ((s.getChan r.chan).stopped || !s.chanLive r.chan)
/-- The chunk at the head of a unit's queue, with its command (R338). -/
def headChunk (s : State) (slice : Nat) : Option (ChunkRef × CopyCmd) :=
  (s.mortar.getD slice []).findSome? fun r => (s.refCmd r).bind fun c => if s.passive r c then none else some (r, c)
/-- Whether an ordered command still waits for earlier ones of its counter (R181, R208, R209). -/
def ordWaits (s : State) (ch : Chan) (c : CopyCmd) : Bool :=
  c.ord && !(CopyCmd.cancelled c) &&
    (((s.getChan ch).cmds.any fun q => q.value < c.value && q.ended.isNone) || (match ch with
      | .key k => (s.ksCtx k).mq.any fun q => q.value < c.value
      | .team _ _ => false))

/-- How the reading of a multicast's list ends. -/
inductive ListEnd
  | stopped (f : XFault) (va : W64)
  | held
  | ready (c : CopyCmd)
/-- A multicast's list is read before its first chunk (R182): a count outside 1 to 64 fails the command. -/
def prepare (s : State) (ch : Chan) (c : CopyCmd) (slice : Nat) : State × ListEnd :=
  let stop := fun (f : XFault) va => if f.held.isSome then ListEnd.held else .stopped f va
  match c.kind, c.dests with
  | .multicast, none =>
    match s.listEntries (s.chanAsid ch) (s.chanSup ch) c.dst 0 1 with
    | (s, .error (f, va)) => (s, stop f va)
    | (s, .ok (m, rs)) =>
      match s.recallRuns (idMortar slice) false rs with
      | (s, true) => (s, .held)
      | (s, false) =>
        let m := ((m.head?).getD 0#64).toNat
        if m = 0 || 64 < m then
          let c := { c with bad := c.bad.or (some 0x34), chunks := [] }
          (s.setCmd ch c.value fun _ => c, .ready c)
        else
          match s.listEntries (s.chanAsid ch) (s.chanSup ch) c.dst 1 m with
          | (s, .error (f, va)) => (s, stop f va)
          | (s, .ok (ds, rs)) =>
            match s.recallRuns (idMortar slice) false rs with
            | (s, true) => (s, .held)
            | (s, false) =>
              let c := { c with dests := some ds }
              (s.setCmd ch c.value fun _ => c, .ready c)
  | _, _ => (s, .ready c)

/-- A chunk leaves a unit's queue; from an empty one on the unit is idle (R338). -/
def dropRef (s : State) (slice : Nat) (r : ChunkRef) : State :=
  let q := (s.mortar.getD slice []).filter (· != r)
  { s with mortar := if q.isEmpty then s.mortar.erase slice else s.mortar.set slice q
           mortarIdle := s.mortarIdle.set slice s.storeClk }
def setChunk (s : State) (r : ChunkRef) (x : ChunkSt) (v : Nat) : State :=
  s.setCmd r.chan r.value fun c => { c with chunks := c.chunks.set r.idx x, vis := max c.vis v }
/-- A chunk is over with a status; its command completes with its last. -/
def endChunk (s : State) (r : ChunkRef) (slice st : Nat) (bs : List Byte) (v : Nat) : State :=
  ((s.dropRef slice r).setChunk r (.done st bs) v).settle r.chan

/-- A chunk at a unit, from its plan on: it waits, stops its channel, or is over. A status that is settled (`fate`: the command
is cancelled, its homes retire or do not answer) stands whatever happens, and the bytes are then old or new (R185,
R194). -/
def playChunk (s : State) (r : ChunkRef) (c : CopyCmd) (slice : Nat) (fate : Option Nat) (go : State → CopyCmd → ChunkPlan → State) : State :=
  match s.prepare r.chan c slice with
  | (s, .held) => s
  | (s, .stopped f va) => (match fate with
    | some st => s.endChunk r slice st [] 0
    | none => s.stopChan r.chan c f va false)
  | (s, .ready c) =>
    if c.chunks = [] then (s.dropRef slice r).settle r.chan
    else
      match s.planChunk r.chan c r.idx slice, fate with
      | (s, .held), _ => s
      | (s, .stopped _ _ _), some st | (s, .refused _), some st => s.endChunk r slice st [] 0
      | (s, .stopped f va w), none => s.stopChan r.chan c f va w
      | (s, .refused st), none => s.endChunk r slice st [] 0
      | (s, .ready p), _ => go s c p
/-- A chunk runs at a unit and is over. -/
def landChunk (s : State) (r : ChunkRef) (slice : Nat) (fate : Option Nat) (c : CopyCmd) (p : ChunkPlan) : State :=
  match s.performChunk r.chan c r.idx slice p fate with
  | (s, st, bs, v, w) => (s.noteWrote r.chan r.value w).endChunk r slice st bs v
/-- A chunk that can run does so. -/
def finishChunk (s : State) (r : ChunkRef) (c : CopyCmd) (slice : Nat) (fate : Option Nat) : State :=
  s.playChunk r c slice fate fun s c p => s.landChunk r slice fate c p
/-- A chunk of a command whose list is read ends with a status, its bytes old or new (R185); while a holder keeps its lines
away it stays. -/
def failChunk (s : State) (r : ChunkRef) (slice st : Nat) : State :=
  match (s.getChan r.chan).cmds.find? fun c => c.value == r.value with
  | some c => s.finishChunk r c slice (some st)
  | none => s

/-- A Mortar unit executes the chunk at the head of its queue (R183, R338). One with bytes off the package ends when their
homes have answered (R189). -/
def executeChunk (s : State) (slice : Nat) : State :=
  match s.headChunk slice with
  | none => s
  | some (r, c) =>
    let n := min chunkBytes (c.streamLen - chunkBytes * r.idx)
    let fate := if CopyCmd.cancelled c then c.bad else none
    if s.ordWaits r.chan c || !s.mayInject 1 slice n then s
    else
      s.playChunk r c slice fate fun s c p =>
        let s := s.noteInject 1 slice n
        if p.remote && fate.isNone then
          let (id, s) := (s.dropRef slice r).takeId
          s.setChunk r (.executing slice id s.clk) 0
        else s.landChunk r slice fate c p

/-- Every channel that exists, with its commands. -/
def allChans (s : State) : List Chan :=
  s.tasks.flatMap (fun p => p.2.chs.map fun q => Chan.team p.1 q.1) ++ s.ks.map fun p => Chan.key p.1
/-- The chunks that wait for remote homes: which, its slice, its number and since when. -/
def remoteChunks (s : State) : List (ChunkRef × Nat × Nat × Nat) :=
  s.allChans.flatMap fun ch => (s.getChan ch).cmds.flatMap fun c => c.chunks.zipIdx.filterMap fun p => match p.1 with
    | .executing sl id born => some ({ chan := ch, value := c.value, idx := p.2 }, sl, id, born)
    | _ => none
/-- The first chunk of a slice that waits for remote homes. -/
def remoteChunk (s : State) (slice : Nat) : Option ChunkRef := (s.remoteChunks.find? fun x => x.2.1 == slice).map (·.1)
/-- A chunk that waited for remote homes goes on at its unit (R189): with no status yet it may stop its channel, and is then
queued again. -/
def remoteEnds (s : State) (r : ChunkRef) (slice : Nat) (fate : Option Nat) : State :=
  match (s.getChan r.chan).cmds.find? fun c => c.value == r.value with
  | none => s
  | some c =>
    let fate := if CopyCmd.cancelled c then some 0x31 else fate
    let s := s.finishChunk r c slice fate
    if fate.isNone && (s.getChan r.chan).stopped then
      let unit := s.liveSlice slice
      { (s.setChunk r .unstarted 0) with mortar := s.mortar.set unit (r :: s.mortar.getD unit []) }
    else s
/-- The remote homes of a chunk answer (R189): they acknowledge, or one of them refuses, as owner lost or poisoned (R406,
R414). -/
def remoteChunkDone (s : State) (slice : Nat) : State :=
  match s.remoteChunk slice with
  | none => s
  | some r =>
    let (fate, s) := pickFrom s [none, some 0x0A, some 0x0B] none
    s.remoteEnds r slice fate
/-- The chunk that waits for remote homes under a number: its slice, and since when. -/
def chunkBy (s : State) (id : Nat) : Option (ChunkRef × Nat × Nat) :=
  (s.remoteChunks.find? fun x => x.2.2.1 == id).map fun x => (x.1, x.2.1, x.2.2.2)

/-- Unstarted chunks of a unit that may be stolen: not of cp.x, nor of a stopped channel (R338). -/
def stealable (s : State) (r : ChunkRef) : Bool :=
  let C := s.getChan r.chan
  !C.stopped && (match C.cmds.find? fun c => c.value == r.value with
    | some c => c.kind != .remote
    | none => false)
/-- The unit with the most unstarted chunks among some, the lowest on ties; only a busy one. -/
def busiest (s : State) (slices : List Nat) : Option Nat :=
  slices.foldl (fun b i =>
    let n := (s.mortar.getD i []).length
    if n < 2 then b
    else match b with
      | some j => if (s.mortar.getD j []).length < n then some i else b
      | none => some i) none
/-- Whether a unit has been idle for 2 store clocks (R338). -/
def unitIdle (s : State) (slice : Nat) : Bool :=
  (s.mortar.getD slice []).isEmpty && (s.remoteChunk slice).isNone &&
    (match s.mortarIdle.get? slice with
      | some c => decide (c + 2 ≤ s.storeClk)
      | none => true)
/-- An idle unit takes a busy unit's last chunk, first within its quadrant, then within its die (R183, R338). -/
def steal (s : State) (slice : Nat) : State :=
  if !s.unitIdle slice then s
  else
    let quad := (List.range 16).map (slice / 16 * 16 + ·)
    let die := (List.range 64).map (slice / 64 * 64 + ·)
    match (s.busiest quad).or (s.busiest die) with
    | none => s
    | some v =>
      match ((s.mortar.getD v []).drop 1).reverse.find? s.stealable with
      | none => s
      | some r => { s with mortar := (s.dropRef v r).mortar.set slice [r] }
end State

/-- COPY_CHUNK_EXECUTE (R183). -/
def execCopyChunkExecute (slice : Nat) (s : State) : Host.Outcome State Fault Refusal := .next (s.executeChunk slice)
/-- CHUNK_STEAL (R338). -/
def execChunkSteal (slice : Nat) (s : State) : Host.Outcome State Fault Refusal := .next (s.steal slice)
/-- REMOTE_CHUNK_ACKNOWLEDGE (R189). -/
def execRemoteChunkAcknowledge (slice : Nat) (s : State) : Host.Outcome State Fault Refusal :=
  .next (s.remoteChunkDone slice)

end Sys2Proof.Machine
end

