-- ==== Sys2Proof/Machine/Flags.lean ====
section
/-! DEFINITION. FPCTL (R89-R92): rounding and flush controls, sticky conditions, traps, and the stochastic generator
(R54, R55). -/
namespace Sys2Proof.Machine

/-- FPCTL of an agent's group; a Keystone context has none and uses the reset value (R229). -/
def fpctlOf (s : State) (a : Agent) : W32 :=
  match a with
  | .frag g _ => ((s.grps.get? g).map (·.fpctl)).getD 0#32
  | .ks _ => 0#32

/-- The rounding that FPCTL.RND names; 6 and 7 mean rne (R54, R89). -/
def rndField (c : W32) : Rnd :=
  match c.toNat % 8 with
  | 1 => .rtz
  | 2 => .rup
  | 3 => .rdn
  | 4 => .rna
  | 5 => .stoch
  | _ => .rne

/-- The rounding an instruction uses (R54). -/
def rndOf (s : State) (a : Agent) (r : Rnd) : Rnd := if r = .dyn then rndField (fpctlOf s a) else r

/-- Seed and counter of the stochastic generator (R55). -/
def seedOf (s : State) (a : Agent) : W64 × W32 :=
  match a with
  | .frag g _ => ((s.grps.get? g).map fun G => (G.seed, G.ctr)).getD (0#64, 0#32)
  | .ks k => ((s.ksCtx k).seed, (s.ksCtx k).ctr)

/-- C advances by 1 after an instruction that rounds stochastically (R55). -/
def advanceCtr (s : State) (a : Agent) (stoch : Bool) : State :=
  if stoch then
    match a with
    | .frag g _ => s.modGrp g fun G => { G with ctr := G.ctr + 1#32 }
    | .ks k => s.modKs k fun c => { c with ctr := c.ctr + 1#32 }
  else s

/-- The environment of an element: rounding, sat, DAZ, FTZ, and the draw of lane i, element e (R55, R91). -/
def envAt (s : State) (a : Agent) (r : Rnd) (sat : Bool) (i e : Nat) : FEnv :=
  let c := fpctlOf s a
  let (S, C) := seedOf s a
  let m := rndOf s a r
  { mode := m, sat := sat, daz := c.getLsbD 5, ftz := c.getLsbD 4, draw := if m = .stoch then srDraw S C i e else 0 }

/-- The sticky flags of FPCTL that conditions set (R89). -/
def stickyBits (fl : FpFlags) : W32 :=
  (if fl.iv then 0x400#32 else 0#32) ||| (if fl.dz then 0x200#32 else 0#32) ||| (if fl.of then 0x100#32 else 0#32) |||
    (if fl.uf then 0x80#32 else 0#32) ||| (if fl.nx then 0x40#32 else 0#32)

/-- Whether FPCTL enables a trap on one of the conditions: each enable lies 5 bits above its flag (R89, R92). -/
def trapEnabled (c : W32) (fl : FpFlags) : Bool := (c >>> 5) &&& stickyBits fl != 0#32

/-- The conditions of all lanes. -/
def allFlags (fls : List (Nat × FpFlags)) : FpFlags := fls.foldl (fun f p => f.or p.2) FpFlags.none

/-- Conditions join the sticky flags (R90). -/
def recordFlags (s : State) (a : Agent) (fl : FpFlags) : State :=
  match a with
  | .frag g _ => s.modGrp g fun G => { G with fpctl := G.fpctl ||| stickyBits fl }
  | .ks _ => s

/-- The lanes that raised a condition whose trap is enabled (R92). -/
def trapLanes (c : W32) (fls : List (Nat × FpFlags)) : Mask := maskOf ((fls.filter fun p => trapEnabled c p.2).map (·.1))

/-- The result of a float instruction: lane writes and the conditions of each lane. -/
structure FpRes where
  writes : List (Nat × W64)
  flags : List (Nat × FpFlags)

/-- A per-lane instruction that records conditions (R92): flags are recorded and the counter advances; with an enabled
trap no lane is written and 0x0E is raised, otherwise the results are written. The round code alone decides whether the
counter advances, also for a conversion that never rounds (DEDUCED, log 28). -/
def fpOp (s : State) (a : Agent) (h : Hdr) (d : Nat) (wideD : Bool) (srcs : List Opnd) (aux : BitVec 6) (r : Rnd)
    (lat : Nat) (f : (Nat → Nat → Bool → FEnv) → Mask → List (List W64) → FpRes) : State :=
  let part := s.guardMask a h
  let regs := dstRegs d (if wideD then 2 else 1)
  if part = 0#64 then s.retire a h
  else s.withRegs a regs fun s =>
    let (vs, s) := readSrcs s a aux srcs
    let res := f (fun i e sat => envAt s a r sat i e) part vs
    let bad := trapLanes (fpctlOf s a) res.flags
    let s := advanceCtr (recordFlags s a (allFlags res.flags)) a (rndOf s a r == .stoch)
    if bad = 0#64 then
      (s.writeLanes a d wideD res.writes).finish a h srcs regs (regs.map fun v => (0, v)) lat
    else s.raiseCode a 0x0E 0#32 bad

/-- A per-lane compare that records conditions and writes a predicate (R83). -/
def fpPredOp (s : State) (a : Agent) (h : Hdr) (p : Nat) (srcs : List Opnd) (aux : BitVec 6) (lat : Nat)
    (f : FEnv → Nat → List (List W64) → Bool × FpFlags) : State :=
  let part := s.guardMask a h
  if part = 0#64 then s.retire a h
  else
    let (vs, s) := readSrcs s a aux srcs
    let rs := (lanesOf part).map fun l => (l, f (envAt s a .rne false l 0) l vs)
    let fls := rs.map fun x => (x.1, x.2.2)
    let bad := trapLanes (fpctlOf s a) fls
    let s := recordFlags s a (allFlags fls)
    if bad = 0#64 then
      (s.writePred a p part (maskOf ((rs.filter fun x => x.2.1).map (·.1)))).finish a h srcs [] [(2, p)] lat
    else s.raiseCode a 0x0E 0#32 bad

/-- Apply a float element operation to every element of every participating lane: the element's values of each source
(w bits wide, or 32 for a packed type's wide source), and where its result goes. -/
def fpLanes (t : Ty) (part : Mask) (vs : List (List W64)) (env : Nat → Nat → FEnv)
    (op : FEnv → (Nat → Nat) → Nat × FpFlags) : FpRes :=
  let w := Ty.width t
  let rs := (lanesOf part).map fun l =>
    let es := (List.range (Ty.count t)).map fun k => op (env l k) fun n => elemAt w k (srcLane vs n l)
    (l, joinElems w (es.map (·.1)), es.foldl (fun f e => f.or e.2) FpFlags.none)
  { writes := rs.map fun r => (r.1, r.2.1), flags := rs.map fun r => (r.1, r.2.2) }

end Sys2Proof.Machine
end

