-- ==== Sys2Proof/Machine/Matrix.lean ====
section
/-! DEFINITION. The numbers of the matrix engine: operand-row images (R48-R51), the update of an accumulator element
(R62), scaling (R217) and the conversions of k.drain (R218). -/
namespace Sys2Proof.Machine

/-- Element format, stored width in bits, block (0: none), scale format code of `matScale` and zero points (R48). -/
structure MatFmt where
  elem : Elem
  width : Nat
  block : Nat
  scale : Option FF
  zeros : Bool
  deriving DecidableEq, Repr

/-- The 28 matrix formats (R48). -/
def matFmt (c : Nat) : MatFmt :=
  let plain := fun e w => { elem := e, width := w, block := 0, scale := none, zeros := false : MatFmt }
  let blk := fun e w b f => { elem := e, width := w, block := b, scale := some f, zeros := false : MatFmt }
  match c with
  | 0 => plain (.int 4 true) 4
  | 1 => plain (.int 4 false) 4
  | 2 => plain (.int 8 true) 8
  | 3 => plain (.int 8 false) 8
  | 4 => plain (.int 16 true) 16
  | 5 => plain (.flt .e2m1) 4
  | 6 => plain (.flt .e2m3) 6
  | 7 => plain (.flt .e3m2) 6
  | 8 => plain (.flt .e4m3) 8
  | 9 => plain (.flt .e5m2) 8
  | 10 => plain (.flt .e3m4) 8
  | 11 => plain (.flt .f16) 16
  | 12 => plain (.flt .bf16) 16
  | 13 => plain (.flt .f19) 32
  | 14 => plain (.flt .f32) 32
  | 15 => plain (.flt .f64) 64
  | 16 => blk (.flt .e2m1) 4 32 .e8m0
  | 17 => blk (.flt .e2m1) 4 16 .e4m3
  | 18 => blk (.flt .e2m3) 6 32 .e8m0
  | 19 => blk (.flt .e3m2) 6 32 .e8m0
  | 20 => blk (.flt .e4m3) 8 32 .e8m0
  | 21 => blk (.flt .e5m2) 8 32 .e8m0
  | 22 => blk (.int 8 true) 8 32 .e8m0
  | 23 => blk (.int 4 true) 4 32 .f16
  | 24 => { elem := .int 4 false, width := 4, block := 64, scale := some .f16, zeros := true }
  | 25 => blk (.int 4 true) 4 128 .bf16
  | 26 => blk (.flt .e2m1) 4 16 .e4m3
  | _ => plain (.flt .e4m3) 8

/-- Bytes of one block scale (R49). -/
def scaleBytes : FF → Nat
  | .f16 | .bf16 => 2
  | _ => 1

/-- Bytes of the data part of an image (R49). -/
def imageData (c k : Nat) : Nat := k * (matFmt c).width / 8
/-- Bytes of an image before padding. -/
def imageUsed (c k : Nat) : Nat :=
  let f := matFmt c
  imageData c k + (match f.scale with
    | some F => k / f.block * scaleBytes F + (if f.zeros then (k / f.block + 1) / 2 else 0)
    | none => if c = 27 then 4 else 0)
/-- The image length L (R49). -/
def imageLen (c k : Nat) : Nat := (imageUsed c k + 31) / 32 * 32

/-- The units of an image that R213 reads each once: elements, scales and zero points, as first bit and bits. -/
def imageUnits (c k : Nat) : List (Nat × Nat) :=
  let f := matFmt c
  let d := 8 * imageData c k
  let es := (List.range k).map fun i => (f.width * i, f.width)
  let nb := if f.block = 0 then 0 else k / f.block
  let sw := (f.scale.map scaleBytes).getD 0 * 8
  es ++ ((List.range nb).map fun i => (d + sw * i, sw)) ++
    (if f.zeros then (List.range nb).map fun i => (d + sw * nb + 4 * i, 4) else []) ++
    (if c = 27 then [(d, 32)] else [])

/-- Bits of an image given as a number. -/
def bitsAt (img first n : Nat) : Nat := img / 2 ^ first % 2 ^ n

/-- A value scaled by another; NaN when the product is (R51). -/
def mulVal : Option Val → Option Val → Option Val
  | some x, some y => Val.mul x y
  | _, _ => none

/-- An encoding as a value; NaN as none. -/
def valOf (E : Elem) (x : Nat) : Option Val :=
  match decElem E false x with
  | .nan .. => none
  | v => some v

/-- elem_value(F, k) (R51), with the operand's tile scale. -/
def elemValue (c kk : Nat) (img : Nat) (tile : W32) (k : Nat) : Option Val :=
  let f := matFmt c
  let x := bitsAt img (f.width * k) f.width
  let d := 8 * imageData c kk
  let v := valOf f.elem x
  match f.scale with
  | none => if c = 27 then mulVal (valOf (.flt .f32) (bitsAt img d 32)) v else v
  | some F =>
    let sw := 8 * scaleBytes F
    let sc := bitsAt img (d + sw * (k / f.block)) sw
    let sv := if F = .e4m3 then valOf (.flt .e4m3) (sc % 128) else valOf (.flt F) sc
    let v := if f.zeros then
        let z := bitsAt img (d + sw * (kk / f.block) + 4 * (k / f.block)) 4
        some (Val.ofInt ((x : Int) - (z : Int)))
      else if c = 22 then mulVal v (some (.fin false 1 64))
      else v
    let r := mulVal sv v
    if c = 26 then mulVal (valOf (.flt .f32) tile.toNat) r else r

/-- The exact sum of products; NaN when one is, or when infinities of both signs meet (R62). -/
def sumVals : List (Option Val) → Option Val
  | [] => some (.fin false 0 1)
  | v :: vs => vs.foldl (fun a b => match a, b with
      | some x, some y => Val.add .rne x y
      | _, _ => none) v

/-- c := rne(c + rne(S)) of a float accumulator; a NaN becomes the canonical one (R62). -/
def stepFloat (F : FF) (c : Nat) (s : Option Val) : Nat :=
  match s with
  | none => F.canon
  | some v =>
    if (decVal F false c).isNan then F.canon else (opAdd F {} c (encVal F {} v).1).1

/-- c := sat_s32(c + sat_s32(S)), and whether a clamp changed a value (R62). -/
def stepInt (c : Nat) (s : Int) : Nat × Bool :=
  let t := clampInt 32 true s
  let r := sextNat 32 c + t
  (wrapInt 32 (clampInt 32 true r), t != s || clampInt 32 true r != r)

/-- The integer that an exact value is. -/
def intOf : Option Val → Int
  | some (.fin s n d) => signedNum s (n / d)
  | _ => 0

/-- A k.mma as its numbers see it: the accumulator's type, formats, K and tile scales. -/
structure MmaShape where
  ty : Ty
  afmt : Nat
  bfmt : Nat
  k : Nat
  ta : W32
  tb : W32

/-- The exact sum of chunk j (R62). -/
def chunkSum (m : MmaShape) (a b : Nat) (j : Nat) : Option Val :=
  sumVals ((List.range 32).map fun i =>
    mulVal (elemValue m.afmt m.k a m.ta (32 * j + i)) (elemValue m.bfmt m.k b m.tb (32 * j + i)))

/-- The values that an accumulator element takes chunk by chunk, last first, and whether a clamp acted (R62). -/
def mmaSteps (m : MmaShape) (a b c : Nat) : List Nat × Bool :=
  (List.range (m.k / 32)).foldl (fun acc j =>
    let x := acc.1.headD c
    match m.ty with
    | .s32 =>
      let (r, sat) := stepInt x (intOf (chunkSum m a b j))
      (r :: acc.1, acc.2 || sat)
    | .f64 => (stepFloat .f64 x (chunkSum m a b j) :: acc.1, acc.2)
    | _ => (stepFloat .f32 x (chunkSum m a b j) :: acc.1, acc.2)) ([], false)

/-- An element of k.scale (R217): sub 0 f32, 1 f64, 2 s32 to f32. -/
def scaleElem (sub : Nat) (sig : W64) (c : Nat) : Nat :=
  let F : FF := if sub = 1 then .f64 else .f32
  let x := if sub = 2 then some (Val.ofInt (sextNat 32 c)) else valOf (.flt F) c
  match mulVal x (valOf (.flt F) (sig.toNat % 2 ^ F.bitsN)) with
  | some v => (encVal F {} v).1
  | none => F.canon

/-- Bytes of an element of k.drain (R218). -/
def drainWidth (fmt : Nat) : Nat :=
  match fmt with
  | 0 | 5 => 4
  | 1 | 2 | 6 => 2
  | 8 => 8
  | _ => 1

/-- An element as k.drain writes it (R218). -/
def drainElem (fmt : Nat) (env : FEnv) (c : Nat) : Nat :=
  match fmt with
  | 1 => (convert (.flt .f32) (.flt .bf16) env c).1
  | 2 => (convert (.flt .f32) (.flt .f16) env c).1
  | 3 => (convert (.flt .f32) (.flt .e4m3) env c).1
  | 4 => (convert (.flt .f32) (.flt .e5m2) env c).1
  | 5 => (convert (.int 32 true) (.flt .f32) env c).1
  | 6 => (convert (.int 32 true) (.int 16 true) { env with sat := true } c).1
  | 7 => (convert (.int 32 true) (.int 8 true) { env with sat := true } c).1
  | _ => c

end Sys2Proof.Machine
end

