-- ==== Sys2Proof/Machine/Keystone.lean ====
section
/-! DEFINITION. The matrix engine (R206-R224): what a matrix command names, its validation and start, its effects when it
completes, the links between clusters, and vector accesses to accumulators. -/
namespace Sys2Proof.Machine

/-! What commands name (R209): tile registers 0-7, accumulators 16-31, receive queues 40 and 41, links out 42 and 43. -/
def accNames (acc : Nat) (wide : Bool) : List Nat := if wide then [16 + acc, 17 + acc] else [16 + acc]
def linkName (west : Bool) : Nat := if west then 40 else 41
/-- The tile registers, accumulators and queues that a command names. -/
def MatKind.names : MatKind → List Nat
  | .mma acc ta afmt _ _ _ _ bkind _ _ _ _ =>
    accNames acc (afmt == 15) ++ [ta] ++ (if bkind = 1 then [40] else if bkind = 2 then [41] else [])
  | .lda ta _ _ _ _ _ => [ta]
  | .zero acc => accNames acc false
  | .scale acc sub _ => accNames acc (sub == 1)
  | .drain acc fmt _ _ _ _ _ _ => accNames acc (fmt == 8)
  | .pass dir src _ _ => [42 + dir] ++ (if src = 1 then [40] else if src = 2 then [41] else [])
  | .recv west _ _ => [linkName west]
/-- The accumulators that a command writes. -/
def MatKind.accsWritten : MatKind → List Nat
  | .mma acc _ afmt _ _ _ _ _ _ _ _ _ => if afmt = 15 then [acc, acc + 1] else [acc]
  | .zero acc => [acc]
  | .scale acc sub _ => if sub = 1 then [acc, acc + 1] else [acc]
  | _ => []
def MatKind.isMma : MatKind → Bool
  | .mma .. => true
  | _ => false
/-- The receive queue whose head a command uses: true for west. -/
def MatKind.link : MatKind → Option Bool
  | .mma _ _ _ _ _ _ _ bkind _ _ _ _ => if bkind = 1 then some true else if bkind = 2 then some false else none
  | .pass _ src _ _ => if src = 1 then some true else if src = 2 then some false else none
  | .recv west _ _ => some west
  | _ => none
def MatKind.usesLink : MatKind → Bool
  | .pass .. => true
  | k => k.link.isSome

/-! Links (R219). -/
def column (clu : Nat) : Nat := clu % 12 / 3
def row (clu : Nat) : Nat := clu % 12 % 3
/-- The context of the same number in a neighbouring cluster. -/
def westOf (k : Nat) : Option Nat := if column (k / 4) = 0 then none else some (k - 12)
def northOf (k : Nat) : Option Nat := if row (k / 4) = 0 then none else some (k - 4)
def eastOf (k : Nat) : Option Nat := if column (k / 4) = 3 then none else some (k + 12)
def southOf (k : Nat) : Option Nat := if row (k / 4) = 2 then none else some (k + 4)

/-! Accumulators and tile registers, element (m, n) of an accumulator under 256 m + n. -/
def KsCtx.accElem (c : KsCtx) (acc key : Nat) : W32 := (c.acc.getD acc []).getD key 0#32
def KsCtx.setElem (c : KsCtx) (acc key : Nat) (x : W32) : KsCtx :=
  { c with acc := c.acc.put [] acc ((c.acc.getD acc []).put 0#32 key x) }
/-- An element of an accumulator, or of a pair. -/
def KsCtx.elem (c : KsCtx) (acc : Nat) (wide : Bool) (key : Nat) : Nat :=
  (c.accElem acc key).toNat + (if wide then 2 ^ 32 * (c.accElem (acc + 1) key).toNat else 0)
def KsCtx.setWide (c : KsCtx) (acc : Nat) (wide : Bool) (key x : Nat) : KsCtx :=
  let c := c.setElem acc key (BitVec.ofNat 32 x)
  if wide then c.setElem (acc + 1) key (BitVec.ofNat 32 (x / 2 ^ 32)) else c
def KsCtx.tileByte (c : KsCtx) (ta off : Nat) : Byte := (c.ta.getD ta []).getD off 0#8
/-- The first n bytes of a tile register row as a number. -/
def KsCtx.tileRow (c : KsCtx) (ta m n : Nat) : Nat := natOfBytes ((List.range n).map fun i => c.tileByte ta (512 * m + i))
def KsCtx.setTile (c : KsCtx) (ta off : Nat) (x : Byte) : KsCtx :=
  { c with ta := c.ta.put [] ta ((c.ta.getD ta []).put 0#8 off x) }

/-! Validation (R211). -/
/-- How a validation ends: failed with a status, stopped by a fault of translation, put off while a holder keeps a line that
it needs, or passed with the runs that the command reads and writes. -/
inductive MatCheck
  | failed (status : Nat)
  | held
  | stopped (f : XFault) (va : W64) (write : Bool)
  | ok (reads dests : List MatRun)

namespace State
def asidOfKs (s : State) (k : Nat) : Nat := s.chanAsid (.key k)
def supOfKs (s : State) (k : Nat) : Bool := s.chanSup (.key k)
def ksLaunch (s : State) (k : Nat) : Option Launch := ((s.ksCtx k).task.bind s.tasks.get?).bind s.launchOf
/-- Whether a context's launch may use links (R211, R249). -/
def linksAllowed (s : State) (k : Nat) : Bool := (s.ksLaunch k).any (·.pcls == 0)

/-- Translate runs of a command, given as index, offset, address and length: the runs, the first fault, and whether one
lies in a window of a host or a peer, whatever its access rights (R211). -/
def placeRuns (s : State) (k : Nat) (acc : Acc) (xs : List (Nat × Nat × Nat × Nat)) :
    State × List MatRun × Option (XFault × W64) × Bool :=
  xs.foldl (fun (st : State × List MatRun × Option (XFault × W64) × Bool) x =>
    match st.1.translate (s.asidOfKs k) (s.supOfKs k) (BitVec.ofNat 64 x.2.2.1) acc with
    | (s1, .error f) =>
      let window := ((s1.homeAt (s.asidOfKs k) (BitVec.ofNat 64 x.2.2.1)).map (·.2)).getD false
      (s1, st.2.1, st.2.2.1.or (some (f, BitVec.ofNat 64 x.2.2.1)), st.2.2.2 || window)
    | (s1, .ok t) =>
      let r : MatRun := { idx := x.1, off := x.2.1, n := x.2.2.2, loc := .mem t.pa t.grain t.pol, old := [], lost := false }
      (s1, st.2.1 ++ [r], st.2.2.1, st.2.2.2 || isRemote t.pa)) (s, [], none, false)

/-- Runs cut at pages: rows of n bytes from an address with a pitch. -/
def rowRuns (va : W64) (pitch rows n : Nat) : List (Nat × Nat × Nat × Nat) :=
  (List.range rows).flatMap fun r =>
    let a := (va.toNat + r * pitch) % 2 ^ 64
    (cutPages (n / 4096 + 2) a n).map fun p => (r, (p.1 + 2 ^ 64 - a) % 2 ^ 64, p.1, p.2)

/-- A fault met while validating: a walk or a fill that waits for a holder is no fault (R402). -/
def checkFault (f : XFault) (va : W64) (write : Bool) : MatCheck := if f.held.isSome then .held else .stopped f va write
/-- Validate runs of global memory: a window fails, a fault stops. -/
def checkRuns (s : State) (k : Nat) (write : Bool) (va : W64) (pitch rows n : Nat) : State × MatCheck :=
  match s.placeRuns k (if write then .write else .read) (rowRuns va pitch rows n) with
  | (s, _, _, true) => (s, .failed 0x34)
  | (s, _, some (f, a), false) => (s, checkFault f a write)
  | (s, rs, none, false) => (s, if write then .ok [] rs else .ok rs [])

/-- Fill the invalid chunks of a team's mapped scratch that runs of it overlap (R174, R211). -/
def fillRuns (s : State) (k t : Nat) (rs : List (Nat × Nat)) : State × Option (XFault × W64) :=
  let T := s.tasks.get? t
  let chunks := ((T.map (·.maps)).getD []).zipIdx.flatMap fun m =>
    ((List.range (m.1.len / 128)).filter fun c => rs.any fun r => rangesMeet r.1 r.2 (m.1.off + 128 * c) 128).map fun c =>
      (m.2, c, chunkVa m.1 c)
  chunks.foldl (fun (acc : State × Option (XFault × W64)) x =>
    if acc.2.isSome then acc
    else
      match acc.1.fillChunk t x.1 x.2.1 (s.asidOfKs k) (s.supOfKs k) .read (idKs k) with
      | (s, some f) => (s, some (f, x.2.2))
      | (s, none) => (s, none)) (s, none)

/-- Validate a descriptor of 256 images of L bytes (R210, R211). -/
def checkDesc (s : State) (k : Nat) (store write : Bool) (desc : List W32) (L : Nat) : State × MatCheck :=
  let w := fun i => (desc.getD i 0#32).toNat
  let stride := w 2
  if w 3 != 0 || stride % 32 != 0 || stride < L || w 0 % 32 != 0 then (s, .failed 0x34)
  else if store then s.checkRuns k write (pairOf (desc.getD 0 0#32) (desc.getD 1 0#32)) stride 256 L
  else
    let x := w 1
    if x / 4 % 2 ^ 6 != 0 || x / 2 ^ 15 != 0 then (s, .failed 0x34)
    else
      let core := k / 4 * 4 + x % 4
      let team := s.tasks.find? fun p =>
        p.2.st == .resident && p.2.core == core && p.2.slot == x / 2 ^ 8 % 128 &&
          some p.2.launch == ((s.ksCtx k).task.bind s.tasks.get?).map (·.launch)
      match team with
      | none => (s, .failed 0x34)
      | some (t, T) =>
        if T.scratch < w 0 + 255 * stride + L then (s, .failed 0x0C)
        else
          let offs := (List.range 256).map fun n => w 0 + n * stride
          match s.fillRuns k t (offs.map fun o => (o, L)) with
          | (s, some (f, va)) => (s, checkFault f va false)
          | (s, none) =>
            (s, .ok (offs.zipIdx.map fun o => { idx := o.2, off := 0, n := L, loc := .bank t o.1 false, old := [], lost := false })
              [])

/-- The queue of a context's link: true for west. -/
def queueOf (s : State) (k : Nat) (west : Bool) : List Tile := if west then (s.ksCtx k).west else (s.ksCtx k).north
def neighbour (k : Nat) (west : Bool) : Option Nat := if west then westOf k else northOf k

/-- The validation of a command (R211, R216, R218, R220), in the order of its checks. -/
def validate (s : State) (k : Nat) (c : MatCmd) : State × MatCheck :=
  let linkBad := fun (west : Bool) => !s.linksAllowed k || (neighbour k west).isNone
  match c.kind with
  | .mma _ _ _ bfmt kc _ _ bkind desc _ _ _ =>
    let L := imageLen bfmt (32 * 2 ^ kc)
    if bkind = 1 || bkind = 2 then
      let west := bkind == 1
      if linkBad west then (s, .failed 0x34)
      else
        match s.queueOf k west with
        | t :: _ => (s, if t.len = L then .ok [] [] else .failed 0x34)
        | [] => (s, .failed 0x34)
    else s.checkDesc k (bkind == 3) false desc L
  | .lda _ src pitch rows bytes bad => if bad then (s, .failed 0x34) else s.checkRuns k false src pitch rows bytes
  | .zero _ | .scale _ _ _ => (s, .ok [] [])
  | .drain _ fmt _ _ dst pitch _ _ =>
    let w := drainWidth fmt
    if dst.toNat % 32 != 0 || pitch % w != 0 || pitch < 256 * w then (s, .failed 0x34)
    else s.checkRuns k true dst pitch 128 (256 * w)
  | .pass dir src desc len =>
    if !s.linksAllowed k || (if dir = 0 then eastOf k else southOf k).isNone then (s, .failed 0x34)
    else if src = 1 || src = 2 then (s, if linkBad (src == 1) then .failed 0x34 else .ok [] [])
    else if len % 32 != 0 || len < 32 || 512 < len then (s, .failed 0x34)
    else s.checkDesc k (src == 3) false desc len
  | .recv west drop desc =>
    if linkBad west then (s, .failed 0x34)
    else if drop then (s, .ok [] [])
    else
      match s.queueOf k west with
      | t :: _ => s.checkDesc k true true desc t.len
      | [] => (s, .failed 0x34)

/-! Starting. -/
/-- The neighbour that a k.pass sends to, when its context serves a task of the same launch and its queue has room
(R220). -/
def passTarget (s : State) (k dir : Nat) : Option Nat :=
  match if dir = 0 then eastOf k else southOf k with
  | none => none
  | some n =>
    let mine := ((s.ksCtx k).task.bind s.tasks.get?).map (·.launch)
    let theirs := ((s.ksCtx n).task.bind s.tasks.get?).map (·.launch)
    if mine.isSome && mine == theirs && (s.queueOf n (dir == 0)).length < 2 then some n else none

/-- Whether a command of a context is ready to be validated: its link holds a tile, and a send has room; one that the
first check fails does not wait (R215, R220). -/
def matReady (s : State) (k : Nat) (c : MatCmd) : Bool :=
  let tile := match c.kind.link with
    | some west => !s.linksAllowed k || (neighbour k west).isNone || !(s.queueOf k west).isEmpty
    | none => true
  let room := match c.kind with
    | .pass dir _ _ _ =>
      !s.linksAllowed k || (if dir = 0 then eastOf k else southOf k).isNone || (s.passTarget k dir).isSome
    | _ => true
  tile && room

/-- Commands before a value in the queue. -/
def matBefore (s : State) (k v : Nat) : List MatCmd := (s.ksCtx k).mq.filter fun q => q.value < v

/-- Whether a context's task is killed: its commands are abandoned (R356, R357). -/
def ksKilled (s : State) (k : Nat) : Bool := (((s.ksCtx k).task.bind s.tasks.get?).bind (·.killed)).isSome
/-- The command that a context may start next: acceptance order on what commands name, at most five started k.mma, and
the queue not stopped (R209, R212). -/
def startCand (s : State) (k : Nat) : Option MatCmd :=
  let c := s.ksCtx k
  if c.mqStopped || !s.chanLive (.key k) || s.ksKilled k then none
  else
    c.mq.find? fun q =>
      let before := s.matBefore k q.value
      !q.started && s.matReady k q &&
        !(before.any fun p => p.kind.names.any fun x => q.kind.names.contains x && (!p.started || 40 ≤ x)) &&
        !(q.kind.isMma && 5 ≤ (c.mq.filter fun p => p.started && p.kind.isMma).length)

/-- Whether the engine's round robin has reached a context's k.mma (R209). -/
def mmaTurn (s : State) (k : Nat) : Bool :=
  let first := (s.clu (k / 4)).engineNext
  let before := (List.range 4).takeWhile fun i => (first + i) % 4 != k % 4
  before.all fun i => !((s.startCand (k / 4 * 4 + (first + i) % 4)).any (·.kind.isMma))

/-- A command leaves the queue and completes on tc16. -/
def endMatrix (s : State) (k v st ts : Nat) (wrote : NatSet) : State :=
  s.modKs k fun c => { c with mq := c.mq.filter fun q => q.value != v, tc := c.tc.complete v st ts wrote }

/-- The bytes at a run, without an access. -/
def runNow (s : State) (r : MatRun) : List Byte :=
  match r.loc with
  | .mem pa _ _ => s.mem.readBytes pa r.n
  | .bank t o _ => s.scratchRead t o r.n
  | .none => []
/-- What the runs of a command hold at its acceptance (R213): kept where they can be found then. -/
def capture (s : State) (k : Nat) (c : MatCmd) : MatCmd :=
  match s.validate k c with
  | (_, .ok reads _) => { c with reads := reads.map fun r => { r with old := s.runNow r } }
  | _ => c

/-- Core, team slot and context of a matrix queue's retry entries (R351). -/
def stopMatrix (s : State) (k : Nat) (c : MatCmd) (f : XFault) (va : W64) (write : Bool) : State :=
  let (core, team, _) := s.chanPlace (.key k)
  (s.modKs k fun x => { x with mqStopped := true }).pushRetry core team 16 f.cause va (BitVec.ofNat 64 c.value) c.pc write
    (.matrix k ((s.ksCtx k).task.getD 0) c.value)

/-- Start the next command of a context (R209, R211, R212). -/
def matrixStart (s : State) (k : Nat) : State :=
  match s.startCand k with
  | none => s
  | some c =>
    if (c.kind.isMma && !s.mmaTurn k) || !((s.ksCtx k).task.map s.enginesRun).getD false then s
    else
      let s := if c.kind.isMma then s.modClu (k / 4) fun x => { x with engineNext := (k % 4 + 1) % 4 } else s
      match s.validate k c with
      | (s, .failed st) => s.endMatrix k c.value st 0 []
      | (s, .held) => s
      | (s, .stopped f va w) => s.stopMatrix k c f va w
      | (s, .ok reads dests) =>
        let reads := reads.map fun r =>
          match c.reads.find? fun q => q.idx == r.idx && q.off == r.off && q.loc == r.loc && q.n == r.n with
          | some q => { r with old := q.old }
          | none => { r with old := s.runNow r }
        s.modKs k fun x => { x with mq := x.mq.map fun q =>
          if q.value = c.value then { q with started := true, reads := reads, dests := dests } else q }

/-! Reads of a started command (R213). -/
/-- The bytes of a run, read once at its home, in units that can or cannot be read: for each byte whether it can, and the
statuses that the others cause. -/
def readRun' (s : State) (k : Nat) (r : MatRun) : State × List (Byte × Bool) × List Nat :=
  match r.loc with
  | .bank t o _ => (s, (s.scratchRead t o r.n).map (·, true), [])
  | .none => (s, [], [])
  | .mem pa grain pol =>
    let causes := fun (s : State) (u : Nat × Nat) => if r.lost then [0x33] else s.readCauses u.1 u.2
    let (s, bs, _, _) := s.homeRead pa r.n grain none pol (idKs k)
    let us := halfRuns pa r.n
    (s, bs.zip (us.flatMap fun u => List.replicate u.2 (causes s u).isEmpty), us.flatMap (causes s))

/-- Units of an image that changed since acceptance are each old or new (R213). -/
def mixUnits (s : State) (units : List (Nat × Nat)) (old new : Nat) : Nat × State :=
  units.foldl (fun (acc : Nat × State) u =>
    let o := bitsAt old u.1 u.2
    let w := bitsAt new u.1 u.2
    if o = w then acc
    else
      let (x, s) := pickFrom acc.2 [o, w] w
      (acc.1 + x * 2 ^ u.1 - w * 2 ^ u.1, s)) (new, s)

/-- An image of an operand as read: its bytes as a number, and the bytes of it that could not be read. -/
structure Image where
  val : Nat
  holes : List Nat
/-- What an image shows to one use of it: any bytes where it could not be read (R213). -/
def Image.use (i : Image) (s : State) : Nat × State :=
  i.holes.foldl (fun (acc : Nat × State) k =>
    let (b, s) := anyByte acc.2
    (acc.1 - bitsAt acc.1 (8 * k) 8 * 2 ^ (8 * k) + b.toNat * 2 ^ (8 * k), s)) (i.val, s)

/-- The images that a command reads, by index, and the statuses of the bytes that could not be read. -/
def readImages (s : State) (k : Nat) (c : MatCmd) (units : List (Nat × Nat)) (count : Nat) : State × List Image × List Nat :=
  (List.range count).foldl (fun (acc : State × List Image × List Nat) i =>
    let rs := c.reads.filter (·.idx == i)
    let (s, bs, sts) := rs.foldl (fun (a : State × List (Byte × Bool) × List Nat) r =>
      let (s, b, e) := a.1.readRun' k r
      (s, a.2.1 ++ b, a.2.2 ++ e)) (acc.1, [], [])
    let old := rs.flatMap (·.old)
    let now := natOfBytes (bs.map (·.1))
    let (img, s) := if old.length = bs.length then s.mixUnits units (natOfBytes old) now else (now, s)
    let holes := (bs.zipIdx.filter fun p => !p.1.2).map (·.2)
    (s, acc.2.1 ++ [{ val := img, holes := holes }], acc.2.2 ++ sts)) (s, [], [])

/-- Runs whose lines a holder has: they are recalled and the command goes on later (R402). -/
def runsHeld (s : State) (k : Nat) (write : Bool) (rs : List MatRun) : Bool × State :=
  let hit := rs.filter fun r => match r.loc with
    | .mem pa _ _ => s.dirConflict (idKs k) write pa r.n
    | _ => false
  (!hit.isEmpty, hit.foldl (fun (s : State) r => match r.loc with
    | .mem pa _ _ => s.recallFor (idKs k) write pa r.n
    | _ => s) s)

/-! Accumulator updates (R215, R217, R223, R224). -/
/-- The values that an element has held while v.accwr wrote it during a command: before, and after each write. -/
def elemStates (c : KsCtx) (q : MatCmd) (acc : Nat) (wide : Bool) (key : Nat) : List Nat :=
  let ws := q.vaWrites.filter fun w => w.1 == acc * 32768 + key || (wide && w.1 == (acc + 1) * 32768 + key)
  match ws with
  | [] => [c.elem acc wide key]
  | _ =>
    let lowFirst := (ws.find? fun w => w.1 == acc * 32768 + key).map (·.2.1)
    let highFirst := (ws.find? fun w => w.1 == (acc + 1) * 32768 + key).map (·.2.1)
    let lo := lowFirst.getD (c.accElem acc key)
    let hi := highFirst.getD (c.accElem (acc + 1) key)
    let val := fun (p : W32 × W32) => p.1.toNat + (if wide then 2 ^ 32 * p.2.toNat else 0)
    let steps := ws.foldl (fun (acc' : (W32 × W32) × List Nat) w =>
      let p := if w.1 == acc * 32768 + key then (w.2.2, acc'.1.2) else (acc'.1.1, w.2.2)
      (p, acc'.2 ++ [val p])) ((lo, hi), [val (lo, hi)])
    steps.2

/-- The last accepted command that is to write an accumulator: values that it holds until then stay in its history under that
command's number (R223). -/
def lastWriter (c : KsCtx) (acc : Nat) : Nat := (c.mq.filter fun q => q.kind.accsWritten.contains acc).foldl (fun m q => max m q.value) 0
/-- Values enter an accumulator's history under a command's number. -/
def noteHist (c : KsCtx) (acc : Nat) (wide : Bool) (v : Nat) (xs : List Nat) : KsCtx :=
  let new := xs.flatMap fun x => (acc, v, BitVec.ofNat 32 x) :: (if wide then [(acc + 1, v, BitVec.ofNat 32 (x / 2 ^ 32))] else [])
  { c with accHist := new.foldl (fun h x => if h.contains x then h else h ++ [x]) c.accHist }

/-- Update one element by a command: `f` gives the successive values from a starting one, last first. After a v.accwr
the element is what it wrote, or the result from the value before or after it (R224); after an unreadable operand it may
stay (R213). -/
def updateElem (s : State) (k : Nat) (q : MatCmd) (acc : Nat) (wide failed : Bool) (key : Nat) (f : Nat → List Nat × Bool) :
    State :=
  let c := s.ksCtx k
  let sts := elemStates c q acc wide key
  let outs := sts.map fun x => ((f x).1.headD x, (f x).2)
  let kept := (sts.drop 1).map fun x => (x, false)
  let all := ((outs ++ kept ++ (if failed then sts.map fun x => (x, false) else [])).eraseDups)
  let (r, s) := pickFrom s all (0, false)
  let mid := sts ++ sts.flatMap fun x => (f x).1
  s.modKs k fun c =>
    let c := (noteHist c acc wide (max q.value (lastWriter c acc)) mid).setWide acc wide key r.1
    let upd := fun (p : MatCmd) =>
      { p with vaWrites := p.vaWrites.map fun w =>
          if w.1 == acc * 32768 + key then (w.1, BitVec.ofNat 32 r.1, w.2.2)
          else if wide && w.1 == (acc + 1) * 32768 + key then (w.1, BitVec.ofNat 32 (r.1 / 2 ^ 32), w.2.2)
          else w }
    { c with sat := c.sat || r.2, mq := c.mq.map fun p => if q.value < p.value then upd p else p }

/-- Every element of an accumulator in turn, from the image that its column reads. -/
def updateAcc (s : State) (k : Nat) (q : MatCmd) (acc : Nat) (wide failed : Bool) (imgs : List Image)
    (f : Nat → Nat → Nat → List Nat × Bool) : State :=
  (List.range 32768).foldl (fun (s : State) key =>
    let (img, s) := (imgs.getD (key % 256) { val := 0, holes := [] }).use s
    s.updateElem k q acc wide failed key (f (key / 256) img)) s

/-- The images of a tile as numbers. -/
def tileImages (t : Tile) : List Nat := (List.range 256).map fun n => natOfBytes (t.images.getD n [])

/-- Write the bytes of runs at their homes (R218): the status that a refusing home causes, the visibility time and the
sectors. Of a command that is cancelled or that a home refuses each byte is old or new (R184, R185, R213). -/
def writeDests (s : State) (k : Nat) (rs : List MatRun) (cancelled : Bool) (bytes : Nat → List Byte) :
    State × Option Nat × Nat × NatSet :=
  let err := rs.foldl (fun e r => match r.loc with
    | .mem pa _ _ => e.or (if r.lost then some 0x33 else s.homeError pa r.n .write)
    | _ => e) (none : Option Nat)
  let mixed := cancelled || err.isSome
  let (s, v, w) := rs.foldl (fun (acc : State × Nat × NatSet) r => match r.loc with
    | .mem pa grain pol =>
      let new := ((bytes r.idx).drop r.off).take r.n
      let (s, bs) := if mixed then mixBytes acc.1 (acc.1.mem.readBytes pa r.n) new else (acc.1, new)
      let (s, v) := s.writeRuns (idKs k) .write [{ pa := pa, n := r.n, grain := grain, pol := pol }] bs
      let secs := (List.range ((pa + (r.n - 1)) / 32 + 1 - pa / 32)).map (pa / 32 + ·)
      (s, max acc.2.1 v, NatSet.addAll acc.2.2 secs)
    | _ => acc) (s, 0, [])
  (s, err, v, w)

def clearLatch (c : KsCtx) (ta : Nat) : KsCtx :=
  { c with latch := match c.latch with
      | some (t, a, b) => if t = ta then none else some (t, a, b)
      | none => none }
def popLink (c : KsCtx) (west : Bool) : KsCtx :=
  if west then { c with west := c.west.drop 1 } else { c with north := c.north.drop 1 }

/-- The bytes that k.drain writes for a row (R218). -/
def drainRow (s : State) (k : Nat) (q : MatCmd) (acc fmt : Nat) (rnd : Rnd) (sat : Bool) (seed : W64) (ctr : W32) (m : Nat) :
    State × List Byte :=
  (List.range 256).foldl (fun (st : State × List Byte) n =>
    let sts := (elemStates (s.ksCtx k) q acc (fmt == 8) (256 * m + n)).eraseDups
    let (x, s) := pickFrom st.1 sts (sts.headD 0)
    let mode := if rnd = .dyn then Rnd.rne else rnd
    let env : FEnv := { mode := mode, sat := sat, draw := if mode = .stoch then srDraw seed ctr m n else 0 }
    (s, st.2 ++ Memory.leBytes (drainWidth fmt) (drainElem fmt env x))) (s, [])

/-- The effects of a started command (R215-R220) and its completion. -/
def finishMatrix (s : State) (k : Nat) (q : MatCmd) : State :=
  let (heldR, s) := s.runsHeld k false q.reads
  let (heldW, s) := s.runsHeld k true q.dests
  let n := (q.reads ++ q.dests).foldl (fun m r => m + r.n) 0
  if heldR || heldW || !s.mayInject 2 (k / 4) n then s
  else
    let s := s.noteInject 2 (k / 4) n
    match q.kind with
    | .mma acc ta afmt bfmt kc hold zacc _ _ keep ta0 tb0 =>
      let kk := 32 * 2 ^ kc
      let wide := afmt == 15
      let m : MmaShape := { ty := (pairing afmt bfmt).getD .f32, afmt := afmt, bfmt := bfmt, k := kk, ta := ta0, tb := tb0 }
      let head := ((q.kind.link).map fun west => (s.queueOf k west).head?).getD none
      let (s, imgs, sts) : State × List Image × List Nat := match head with
        | some t => (s, (tileImages t).map fun x => { val := x, holes := [] }, [])
        | none => s.readImages k q (imageUnits bfmt kk) 256
      let rows := (List.range 128).map fun i => (s.ksCtx k).tileRow ta i (imageLen afmt kk)
      let s := s.updateAcc k q acc wide (!sts.isEmpty) imgs fun i img c =>
        mmaSteps m (rows.getD i 0) img (if zacc then 0 else c)
      let s := s.modKs k fun c => { c with latch := if hold then some (ta, afmt, kc) else none }
      let s := match q.kind.link with
        | some west => if keep then s else s.modKs k fun c => popLink c west
        | none => s
      let (st, s) := pickFrom s sts.eraseDups 0
      s.endMatrix k q.value st 0 []
    | .lda ta _ _ rows n _ =>
      let units := (List.range n).map fun i => (8 * i, 8)
      let (s, imgs, sts) := s.readImages k q units rows
      let s := (List.range rows).foldl (fun (s : State) r =>
        let (img, s) := (imgs.getD r { val := 0, holes := [] }).use s
        (List.range 512).foldl (fun (s : State) i =>
          let new : Byte := if i < n then BitVec.ofNat 8 (bitsAt img (8 * i) 8) else 0#8
          let (x, s) := if sts.isEmpty then (new, s)
            else pickFrom s [new, (s.ksCtx k).tileByte ta (512 * r + i)] new
          s.modKs k fun c => c.setTile ta (512 * r + i) x) s) s
      let (st, s) := pickFrom s sts.eraseDups 0
      (s.modKs k fun c => clearLatch c ta).endMatrix k q.value st 0 []
    | .zero acc => (s.updateAcc k q acc false false [] fun _ _ _ => ([0], false)).endMatrix k q.value 0 0 []
    | .scale acc sub sig =>
      (s.updateAcc k q acc (sub == 1) false [] fun _ _ c => ([scaleElem sub sig c], false)).endMatrix k q.value 0 0 []
    | .drain acc fmt rnd sat _ _ seed ctr =>
      let (s, rows) := (List.range 128).foldl (fun (st : State × List (List Byte)) m =>
        let (s, bs) := st.1.drainRow k q acc fmt rnd sat seed ctr m
        (s, st.2 ++ [bs])) (s, [])
      let (s, e, v, w) := s.writeDests k q.dests false fun i => rows.getD i []
      s.endMatrix k q.value (e.getD 0) v w
    | .pass dir _ _ len =>
      match s.passTarget k dir with
      | none => s
      | some n =>
        let head := ((q.kind.link).map fun west => (s.queueOf k west).head?).getD none
        let units := (List.range len).map fun i => (8 * i, 8)
        let (s, tile, sts) : State × Tile × List Nat := match head with
          | some t => (s, t, [])
          | none =>
            let (s, imgs, sts) := s.readImages k q units 256
            (s, { len := len, images := imgs.zipIdx.map fun p => (p.2, Memory.leBytes len p.1.val) }, sts)
        let (st, s) := pickFrom s sts.eraseDups 0
        let s := if sts.isEmpty then
            s.modKs n fun c => if dir = 0 then { c with west := c.west ++ [tile] } else { c with north := c.north ++ [tile] }
          else s
        s.endMatrix k q.value st 0 []
    | .recv west drop _ =>
      match s.queueOf k west with
      | [] => s
      | t :: _ =>
        let (s, e, v, w) := if drop then (s, none, 0, []) else s.writeDests k q.dests false fun i => t.images.getD i []
        let s := if e.isSome then s else s.modKs k fun c => popLink c west
        s.endMatrix k q.value (e.getD 0) v w

/-- Started commands whose predecessors on what they name are complete; one of them completes (R209). -/
def matrixComplete (s : State) (k : Nat) : State :=
  let can := (s.ksCtx k).mq.filter fun q =>
    q.started && !s.ksKilled k && !((s.matBefore k q.value).any fun p => p.kind.names.any q.kind.names.contains)
  match can with
  | [] => s
  | d :: _ =>
    let (q, s) := pickFrom s can d
    s.finishMatrix k q

/-! Vector accesses (R222-R224). -/
/-- Values that a k.mma in progress may show of its accumulator (R223). -/
def mmaShown (s : State) (k : Nat) (q : MatCmd) (a : Nat) : List W32 :=
  match q.kind with
  | .mma acc ta afmt bfmt kc _ zacc _ _ _ ta0 tb0 =>
    if !q.started then []
    else
      let kk := 32 * 2 ^ kc
      let wide := afmt == 15
      let m : MmaShape := { ty := (pairing afmt bfmt).getD .f32, afmt := afmt, bfmt := bfmt, k := kk, ta := ta0, tb := tb0 }
      let imgs := match q.kind.link with
        | some west => (((s.queueOf k west).head?).map tileImages).getD []
        | none => (List.range 256).map fun n => natOfBytes ((q.reads.filter fun (x : MatRun) => x.idx == n).flatMap s.runNow)
      let c := s.ksCtx k
      let rows := (List.range 128).map fun i => c.tileRow ta i (imageLen afmt kk)
      ((List.range 32768).flatMap fun key =>
        (mmaSteps m (rows.getD (key / 256) 0) (imgs.getD (key % 256) 0) (if zacc then 0 else c.elem acc wide key)).1).map
          fun x => if a = acc then BitVec.ofNat 32 x else BitVec.ofNat 32 (x / 2 ^ 32)
  | _ => []

/-- What a v.accrd of an element may return (R223): the current value when the group has waited for every command that
writes the accumulator, otherwise any value that an element of it has held since. -/
def accValues (s : State) (k acc key covered : Nat) : List W32 :=
  let c := s.ksCtx k
  let now := c.accElem acc key
  let hist := (c.accHist.filter fun h => h.1 == acc && covered < h.2.1).map (·.2.2)
  let busy := c.mq.filter fun q => covered < q.value && q.kind.accsWritten.contains acc
  if hist.isEmpty && busy.isEmpty then [now]
  else
    let els := (c.acc.getD acc []).map (·.2)
    (now :: els ++ (if els.length < 32768 then [0#32] else []) ++ hist ++ busy.flatMap fun q => s.mmaShown k q acc).eraseDups

/-- The group of a fragment. -/
def agentGrp : Agent → Option Nat
  | .frag g _ => some g
  | .ks _ => none
def modTr (s : State) (a : Agent) (f : Nat → Nat) : State :=
  match a with
  | .frag g _ => s.modGrp g fun G => { G with tr := f G.tr }
  | .ks _ => s

/-- A v.accwr of one element: incomplete commands of the accumulator meet it, and the value that it replaces stays one that
the accumulator has held (R223, R224). -/
def accWrite (s : State) (k acc key : Nat) (x : W32) : State :=
  s.modKs k fun c =>
    let was := c.accElem acc key
    let note := fun (q : MatCmd) =>
      if q.kind.names.contains (16 + acc) then { q with vaWrites := q.vaWrites ++ [(acc * 32768 + key, was, x)] } else q
    let kept := if lastWriter c acc = 0 then c else noteHist c acc false (lastWriter c acc) [was.toNat]
    { (kept.setElem acc key x) with mq := c.mq.map note }

/-- An access of a fragment takes effect, in the program order of its fragment on its accumulator (R222). -/
def accComplete (s : State) (id : Nat) : State :=
  match s.reqs.get? id with
  | none => s
  | some r =>
    let target := match r.op with
      | .accRead k acc | .accWrite k acc => some (k, acc)
      | _ => none
    let sameAcc := fun (q : Req) => (match q.op with
      | .accRead k acc | .accWrite k acc => target == some (k, acc)
      | _ => false)
    match target with
    | none => s
    | some (k, acc) =>
      if s.reqs.any fun p => p.1 < id && sameAcc p.2 && agentGrp p.2.agent == agentGrp r.agent && p.2.fmask &&& r.fmask != 0#64 then s
      else
        let s := match r.op with
          | .accWrite _ _ => r.lanes.foldl (fun (s : State) (p : LaneReq) =>
              s.accWrite k acc p.off (BitVec.ofNat 32 (natOfBytes p.data))) s
          | _ =>
            let covered := (((agentGrp r.agent).bind s.grps.get?).map fun (G : Group) => G.ksSeen).getD 0
            let (s, ls) := r.lanes.foldl (fun (st : State × List LaneReq) (p : LaneReq) =>
              let vs := st.1.accValues k acc p.off covered
              let (x, s) := pickFrom st.1 vs (vs.headD 0#32)
              (s, st.2 ++ [{ p with off := 0, got := some (Memory.leBytes 4 x.toNat) }])) (s, [])
            let q := (s.reqs.get? id).getD r
            s.writeResult { q with lanes := ls }
        { s.modTr r.agent (· - 1) with reqs := s.reqs.erase id }
end State

/-! The life of a binding (R207). -/
namespace State
/-- Incomplete link commands of a context end with 0x31 and its receive queues are emptied (R220). -/
def dropLinks (s : State) (k : Nat) : State :=
  let s := ((s.ksCtx k).mq.filter (·.kind.usesLink)).foldl (fun (s : State) q => s.endMatrix k q.value 0x31 0 []) s
  s.modKs k fun c => { c with west := [], north := [], latch := none }
/-- Whether every command of a context on tc16 has been accepted and is complete, and its memory instructions are over (R207,
R263). -/
def ksQuiet (s : State) (k : Nat) : Bool :=
  let c := s.ksCtx k
  c.tc.v == c.tc.last && !(s.pends.any fun p => p.2.agent == .ks k) && !(s.reqs.any fun p => p.2.agent == .ks k)
/-- The binding of a context is released. -/
def releaseKs (s : State) (k : Nat) : State :=
  let s := match (s.ksCtx k).task with
    | some t =>
      let c := s.ksCtx k
      (s.noteOver t (max c.vis c.tc.top)).modTask t fun T => { T with ks := none }
    | none => s
  { s with ks := s.ks.erase k }
end State

/-- MATRIX_COMMAND_START (R211). -/
def execMatrixCommandStart (ctx : Nat) (s : State) : Host.Outcome State Fault Refusal := .next (s.matrixStart ctx)
/-- MATRIX_COMMAND_COMPLETE (R215). -/
def execMatrixCommandComplete (ctx : Nat) (s : State) : Host.Outcome State Fault Refusal := .next (s.matrixComplete ctx)
/-- ACCUMULATOR_ACCESS_COMPLETE (R222). -/
def execAccumulatorAccessComplete (id : Nat) (s : State) : Host.Outcome State Fault Refusal := .next (s.accComplete id)
/-- KEYSTONE_BINDING_RELEASE (R207): after the task's exit, once every command on tc16 has completed. -/
def execKeystoneBindingRelease (ctx : Nat) (s : State) : Host.Outcome State Fault Refusal :=
  .next (match (s.ksCtx ctx).task.bind s.tasks.get? with
    | some T => if T.st == .draining && s.ksQuiet ctx then s.releaseKs ctx else s
    | none => s)

end Sys2Proof.Machine
end

