-- ==== Sys2Proof/Machine/Accept.lean ====
section
/-! DEFINITION. Engine commands from issue to acceptance (R180), and the matrix instructions of class 0xD (R214-R222). -/
namespace Sys2Proof.Machine

/-! Acceptance (R180). -/
/-- A command ready for issue: no completion value yet. -/
def CopyCmd.fresh (kind : CopyKind) (dst src : W64) (len ck : Nat) (chain cmp ord : Bool) (pc : W64) (bad : Option Nat) :
    CopyCmd :=
  { value := 0, kind := kind, dst := dst, src := src, len := len, ck := ck, chain := chain, cmp := cmp, ord := ord, pc := pc,
    chunks := [], vis := 0, dests := none, bad := bad, ended := none }

namespace State
/-- The waits of the agents that may name a channel. -/
def chanWaits (s : State) (ch : Chan) : List Wait :=
  let waitIn := fun (x : FragState) => match x with
    | .waiting w => some w
    | _ => none
  match ch with
  | .team t _ => (s.grps.filter (·.2.task == t)).flatMap fun p => p.2.frags.filterMap fun q => waitIn q.2.st
  | .key k => (waitIn (s.ksCtx k).st).toList
/-- Whether a channel takes no command of a number: its commands are being cancelled (R194), or an older ch.sum.set or .exp
waits for it (R195). -/
def chanClosed (s : State) (ch : Chan) (n id : Nat) : Bool :=
  (s.getChan ch).cmds.any CopyCmd.cancelled || (s.chanWaits ch).any fun w => match w with
    | .channel m => m == n
    | .sums m before => m == n && before ≤ id
    | _ => false
/-- Whether an acceptance waits: for earlier releases of its fragment, for the fragment's earlier commands (R155, R302), or for
its channel. -/
def acceptBlocked (s : State) (id : Nat) (p : PendCmd) : Bool :=
  (match p.cmd with
    | .copy n _ => s.chanClosed (s.chanOf p.agent n) n id
    | _ => false) ||
  (p.after.any fun r => match s.reqs.get? r with
    | some q => !(Req.served q)
    | none => false) ||
  s.pends.any fun q => q.1 < id && (match p.agent, q.2.agent with
    | .frag g _, .frag g' _ => g == g' && p.fmask &&& q.2.fmask != 0#64
    | .ks k, .ks k' => k == k'
    | _, _ => false)

/-- The completion value reaches the registers that still await it. -/
def giveValue (s : State) (p : PendCmd) (v : Nat) : State :=
  p.dst.foldl (fun s r => s.sset p.agent r.1 (BitVec.ofNat 32 (if r.2 then v / 2 ^ 32 else v))) s

/-- A copy command enters its channel: chunks queue at their homes in acceptance order (R338). -/
def acceptCopy (s : State) (ch : Chan) (c : CopyCmd) : State :=
  let v := (s.chanTl ch).last + 1
  let n := if c.bad.isSome then 0 else chunkCount c.streamLen
  let c := { c with value := v, chunks := List.replicate n .unstarted }
  let s := s.modChanTl ch fun t => { t with last := v }
  let s := s.modChan ch fun C => { C with cmds := C.cmds ++ [c], lastLen := c.streamLen }
  let s := (List.range n).foldl (fun (s : State) j =>
    let sl := s.chunkHome ch c j
    { s with mortar := s.mortar.set sl (s.mortar.getD sl [] ++ [{ chan := ch, value := v, idx := j }]) }) s
  s.settle ch

/-- Free slots of the context that a command names (R180). -/
def roomFor (s : State) (p : PendCmd) : Bool :=
  match p.cmd with
  | .copy n _ => ((s.getChan (s.chanOf p.agent n)).cmds.filter fun c => c.ended.isNone).length < 64
  | .kv _ => ((s.taskOf p.agent).map (·.kvq.length)).getD 0 < 16
  | .matrix _ => (match p.agent with
      | .ks k => (s.ksCtx k).mq.length < 16
      | .frag _ _ => false)

/-- A command is accepted and numbered (R177, R180); a link command of a context that has ended is over at once (R220). -/
def accept (s : State) (id : Nat) : State :=
  match s.pends.get? id with
  | none => s
  | some p =>
    if s.acceptBlocked id p || !s.roomFor p || !((s.taskIdOf p.agent).map s.enginesRun).getD false then s
    else
      let s := { s.modEc p.agent (· - 1) with pends := s.pends.erase id }
      match p.cmd with
      | .copy n c =>
        let ch := s.chanOf p.agent n
        (s.giveValue p ((s.chanTl ch).last + 1)).acceptCopy ch c
      | .kv c =>
        match s.taskIdOf p.agent with
        | some t =>
          let v := (s.taskTl t 17).last + 1
          let s := (s.giveValue p v).modTaskTl t 17 fun tl => { tl with last := v }
          let (n, s) := s.takeId
          s.modTask t fun T => { T with kvq := T.kvq ++ [{ c with value := v, seq := n }] }
        | none => s
      | .matrix c =>
        match p.agent with
        | .ks k =>
          let v := (s.ksCtx k).tc.last + 1
          let s := s.giveValue p v
          let q := s.capture k { c with value := v }
          let late := (s.ksCtx k).exited && q.kind.usesLink
          let s := s.modKs k fun x => { x with tc := { x.tc with last := v }, mq := x.mq ++ [q] }
          if late then s.endMatrix k v 0x31 0 [] else s
        | .frag _ _ => s

/-- Issue an engine command (R180): it counts in EC until it is accepted. -/
def issueTo (s : State) (a : Agent) (h : Hdr) (dst : List (Nat × Bool)) (cmd : EngCmd) : State :=
  if 31 ≤ s.ecOf a then s.hold a
  else
    match s.acquirePending a with
    | some id => s.wait a (.request id)
    | none =>
      let (id, s) := s.takeId
      let s := s.cutScl a (dst.map (·.1))
      let p : PendCmd := { agent := a, fmask := s.maskOfAgent a, after := s.releasesOf a, cmd := cmd,
                           dst := dst }
      ({ s.modEc a (· + 1) with pends := s.pends.set id p }).retire a h
/-- Issue a command whose completion value goes to a scalar pair. -/
def issueCmd (s : State) (a : Agent) (h : Hdr) (d : Nat) (cmd : EngCmd) : State :=
  s.issueTo a h [(d, false), (d + 1, true)] cmd
end State

/-! Matrix instructions (R208, R214-R221). -/
/-- A matrix command before its acceptance. -/
def freshMat (kind : MatKind) (pc : W64) : MatCmd :=
  { value := 0, kind := kind, pc := pc, started := false, reads := [], dests := [], vaWrites := [] }
/-- The accumulator that a class 11 index names (R206). -/
def accOf (i : BitVec 8) : Nat := i.toNat - 0x10

/-- Issue a matrix command of a Keystone context, or retire when its guard is false. -/
def matIssue (h : Hdr) (dst : List (Nat × Bool)) (s : State) (kind : State → Agent → MatKind) : Host.Outcome State Fault Refusal :=
  withAgent s fun a =>
    if s.guardOnce a h then s.issueTo a h dst (.matrix (freshMat (kind s a) (s.pcOf a))) else s.retire a h
/-- The pair that receives a completion value. -/
def valuePair (d : Dst) : List (Nat × Bool) := [(d.idx.toNat, false), (d.idx.toNat + 1, true)]

/-- Four scalar registers from a descriptor's first (R210). -/
def descOf (s : State) (a : Agent) (b : Src) : List W32 := (List.range 4).map fun i => s.sread a (b.idx.toNat + i)

/-- k.mma (R214): descriptor and tile scales are read at issue. -/
def execKMma (h : Hdr) (f : KForm) (s : State) : Host.Outcome State Fault Refusal :=
  matIssue h [] s fun s a =>
    let c := f.c.idx.toNat
    let tiled := f.afmt == 26#5 || f.bfmt == 26#5
    .mma (accOf f.d.idx) f.a.idx.toNat f.afmt.toNat f.bfmt.toNat f.kc.toNat f.hold f.zacc f.bkind.toNat
      (if f.bkind == 0#2 || f.bkind == 3#2 then descOf s a f.b else []) (f.sub.getLsbD 0)
      (if tiled then s.sread a c else 0#32) (if tiled then s.sread a (c + 1) else 0#32)

/-- Whether the arguments of k.lda are outside R216. -/
def ldaBad (src : W64) (pitch shape : Nat) : Bool :=
  let nb := shape % 2 ^ 10
  let nr := shape / 2 ^ 16 % 2 ^ 8
  src.toNat % 32 != 0 || pitch % 32 != 0 || nb % 32 != 0 || nb < 32 || 512 < nb || nr = 0 || 128 < nr ||
    shape / 2 ^ 10 % 2 ^ 6 != 0 || shape / 2 ^ 24 != 0

/-- k.lda (R216). -/
def execKLda (h : Hdr) (f : EForm) (s : State) : Host.Outcome State Fault Refusal :=
  matIssue h (valuePair f.d) s fun s a =>
    let src := readScl s a f.b true
    let pitch := (s.sread a f.c.idx.toNat).toNat
    let shape := (s.sread a (f.c.idx.toNat + 1)).toNat
    .lda f.a.idx.toNat src pitch (shape / 2 ^ 16 % 2 ^ 8) (shape % 2 ^ 10) (ldaBad src pitch shape)

/-- k.zero (R217). -/
def execKZero (h : Hdr) (f : KForm) (s : State) : Host.Outcome State Fault Refusal :=
  matIssue h [] s fun _ _ => .zero (accOf f.d.idx)

/-- k.scale (R217). -/
def execKScale (h : Hdr) (f : KForm) (s : State) : Host.Outcome State Fault Refusal :=
  matIssue h [] s fun s a => .scale (accOf f.d.idx) f.sub.toNat (readScl s a f.c (f.sub == 1#5))

/-- Round codes of k.drain (R218). -/
def drainRnd (n : Nat) : Rnd :=
  match n with
  | 1 => .rtz
  | 2 => .rup
  | 3 => .rdn
  | 4 => .rna
  | 5 => .stoch
  | _ => .rne

/-- k.drain (R218); a stochastic one draws from the generator's state at issue, and C advances (R55). -/
def execKDrain (h : Hdr) (f : EForm) (s : State) : Host.Outcome State Fault Refusal :=
  withAgent s fun a =>
    if !s.guardOnce a h then s.retire a h
    else
      let rnd := drainRnd (f.flags.toNat / 16 % 8)
      let (S, C) := seedOf s a
      let kind := MatKind.drain (accOf f.a.idx) (f.flags.toNat % 16) rnd (f.flags.getLsbD 7) (readScl s a f.b true)
        (readScl s a f.c false).toNat S C
      let blocked := 31 ≤ s.ecOf a || (s.acquirePending a).isSome
      let s := s.issueTo a h (valuePair f.d) (.matrix (freshMat kind (s.pcOf a)))
      advanceCtr s a (rnd == .stoch && !blocked)

/-- k.pass (R220). -/
def execKPass (h : Hdr) (f : EForm) (s : State) : Host.Outcome State Fault Refusal :=
  matIssue h (valuePair f.d) s fun s a =>
    let src := f.flags.toNat / 4 % 4
    let mem := src == 0 || src == 3
    .pass (f.flags.toNat % 4) src (if mem then descOf s a f.b else []) (if mem then (readScl s a f.c false).toNat else 0)

/-- k.recv (R220). -/
def execKRecv (h : Hdr) (f : EForm) (s : State) : Host.Outcome State Fault Refusal :=
  matIssue h (valuePair f.d) s fun s a =>
    let drop := f.flags.getLsbD 1
    .recv (!f.flags.getLsbD 0) drop (if drop then [] else descOf s a f.b)

/-- The status word of a context (R221). -/
def ksStatus (c : KsCtx) : W32 :=
  BitVec.ofNat 32 (c.mq.length * 2 ^ 8 + (c.mq.filter fun q => q.started && q.kind.isMma).length * 2 ^ 5 +
    c.mqStopped.toNat * 2 ^ 3 + c.latch.isSome.toNat * 2 ^ 2 + c.sat.toNat)

/-- k.stat (R221): with .clr SAT is cleared in the same step. -/
def execKStat (h : Hdr) (f : NForm) (s : State) : Host.Outcome State Fault Refusal :=
  withAgent s fun a =>
    match a with
    | .frag _ _ => s.retire a h
    | .ks k =>
      if !s.guardOnce a h then s.retire a h
      else
        let st := ksStatus (s.ksCtx k)
        let s := if f.op == 1#5 then s.modKs k fun c => { c with sat := false } else s
        ((s.writeScl a f.d.idx.toNat false (st.setWidth 64)).addBusy a [(1, f.d.idx.toNat)] 1).retire a h

/-! Vector access to accumulators (R222). -/
/-- The element that a lane of v.accrd or v.accwr names. -/
def accKey (b : Nat) (l : Nat) : Nat := 256 * (b % 128) + 64 * (b / 2 ^ 8 % 4) + l

/-- Issue an access of the lanes to an accumulator of the bound context: it counts in TR. -/
def accIssue (s : State) (a : Agent) (h : Hdr) (acc : Nat) (b : Nat) (read : Bool) (d : Nat) (srcs : List Opnd)
    (data : Nat → W32) : State :=
  let part := s.guardMask a h
  match (s.taskOf a).bind (·.ks) with
  | none => s.raisePlain a 2 1
  | some k =>
    if 15 ≤ s.trOf a then s.hold a
    else s.withRegs a (if read then [d] else []) fun s =>
      let lanes := (lanesOf part).map fun l =>
        { lane := l, off := accKey b l, loc := .none, size := 4, va := 0#64, data := Memory.leBytes 4 (data l).toNat, cmp := [],
          sent := false, got := some [] : LaneReq }
      let (id, s) := s.takeId
      let s := match a with
        | .frag g _ => if read then (s.youngerWrite g d part).mapRegs a [d] else s
        | .ks _ => s
      let r : Req := { agent := a, who := s.agentId a, sup := s.supOf a, fmask := s.maskOfAgent a, core := s.coreOf a,
                       pc := s.pcOf a, op := if read then .accRead k acc else .accWrite k acc, lanes := lanes,
                       dst := if read then some (.vec, d) else none, regs := 1, part := part, one := false, order := .rlx,
                       scope := .grp, vis := 0, seen := 0, blocking := false, overwritten := [] }
      let s := { (s.modTr a (· + 1)) with reqs := s.reqs.set id r }
      (s.lastReads a (lastReadRegs srcs) (if read then [d] else [])).retire a h

/-- v.accrd (R222, R223). -/
def execVAccrd (h : Hdr) (f : NForm) (s : State) : Host.Outcome State Fault Refusal :=
  withAgent s fun a =>
    if s.guardMask a h = 0#64 then s.retire a h
    else accIssue s a h (accOf f.a.idx) (readScl s a f.b false).toNat true f.d.idx.toNat [] fun _ => 0#32

/-- v.accwr (R222, R224). -/
def execVAccwr (h : Hdr) (f : NForm) (s : State) : Host.Outcome State Fault Refusal :=
  withAgent s fun a =>
    if s.guardMask a h = 0#64 then s.retire a h
    else
      let o : Opnd := { src := f.a, wide := false, lr := h.lra }
      let (v, s) := readSrc s a f.a false f.aux
      accIssue s a h (accOf f.d.idx) (readScl s a f.b false).toNat false 0 [o] fun l => lo32 (lane v l)

/-- ENGINE_COMMAND_ACCEPT (R180). -/
def execEngineCommandAccept (id : Nat) (s : State) : Host.Outcome State Fault Refusal := .next (s.accept id)

end Sys2Proof.Machine
end

