-- ==== Sys2Proof/Machine/Lifetimes.lean ====
section
/-! DEFINITION. The ends of things: cancelled commands (R194, R356), withdrawn queue entries (R347, R351), lanes and groups
that exit (R137), tasks that drain (R263) and tasks that are killed (R357). -/
namespace Sys2Proof.Machine

namespace State
/-! Withdrawn entries. -/
/-- Where a ring's record lies in memory. -/
def ringAddr (s : State) (die reg i : Nat) : Nat := s.ringBase die reg + 32 * (i % 2 ^ s.ringLog die reg)
/-- A byte of a record gains bits, released at .sys. -/
def markRecord (s : State) (die reg i off : Nat) (bits : Byte) : State :=
  let a := s.ringAddr die reg i + off
  s.ringPut die reg a [s.mem.read a ||| bits]
/-- Entries of the retry ring, or of the fault queue, that are not acknowledged are withdrawn: WDN is set in ring memory,
and sets not written yet are dropped (R347, R351). -/
def withdraw (s : State) (retry : Bool) (p : AckTarget → Bool) : State :=
  let s := { s with sets := s.sets.filter fun x => !(x.retry == retry && p x.target) }
  let hit := fun (e : Entry) => p e.target && !e.acked && !e.withdrawn
  let upd := fun (e : Entry) => if hit e then { e with withdrawn := true } else e
  if retry then
    let s1 := (s.retries.filter hit).foldl (fun (s : State) e => s.markRecord e.die 0x024 e.index 0x1C 1#8) s
    { s1 with retries := s1.retries.map upd }
  else
    let s1 := (s.entries.filter hit).foldl (fun (s : State) e => s.markRecord e.die 0x020 e.index 0x19 4#8) s
    { s1 with entries := s1.entries.map upd }

/-! Cancelled commands. -/
/-- Chunks of a channel that wait for a remote acknowledgement. -/
def executingOn (s : State) (ch : Chan) : Bool :=
  (s.getChan ch).cmds.any fun c => c.chunks.any fun x => match x with
    | .executing _ _ _ => true
    | _ => false
/-- Whether cancelled commands of a channel are not over yet (R194). -/
def cancelling (s : State) (ch : Chan) : Bool := (s.getChan ch).cmds.any CopyCmd.cancelled
/-- Targets of a channel's retry entries. -/
def onChan (s : State) (ch : Chan) (t : AckTarget) : Bool :=
  match ch, t with
  | .team a b, .channel a' b' _ => a == a' && b == b'
  | .key _, .ksChannel _ t' _ => s.chanTask ch == some t'
  | _, _ => false
/-- Every incomplete command of a channel is cancelled (R194): its chunks leave bytes that are old or new as their units reach
them, and with the last of them it completes with 0x31. -/
def cancelStart (s : State) (ch : Chan) : State :=
  (s.modChan ch fun C => { C with cmds := C.cmds.map fun c => if c.ended.isNone then { c with bad := some 0x31 } else c }).settle ch
/-- The end of a cancellation: retry entries withdrawn, the stop cleared (R194). -/
def cancelEnd (s : State) (ch : Chan) : State :=
  (s.withdraw true (s.onChan ch)).modChan ch fun C => { C with stopped := false }
/-- A channel of a task that ends: cancelled, its retry entries withdrawn (R356, R357). -/
def cancelChan (s : State) (ch : Chan) : State := (s.cancelStart ch).cancelEnd ch
/-- Cancel every incomplete KV command of a task (R356). -/
def cancelKv (s : State) (t : Nat) : State :=
  let q := ((s.tasks.get? t).map (·.kvq)).getD []
  let s := q.foldl (fun (s : State) c => s.modTaskTl t 17 fun tl => tl.complete c.value 0x31 0 []) s
  let s := s.modTask t fun T => { T with kvq := [], kvStopped := false }
  s.withdraw true fun x => match x with
    | .kv t' _ => t' == t
    | _ => false
/-- Where a command that is abandoned may write memory: none while a holder keeps a line that its checks need. -/
def abandonedDests (s : State) (k : Nat) (q : MatCmd) : State × Option (List MatRun) :=
  if q.started then (s, some q.dests) else match s.validate k q with
    | (s, .ok _ ds) => (s, some ds)
    | (s, .held) => (s, none)
    | (s, _) => (s, some [])
/-- An accepted matrix command is abandoned and completes with 0x31 (R356): what it would write of memory is old or new byte
for byte, visible and released like a complete command's (R302). False while a holder keeps its lines away. -/
def abandonMatrix (s : State) (k : Nat) (q : MatCmd) : State × Bool :=
  match s.abandonedDests k q with
  | (s, none) => (s, false)
  | (s, some ds) =>
    match s.runsHeld k true ds with
    | (true, s) => (s, false)
    | (false, s) =>
      let bytes : Nat → List Byte := match q.kind with
        | .drain acc fmt rnd sat _ _ seed ctr => fun m => (s.drainRow k q acc fmt rnd sat seed ctr m).2
        | .recv west _ _ => fun n => ((s.queueOf k west).head?.map fun t => t.images.getD n []).getD []
        | _ => fun _ => []
      let (s, _, v, w) := s.writeDests k ds true bytes
      (s.endMatrix k q.value 0x31 v w, true)
/-- A Keystone context abandons its accepted commands in turn, as far as holders allow (R356). -/
def abandonKs (s : State) (k : Nat) : State :=
  ((s.ksCtx k).mq.foldl (fun (acc : State × Bool) q => if acc.2 then acc.1.abandonMatrix k q else acc) (s, true)).1
/-- A Keystone context stops, and its retry entries are withdrawn (R356). -/
def stopKs (s : State) (k : Nat) : State :=
  let s := s.withdraw true fun x => match x with
    | .matrix _ t _ => (s.ksCtx k).task == some t
    | _ => false
  (s.cancelChan (.key k)).modKs k fun c => { c with running := false, mqStopped := false }
/-- Every engine context of a task, its bound Keystone context included. -/
def cancelEngines (s : State) (t : Nat) : State :=
  match s.tasks.get? t with
  | none => s
  | some T =>
    let s := T.chs.foldl (fun (s : State) p => s.cancelChan (.team t p.1)) s
    let s := s.cancelKv t
    match T.ks with
    | some k => s.stopKs k
    | none => s
/-- Commands of a task that no engine has accepted are dropped. -/
def dropPends (s : State) (t : Nat) : State :=
  { s with pends := s.pends.filter fun p => s.taskIdOf p.2.agent != some t }

/-! Groups that exit (R137). -/
/-- A waiter of a FIFO that leaves it. -/
def dropFifoWaits (s : State) (g : Nat) : State :=
  { s with cores := s.cores.mapVal fun _ c => { c with banks := c.banks.mapVal fun _ b =>
      { b with waiters := b.waiters.filter fun w => w.1 != g } } }
/-- Watches of a group are gone. -/
def forgetWatches (s : State) (g : Nat) : State :=
  { s with watches := s.watches.filter fun w => match w.who with
      | .frag g' _ => g' != g
      | .queue _ _ => true }
/-- Requests of a group after its exit: loads are discarded, writes complete without a result. -/
def dropLoads (s : State) (g : Nat) : State :=
  let kept : Assoc Req := s.reqs.filter fun p => agentGrp p.2.agent != some g || (match p.2.op with
      | .load | .xlat _ | .accRead _ _ | .watch _ _ => false
      | _ => true)
  { s with reqs := kept.mapVal fun _ r => if agentGrp r.agent = some g then { r with dst := none } else r }
/-- A group ends: its leases, watches and waits are gone, its partials drain, and only its writes remain. -/
def endGroup (s : State) (g : Nat) : State :=
  let s := ((((s.breakLeases g).forgetWatches g).dropFifoWaits g).dropLoads g).drainGroup g
  let s := s.modGrp g fun G =>
    { G with st := .exited, frags := [], fuses := [], reg := [], hist := [], lastRead := [], park := none, pending := none }
  let s := { s with frames := s.frames.filter fun f => !(f.kind == 1 && f.owner == g) }
  let s := s.modCore (s.coreOfGrp g) fun c => { c with parkOrder := c.parkOrder.filter (· != g) }
  match s.grps.get? g with
  | some G => s.modTask G.task fun T => { T with live := T.live.filter (· != G.idx) }
  | none => s

/-! Tasks. -/
/-- A task whose last group has exited drains; a context of it that has not executed exit ends (R137, R207, R220, R263). -/
def taskExit (s : State) (t : Nat) : State :=
  match s.tasks.get? t with
  | none => s
  | some T =>
    let s := match T.ks with
      | some k => if (s.ksCtx k).exited then s else (s.modKs k fun c => { c with exited := true }).dropLinks k
      | none => s
    (s.leaveShare t).modTask t fun T => { T with st := .draining }
/-- Every group of a task that is not over. -/
def liveGroups (s : State) (t : Nat) : List Nat := (((s.tasks.get? t).map (·.live)).getD []).map (groupKey t)
/-- The key of a saved task's Keystone context. -/
def savedKs (t : Nat) : Nat := 192 + t
/-- A saved task that ends: its saved context ends with it, and its dirty chunks are written back from its image as it drains
(R175, R357). -/
def wakeSaved (s : State) (t : Nat) : State :=
  s.modTask t fun T => { T with ks := T.ksFrame.map fun _ => savedKs t, ksFrame := none }
/-- A task is killed (R357): its groups end as under exit, its engines' commands as under a restartable pre-emption, and
the launch keeps the first cause. -/
def killTask (s : State) (t cause : Nat) : State :=
  match s.tasks.get? t with
  | none => s
  | some T =>
    if T.st == .done then s
    else
      let s := if T.st == .saved then s.wakeSaved t else s
      let s := s.modLaunch T.launch fun L => { L with killed := L.killed.or (some cause) }
      let s := s.modTask t fun T => { T with killed := T.killed.or (some cause) }
      let s := (s.liveGroups t).foldl (fun (s : State) g => s.endGroup g) s
      let s := (s.dropPends t).cancelEngines t
      s.taskExit t
/-- The last lane of a group has exited: over a lost write the task is killed (R414). -/
def groupExit (s : State) (g : Nat) : State :=
  match s.grps.get? g with
  | none => s
  | some G =>
    let s := s.endGroup g
    if G.lost.isSome then s.killTask G.task 0x0B
    else if (s.liveGroups G.task).isEmpty then s.taskExit G.task else s

/-- Lanes of a group leave its fragments, records and barriers (R137, R139). -/
def exitLanes (s : State) (g : Nat) (m : Mask) : State :=
  match s.grps.get? g with
  | none => s
  | some G =>
    let leave := fun (b : Barrier) => (lanesOf m).foldl (fun b l => b.exitLane g l) b
    let s := s.modTask G.task fun T => { T with bars := T.bars.map leave }
    let s := s.modGrp g fun G => ((G.dropLanes m).fuse).join
    match s.grps.get? g with
    | some G => if G.frags.isEmpty then s.groupExit g else s
    | none => s

/-! TASK_DONE (R263). -/
/-- Dirty chunks of a task by mapping and number. -/
def dirtyChunks (T : Task) : List (Nat × Nat) := T.maps.zipIdx.flatMap fun m => m.1.dirty.map fun c => (m.2, c)
/-- Whether a chunk's write-back waits for the supervisor (R351). -/
def wbWaits (s : State) (t : Nat) (va : W64) : Bool :=
  (s.sets.any fun x => x.target == .scratchWb t va) || s.retries.any fun e => e.target == .scratchWb t va && !e.acked
/-- Write back the dirty chunks of a task whose team has exited (R175); a fault goes to the retry ring. -/
def exitWriteBack (s : State) (t : Nat) (T : Task) : State :=
  let L := s.launchOf T
  let asid := (L.map fun l => if l.sup then 0 else l.asid).getD 0
  let sup := (L.map (·.sup)).getD false
  let who := idGroup T.core T.slot 0
  let todo := (dirtyChunks T).filter fun p => match T.maps[p.1]? with
    | some m => !s.wbWaits t (chunkVa m p.2)
    | none => false
  todo.foldl (fun (s : State) p =>
    match s.recallChunks t asid sup who [p] with
    | (s, some _) => s
    | (s, none) =>
    match s.writeBackChunk t p.1 p.2 asid sup who with
    | (s1, .ok v) => s1.noteOver t v
    | (s1, .error f) =>
      let va := ((T.maps[p.1]?).map fun m => chunkVa m p.2).getD 0#64
      s1.pushRetry T.core T.slot 18 f.cause va 0#64 0#64 true (.scratchWb t va)) s
/-- Whether every counter of a task covers its accepted commands. -/
def countersDone (T : Task) : Bool := T.tcs.all fun p => p.2.v == p.2.last
/-- Requests and commands of a task that are not over. -/
def taskBusy (s : State) (t : Nat) : Bool :=
  (s.reqs.any fun p => s.taskIdOf p.2.agent == some t && (match p.2.op with
    | .accWrite _ _ => true
    | _ => !(Req.served p.2))) || s.pends.any fun p => s.taskIdOf p.2.agent == some t
/-- The banks of its core that a task holds: its allocation from the end on, then the others. -/
def banksHeld (s : State) (t : Nat) (T : Task) : List Nat :=
  switchOrder T (((s.core T.core).banks.filter fun p => p.2.holder == some t).map (·.1))
/-- The banks of a task begin to return to the cache role (R318, R322): false until every one has passed its switch point. -/
def returnBanks (s : State) (t : Nat) (T : Task) : State × Bool :=
  match s.ownSwitches T.core t, s.banksHeld t T with
  | _ :: _, _ => (s, false)
  | [], [] => (s, true)
  | [], k :: r => ((s.beginSwitch T.core t 0 200 (k :: r)).1, false)
/-- The largest visibility time of the writes of a task's groups and counters. -/
def taskVis (s : State) (t : Nat) (T : Task) : Nat :=
  let gs := (s.grps.filter fun p => p.2.task == t).foldl (fun m p => p.2.laneVis.foldl max m) 0
  T.tcs.foldl (fun m p => max m p.2.top) gs
/-- A draining task goes on towards DONE (R263, R322). -/
def drainTask (s : State) (t : Nat) : State :=
  match s.tasks.get? t with
  | none => s
  | some T =>
    if T.st != .draining then s
    else
      let s := match T.ks with
        | some k => if T.killed.isSome then s.abandonKs k else s
        | none => s
      if s.taskBusy t then s
      else if !(dirtyChunks T).isEmpty then s.exitWriteBack t T
      else if !countersDone T || T.ks.isSome then s
      else
        match s.returnBanks t T with
        | (s, false) => s
        | (s, true) =>
          let s := (s.noteOver t (s.taskVis t T)).modTask t fun T => { T with st := .done, banks := [], scratch := 0, maps := [] }
          { s with grps := s.grps.filter fun p => p.2.task != t,
                   frames := s.frames.filter fun f => !((f.kind == 2 || f.kind == 3) && f.owner == t),
                   reqs := s.reqs.filter fun p => s.taskIdOf p.2.agent != some t }
end State

end Sys2Proof.Machine
end

