-- ==== Sys2Proof/Machine/Control.lean ====
section
/-! DEFINITION. Class 0x7 but for launch: branches, exits, barriers, waits and traps (R131-R147). -/
namespace Sys2Proof.Machine

/-! Branches (R132-R136). -/
/-- PC plus four times a signed offset field. -/
def branchPc (pc : W64) (off : BitVec 23) : W64 := pc + (off.signExtend 64 <<< 2)

namespace State
/-- A branch of a fragment by lanes: with no free entry for a needed split it waits, otherwise `link` happens and the lanes
go (R132, R134). -/
def branchLanes (s : State) (a : Agent) (h : Hdr) (f : BForm) (dest : Nat → W64) (link : State → State) : State :=
  match a with
  | .ks _ => s
  | .frag g e =>
    let ds := destsOf (s.maskOfAgent a) dest
    let full := 16 ≤ ((s.grps.get? g).map (·.frags.length)).getD 0
    if 1 < ds.length && full then s.setSt a .entryWait
    else (link s).branchTo g e h ds (branchPc (s.pcOf a) f.rcv) (f.rcv != 0#23)

/-- A branch to one target (R132, R147). -/
def branchDirect (s : State) (a : Agent) (h : Hdr) (f : BForm) (link : State → State) : State :=
  let pc := s.pcOf a
  let m := s.guardMask a h
  let to' := branchPc pc f.tgt
  match a with
  | .ks _ => if s.guardOnce a h then (link s).goTo a h to' else s.retire a h
  | .frag _ _ => s.branchLanes a h f (fun l => if m.getLsbD l then to' else pc + 12#64) link

/-- A branch to the addresses in A (R132, R136): a misaligned target faults for the lanes that name it. -/
def branchTo' (s : State) (a : Agent) (h : Hdr) (f : BForm) : State :=
  let pc := s.pcOf a
  let m := s.guardMask a h
  match a with
  | .ks _ =>
    let t := readScl s a f.a true
    if !s.guardOnce a h then s.retire a h
    else if t.toNat % 4 != 0 then s.raise a [s.mkRec a 4 0#32 t 0#64 0]
    else s.goTo a h t
  | .frag g _ =>
    if m = 0#64 then s.retire a h
    else
    let (v, s) := readSrc s a f.a true 0#6
    let bad := (lanesOf m).filter fun l => (lane v l).toNat % 4 != 0
    match bad with
    | l :: _ =>
      let t := lane v l
      s.raise a [s.mkRec a 4 0#32 t (maskOf (bad.filter fun k => lane v k == t)) 0]
    | [] =>
      let o : Opnd := { src := f.a, wide := true, lr := h.lra }
      let dest := fun l => if m.getLsbD l then lane v l else pc + 12#64
      let room := 16 - ((s.grps.get? g).map (·.frags.length)).getD 0
      let whole := (destsOf (s.maskOfAgent a) dest).length ≤ room + 1
      s.branchLanes a h f dest fun s => if whole then s.lastReads a (lastReadRegs [o]) [] else s
end State

/-- bra (R132). -/
def execBra (h : Hdr) (f : BForm) (s : State) : Host.Outcome State Fault Refusal :=
  withAgent s fun a => s.branchDirect a h f id

/-- jmp (R132): all lanes go, or none. -/
def execJmp (h : Hdr) (f : BForm) (s : State) : Host.Outcome State Fault Refusal :=
  withAgent s fun a => if s.guardOnce a h then s.goTo a h (branchPc (s.pcOf a) f.tgt) else s.retire a h

/-- brx (R132, R136). -/
def execBrx (h : Hdr) (f : BForm) (s : State) : Host.Outcome State Fault Refusal :=
  withAgent s fun a => s.branchTo' a h f

/-- ret (R132, R136). -/
def execRet (h : Hdr) (f : BForm) (s : State) : Host.Outcome State Fault Refusal :=
  withAgent s fun a => s.branchTo' a h f

/-- call (R132, R136): the link is PC + 12. -/
def execCall (h : Hdr) (f : BForm) (s : State) : Host.Outcome State Fault Refusal :=
  withAgent s fun a =>
    let ret := s.pcOf a + 12#64
    let d := f.d.idx.toNat
    let m := s.guardMask a h
    if m = 0#64 then s.branchDirect a h f id
    else if f.d.cls = .vec then
      s.withRegs a (dstRegs d 2) fun s =>
        s.branchDirect a h f fun s =>
          (s.writeLanes a d true ((lanesOf m).map fun l => (l, ret))).addBusy a [(0, d), (0, d + 1)] 1
    else s.branchDirect a h f fun s => (s.writeScl a d true ret).addBusy a [(1, d), (1, d + 1)] 1

/-- join (R135). -/
def execJoin (_h : Hdr) (_f : BForm) (s : State) : Host.Outcome State Fault Refusal :=
  withAgent s fun a =>
    match a with
    | .frag g _ => (s.setSt a .joinWait).modGrp g (·.join)
    | .ks _ => s

/-! Exit and pauses (R137, R138). -/
/-- exit (R137): in a Keystone stream the context ends (R207). -/
def execExit (h : Hdr) (_f : NForm) (s : State) : Host.Outcome State Fault Refusal :=
  withAgent s fun a =>
    match a with
    | .ks k =>
      if s.guardOnce a h then (s.modKs k fun c => { c with exited := true }).dropLinks k else s.retire a h
    | .frag g e =>
      let m := s.guardMask a h
      if m = 0#64 then s.retire a h
      else
        let s := s.exitLanes g m
        if (s.frag? g e).isSome then s.retire a h else s

/-- yield (R138). -/
def execYield (h : Hdr) (_f : NForm) (s : State) : Host.Outcome State Fault Refusal :=
  withAgent s fun a => s.retire a (if s.guardOnce a h then { h with yield := true } else h)

/-- nop (R138). -/
def execNop (h : Hdr) (_f : NForm) (s : State) : Host.Outcome State Fault Refusal :=
  withAgent s fun a => s.retire a h

/-- The hints of an instruction whose fragment goes on later, without executing it again (R15). -/
def State.hint (s : State) (a : Agent) (h : Hdr) : State :=
  match a with
  | .frag g e => s.modFrag g e fun F => { F with yieldReq := h.yield, holdUntil := max F.holdUntil (s.stallEnd h) }
  | .ks k => s.modKs k fun c => { c with holdUntil := max c.holdUntil (s.stallEnd h) }

/-- sleep (R138): not ready for imm32 clocks and at most 8,192 more; the end is SLEEP_EXPIRY's. -/
def execSleep (h : Hdr) (f : IForm) (s : State) : Host.Outcome State Fault Refusal :=
  withAgent s fun a =>
    match s.stOf a with
    | .waiting (.sleeping _) => s
    | _ =>
      if !s.guardOnce a h then s.retire a h
      else if f.imm = 0#32 then s.retire a { h with yield := true }
      else
        let (k, s) := pick s 8193
        (s.hint a h).wait a (.sleeping (s.clk + f.imm.toNat + k))

/-! Barriers (R139, R140). -/
def freshBarrier : Barrier := { phase := 0, arrivals := 0, expected := none, byLanes := false, arrived := [] }
/-- A team's barrier. -/
def Task.bar (T : Task) (b : Nat) : Barrier := T.bars.getD b freshBarrier
def Task.setBar (T : Task) (b : Nat) (x : Barrier) : Task :=
  { T with bars := (List.range 16).map fun i => if i = b then x else T.bar i }

namespace State
/-- The lanes of a team that have not exited. -/
def teamLanes (s : State) (t : Nat) : Nat :=
  s.grps.foldl (fun n p => if p.2.task = t && p.2.st != .exited then n + (lanesOf p.2.liveMask).length else n) 0
/-- Whether a phase of a barrier of a group's team is incomplete. -/
def phaseOpen (s : State) (g b p : Nat) : Bool := ((s.grpTask g).map fun T => decide ((T.bar b).phase ≤ p)).getD false
/-- The phase of a group's most recent arrival at a barrier. -/
def latestPhase (s : State) (g b : Nat) : Option Nat := (s.grps.get? g).bind fun G => G.barArr.get? b
/-- Whether the phase of a group's most recent arrival at a barrier is incomplete. -/
def barrierOpen (s : State) (g b : Nat) : Bool := ((s.latestPhase g b).map (s.phaseOpen g b)).getD false
/-- Lanes arrive in ascending order; the group records the phase of its last arrival. -/
def arrive (s : State) (g b : Nat) (ls : List Nat) (n : Nat) (byLanes : Bool) : State :=
  ls.foldl (fun (s : State) l =>
    match s.grps.get? g, s.grpTask g with
    | some G, some T =>
      let B := T.bar b
      (s.modTask G.task fun T => T.setBar b (B.arriveLane g l n byLanes)).modGrp g fun G =>
        { G with barArr := G.barArr.set b B.phase }
    | _, _ => s) s
/-- The arrival part of bar and bar.arv, then `k`. A count outside 1 to 1,024 faults; the arrival releases at .core. -/
def barArrive (s : State) (a : Agent) (h : Hdr) (f : IForm) (k : State → State) : State :=
  match a with
  | .ks _ => s.retire a h
  | .frag g _ =>
    let m := s.guardMask a h
    if m = 0#64 then s.retire a h
    else
      let byLanes := f.a.isZero
      let n := if byLanes then s.teamLanes ((s.taskIdOf a).getD 0) else (readScl s a f.a false).toNat
      if !byLanes && (n = 0 || 1024 < n) then s.raisePlain a 2 3
      else s.releaseThen a .core fun s => k (s.arrive g (f.imm.toNat % 16) (lanesOf m) n byLanes)
/-- The wait part: until the phase of the group's most recent arrival completes. A fragment that waits already waits for
the phase that it found then, whatever arrives in the next. -/
def barWait (s : State) (a : Agent) (h : Hdr) (b : Nat) : State :=
  match a with
  | .ks _ => s.retire a h
  | .frag g _ =>
    let p := match s.stOf a with
      | .waiting (.barrier _ p) => some p
      | _ => s.latestPhase g b
    if (p.map (s.phaseOpen g b)).getD false then s.wait a (.barrier b (p.getD 0)) else s.retire a h
end State

/-- bar (R139): an arrival, then a wait; a fragment that already waits does not arrive again. -/
def execBar (h : Hdr) (f : IForm) (s : State) : Host.Outcome State Fault Refusal :=
  withAgent s fun a =>
    let b := f.imm.toNat % 16
    match s.stOf a with
    | .waiting (.barrier _ _) => s.barWait a h b
    | _ => s.barArrive a h f fun s => s.barWait a h b

/-- bar.arv (R139). -/
def execBarArv (h : Hdr) (f : IForm) (s : State) : Host.Outcome State Fault Refusal :=
  withAgent s fun a => s.barArrive a h f fun s => s.retire a h

/-- bar.wt (R139). -/
def execBarWt (h : Hdr) (f : IForm) (s : State) : Host.Outcome State Fault Refusal :=
  withAgent s fun a => if s.guardOnce a h then s.barWait a h (f.imm.toNat % 16) else s.retire a h

/-! Traps, counts and the declared lease (R143, R144, R146). -/
/-- trap (R144). -/
def execTrap (h : Hdr) (f : IForm) (s : State) : Host.Outcome State Fault Refusal :=
  withAgent s fun a => if s.guardOnce a h then s.raiseCode a 0x12 f.imm (s.guardMask a h) else s.retire a h

/-- brk (R144). -/
def execBrk (h : Hdr) (f : IForm) (s : State) : Host.Outcome State Fault Refusal :=
  withAgent s fun a => if s.guardOnce a h then s.raiseCode a 0x11 f.imm (s.guardMask a h) else s.retire a h

/-- Whether every count is at most its limit (R143). -/
def State.countsMet (s : State) (a : Agent) (imm : W32) : Bool :=
  s.ldOf a ≤ imm.toNat % 64 && s.stcOf a ≤ imm.toNat / 2 ^ 8 % 64 && s.ecOf a ≤ imm.toNat / 2 ^ 16 % 32 &&
    s.trOf a ≤ imm.toNat / 2 ^ 24 % 16

/-- waitcnt (R143). -/
def execWaitcnt (h : Hdr) (f : IForm) (s : State) : Host.Outcome State Fault Refusal :=
  withAgent s fun a =>
    if s.guardOnce a h && !s.countsMet a f.imm then s.wait a (.counts f.imm) else s.retire a h

/-- lease.fp (R146). -/
def execLeaseFp (h : Hdr) (f : IForm) (s : State) : Host.Outcome State Fault Refusal :=
  withAgent s fun a =>
    match a with
    | .frag g _ =>
      let n := min 524288 ((f.imm.toNat + 127) / 128 * 128)
      (if s.guardOnce a h then s.modGrp g fun G => { G with declared := n } else s).retire a h
    | .ks _ => s.retire a h

/-- SLEEP_EXPIRY (R138): a sleep whose time is over ends. -/
def execSleepExpiry (a : Agent) (s : State) : Host.Outcome State Fault Refusal :=
  .next (match s.stOf a with
    | .waiting (.sleeping t) =>
      if t ≤ s.clk then
        match a with
        | .frag g e =>
          s.modGrp g fun G => ({ G with frags := G.frags.update e fun F =>
            { F with pc := F.pc + 12#64, st := .ready, readySince := s.clk } }).fuse
        | .ks k => s.modKs k fun c => { c with pc := c.pc + 12#64, st := .ready }
      else s
    | _ => s)

/-- STALL_HOLD_END (R15): the hold of a stall hint ends. -/
def execStallHoldEnd (a : Agent) (s : State) : Host.Outcome State Fault Refusal :=
  .next (match a with
    | .frag g e => s.modFrag g e fun F => if F.holdUntil ≤ s.clk && F.st == .held then { F with st := .ready } else F
    | .ks k => s.modKs k fun c => if c.holdUntil ≤ s.clk && c.st == .held then { c with st := .ready } else c)

/-- FIXED_LATENCY_WRITEBACK (R141): results whose clock has come end their interlock. -/
def execFixedLatencyWriteback (a : Agent) (s : State) : Host.Outcome State Fault Refusal :=
  .next (match a with
    | .frag g _ => s.modGrp g fun G => { G with busy := G.busy.filter fun b => s.clk < b.clk }
    | .ks k => s.modKs k fun c => { c with busy := c.busy.filter fun b => s.clk < b.clk })

end Sys2Proof.Machine
end

