-- ==== Sys2Proof/Machine/VecInt.lean ====
section
/-! DEFINITION. Class 0x1: vector integer and logic instructions (R73-R80). -/
namespace Sys2Proof.Machine

/-- The sources of an N form of a type: the first n of A, B and C, all of the type's width. -/
def nSrcs (h : Hdr) (f : NForm) (wide : Bool) (n : Nat) : List Opnd :=
  [{ src := f.a, wide := wide, lr := h.lra : Opnd }, { src := f.b, wide := wide, lr := h.lrb },
    { src := f.c, wide := wide, lr := h.lrc }].take n

/-- An element operation over every element of every participating lane (R73), n sources. -/
def vecN (e : ElemFn) (lat n : Nat) (h : Hdr) (f : NForm) (s : State) : Host.Outcome State Fault Refusal :=
  withAgent s fun a =>
    let w := wideTy f.ty
    vecOp s a h f.d.idx.toNat w (nSrcs h f w n) f.aux lat fun part vs =>
      eachLane part fun l =>
        mapLane f.ty (e (Ty.width f.ty) (Ty.signed f.ty) f.sat) (srcLane vs 0 l) (srcLane vs 1 l) (srcLane vs 2 l)

/-- The same with imm32 as B (R22). -/
def vecI (e : ElemFn) (lat : Nat) (h : Hdr) (f : IForm) (s : State) : Host.Outcome State Fault Refusal :=
  withAgent s fun a =>
    let w := wideTy f.ty
    vecOp s a h f.d.idx.toNat w [{ src := f.a, wide := w, lr := h.lra }] f.aux lat fun part vs =>
      eachLane part fun l =>
        mapLane f.ty (e (Ty.width f.ty) (Ty.signed f.ty) f.sat) (srcLane vs 0 l) (immOf f.ty f.imm) 0#64

/-- Latency of a division (R87). -/
def divLat (t : Ty) : Nat := if wideTy t then 68 else 36

/-- The exact product of two 32-bit elements (R75, v.mulw). -/
def mulwLane (t : Ty) (a b : W64) : W64 := BitVec.ofNat 64 (elMulw 32 (Ty.signed t) false a.toNat b.toNat 0)

/-- A dot product or sum of absolute differences over the elements of each lane (R79). -/
def dotOp (e : Int → Int → Int) (h : Hdr) (f : NForm) (s : State) : Host.Outcome State Fault Refusal :=
  withAgent s fun a =>
    vecOp s a h f.d.idx.toNat false (nSrcs h f false 3) f.aux 6 fun part vs =>
      eachLane part fun l => dotSum f.ty f.sat e (srcLane vs 0 l) (srcLane vs 1 l) (srcLane vs 2 l)

/-- The 33-bit sum of R78: B as it is or complemented, and the carry in. -/
def carrySum (sub : Bool) (a b : W64) (cin : Bool) : Nat :=
  a.toNat % 2 ^ 32 + (if sub then 2 ^ 32 - 1 - b.toNat % 2 ^ 32 else b.toNat % 2 ^ 32) + cin.toNat

/-- v.addx and v.subx (R78): sum to D, carry to the predicate that C names. -/
def carryOp (sub : Bool) (h : Hdr) (f : NForm) (s : State) : Host.Outcome State Fault Refusal :=
  withAgent s fun a =>
    let part := s.guardMask a h
    let d := f.d.idx.toNat
    let p := f.c.idx.toNat
    let srcs := nSrcs h f false 2
    if part = 0#64 then s.retire a h
    else s.withRegs a [d] fun s =>
      let cin := s.predOf a p
      let (vs, s) := readSrcs s a f.aux srcs
      let t := fun l => carrySum sub (srcLane vs 0 l) (srcLane vs 1 l) (cin.getLsbD l)
      let s := s.writeLanes a d false (eachLane part fun l => BitVec.ofNat 64 (t l))
      (s.writePred a p part (lanesWhere part fun l => 2 ^ 32 ≤ t l)).finish a h srcs [d] [(0, d), (2, p)] 4

/-- v.add (R75). -/
def execVAdd (h : Hdr) (f : NForm) (s : State) : Host.Outcome State Fault Refusal :=
  vecN elAdd 4 2 h f s

/-- v.add with imm32 (R75). -/
def execVAddImm (h : Hdr) (f : IForm) (s : State) : Host.Outcome State Fault Refusal :=
  vecI elAdd 4 h f s

/-- v.sub (R75). -/
def execVSub (h : Hdr) (f : NForm) (s : State) : Host.Outcome State Fault Refusal :=
  vecN elSub 4 2 h f s

/-- v.sub with imm32 (R75). -/
def execVSubImm (h : Hdr) (f : IForm) (s : State) : Host.Outcome State Fault Refusal :=
  vecI elSub 4 h f s

/-- v.mul (R75). -/
def execVMul (h : Hdr) (f : NForm) (s : State) : Host.Outcome State Fault Refusal :=
  vecN elMul 6 2 h f s

/-- v.mul with imm32 (R75). -/
def execVMulImm (h : Hdr) (f : IForm) (s : State) : Host.Outcome State Fault Refusal :=
  vecI elMul 6 h f s

/-- v.mulhi (R75). -/
def execVMulhi (h : Hdr) (f : NForm) (s : State) : Host.Outcome State Fault Refusal :=
  vecN elMulhi 6 2 h f s

/-- v.mulhi with imm32 (R75). -/
def execVMulhiImm (h : Hdr) (f : IForm) (s : State) : Host.Outcome State Fault Refusal :=
  vecI elMulhi 6 h f s

/-- v.mad (R75). -/
def execVMad (h : Hdr) (f : NForm) (s : State) : Host.Outcome State Fault Refusal :=
  vecN elMad 6 3 h f s

/-- v.abs (R75). -/
def execVAbs (h : Hdr) (f : NForm) (s : State) : Host.Outcome State Fault Refusal :=
  vecN elAbs 4 1 h f s

/-- v.neg (R75). -/
def execVNeg (h : Hdr) (f : NForm) (s : State) : Host.Outcome State Fault Refusal :=
  vecN elNeg 4 1 h f s

/-- v.min (R75). -/
def execVMin (h : Hdr) (f : NForm) (s : State) : Host.Outcome State Fault Refusal :=
  vecN elMin 4 2 h f s

/-- v.min with imm32 (R75). -/
def execVMinImm (h : Hdr) (f : IForm) (s : State) : Host.Outcome State Fault Refusal :=
  vecI elMin 4 h f s

/-- v.max (R75). -/
def execVMax (h : Hdr) (f : NForm) (s : State) : Host.Outcome State Fault Refusal :=
  vecN elMax 4 2 h f s

/-- v.max with imm32 (R75). -/
def execVMaxImm (h : Hdr) (f : IForm) (s : State) : Host.Outcome State Fault Refusal :=
  vecI elMax 4 h f s

/-- v.and (R75). -/
def execVAnd (h : Hdr) (f : NForm) (s : State) : Host.Outcome State Fault Refusal :=
  vecN elAnd 4 2 h f s

/-- v.and with imm32 (R75). -/
def execVAndImm (h : Hdr) (f : IForm) (s : State) : Host.Outcome State Fault Refusal :=
  vecI elAnd 4 h f s

/-- v.or (R75). -/
def execVOr (h : Hdr) (f : NForm) (s : State) : Host.Outcome State Fault Refusal :=
  vecN elOr 4 2 h f s

/-- v.or with imm32 (R75). -/
def execVOrImm (h : Hdr) (f : IForm) (s : State) : Host.Outcome State Fault Refusal :=
  vecI elOr 4 h f s

/-- v.xor (R75). -/
def execVXor (h : Hdr) (f : NForm) (s : State) : Host.Outcome State Fault Refusal :=
  vecN elXor 4 2 h f s

/-- v.xor with imm32 (R75). -/
def execVXorImm (h : Hdr) (f : IForm) (s : State) : Host.Outcome State Fault Refusal :=
  vecI elXor 4 h f s

/-- v.andn (R75). -/
def execVAndn (h : Hdr) (f : NForm) (s : State) : Host.Outcome State Fault Refusal :=
  vecN elAndn 4 2 h f s

/-- v.andn with imm32 (R75). -/
def execVAndnImm (h : Hdr) (f : IForm) (s : State) : Host.Outcome State Fault Refusal :=
  vecI elAndn 4 h f s

/-- v.not (R75). -/
def execVNot (h : Hdr) (f : NForm) (s : State) : Host.Outcome State Fault Refusal :=
  vecN elNot 4 1 h f s

/-- v.shl (R76). -/
def execVShl (h : Hdr) (f : NForm) (s : State) : Host.Outcome State Fault Refusal :=
  vecN elShl 4 2 h f s

/-- v.shl with imm32 (R76). -/
def execVShlImm (h : Hdr) (f : IForm) (s : State) : Host.Outcome State Fault Refusal :=
  vecI elShl 4 h f s

/-- v.shr (R76). -/
def execVShr (h : Hdr) (f : NForm) (s : State) : Host.Outcome State Fault Refusal :=
  vecN elShr 4 2 h f s

/-- v.shr with imm32 (R76). -/
def execVShrImm (h : Hdr) (f : IForm) (s : State) : Host.Outcome State Fault Refusal :=
  vecI elShr 4 h f s

/-- v.sar (R76). -/
def execVSar (h : Hdr) (f : NForm) (s : State) : Host.Outcome State Fault Refusal :=
  vecN elSar 4 2 h f s

/-- v.sar with imm32 (R76). -/
def execVSarImm (h : Hdr) (f : IForm) (s : State) : Host.Outcome State Fault Refusal :=
  vecI elSar 4 h f s

/-- v.rot (R76). -/
def execVRot (h : Hdr) (f : NForm) (s : State) : Host.Outcome State Fault Refusal :=
  vecN elRot 4 2 h f s

/-- v.rot with imm32 (R76). -/
def execVRotImm (h : Hdr) (f : IForm) (s : State) : Host.Outcome State Fault Refusal :=
  vecI elRot 4 h f s

/-- v.bfe (R77). -/
def execVBfe (h : Hdr) (f : NForm) (s : State) : Host.Outcome State Fault Refusal :=
  vecN elBfe 4 2 h f s

/-- v.bfe with imm32 (R77). -/
def execVBfeImm (h : Hdr) (f : IForm) (s : State) : Host.Outcome State Fault Refusal :=
  vecI elBfe 4 h f s

/-- v.bfi (R77). -/
def execVBfi (h : Hdr) (f : NForm) (s : State) : Host.Outcome State Fault Refusal :=
  vecN elBfi 4 3 h f s

/-- v.popc (R75). -/
def execVPopc (h : Hdr) (f : NForm) (s : State) : Host.Outcome State Fault Refusal :=
  vecN elPopc 4 1 h f s

/-- v.clz (R75). -/
def execVClz (h : Hdr) (f : NForm) (s : State) : Host.Outcome State Fault Refusal :=
  vecN elClz 4 1 h f s

/-- v.ctz (R75). -/
def execVCtz (h : Hdr) (f : NForm) (s : State) : Host.Outcome State Fault Refusal :=
  vecN elCtz 4 1 h f s

/-- v.brev (R75). -/
def execVBrev (h : Hdr) (f : NForm) (s : State) : Host.Outcome State Fault Refusal :=
  vecN elBrev 4 1 h f s

/-- v.mov (R75). -/
def execVMov (h : Hdr) (f : NForm) (s : State) : Host.Outcome State Fault Refusal :=
  vecN elMov 4 1 h f s

/-- v.sat (R75). -/
def execVSat (h : Hdr) (f : NForm) (s : State) : Host.Outcome State Fault Refusal :=
  vecN elClamp 4 3 h f s

/-- v.div (R80). -/
def execVDiv (h : Hdr) (f : NForm) (s : State) : Host.Outcome State Fault Refusal :=
  vecN elDiv (divLat f.ty) 2 h f s

/-- v.div with imm32 (R80). -/
def execVDivImm (h : Hdr) (f : IForm) (s : State) : Host.Outcome State Fault Refusal :=
  vecI elDiv (divLat f.ty) h f s

/-- v.rem (R80). -/
def execVRem (h : Hdr) (f : NForm) (s : State) : Host.Outcome State Fault Refusal :=
  vecN elRem (divLat f.ty) 2 h f s

/-- v.rem with imm32 (R80). -/
def execVRemImm (h : Hdr) (f : IForm) (s : State) : Host.Outcome State Fault Refusal :=
  vecI elRem (divLat f.ty) h f s

/-- v.mulw (R75): only D is a pair. -/
def execVMulw (h : Hdr) (f : NForm) (s : State) : Host.Outcome State Fault Refusal :=
  withAgent s fun a =>
    vecOp s a h f.d.idx.toNat true (nSrcs h f false 2) f.aux 6 fun part vs =>
      eachLane part fun l => mulwLane f.ty (srcLane vs 0 l) (srcLane vs 1 l)

/-- v.mulw by imm32 (R75). -/
def execVMulwImm (h : Hdr) (f : IForm) (s : State) : Host.Outcome State Fault Refusal :=
  withAgent s fun a =>
    vecOp s a h f.d.idx.toNat true [{ src := f.a, wide := false, lr := h.lra }] f.aux 6 fun part vs =>
      eachLane part fun l => mulwLane f.ty (srcLane vs 0 l) (f.imm.setWidth 64)

/-- v.addx (R78). -/
def execVAddx (h : Hdr) (f : NForm) (s : State) : Host.Outcome State Fault Refusal := carryOp false h f s

/-- v.subx (R78). -/
def execVSubx (h : Hdr) (f : NForm) (s : State) : Host.Outcome State Fault Refusal := carryOp true h f s

/-- v.li (R75): imm32 under R22 in every participating lane. -/
def execVLi (h : Hdr) (f : IForm) (s : State) : Host.Outcome State Fault Refusal :=
  withAgent s fun a =>
    vecOp s a h f.d.idx.toNat (wideTy f.ty) [] f.aux 4 fun part _ => eachLane part fun _ => immOf f.ty f.imm

/-- v.dot4 (R79). -/
def execVDot4 (h : Hdr) (f : NForm) (s : State) : Host.Outcome State Fault Refusal := dotOp mulInt h f s

/-- v.dot2 (R79). -/
def execVDot2 (h : Hdr) (f : NForm) (s : State) : Host.Outcome State Fault Refusal := dotOp mulInt h f s

/-- v.sad (R79). -/
def execVSad (h : Hdr) (f : NForm) (s : State) : Host.Outcome State Fault Refusal := dotOp absDiff h f s

end Sys2Proof.Machine
end

