-- ==== Sys2Proof/Machine/Convert.lean ====
section
/-! DEFINITION. Class 0x4: conversions, block scales and the stochastic generator (R100-R107). -/
namespace Sys2Proof.Machine

/-- A conversion instruction's lanes: n elements, element k read by `x` from the lane's sources, results joined in slots
of the destination's width (R101). -/
def cvtLanes (S D : Nat) (n : Nat) (part : Mask) (env : Nat → Nat → FEnv) (x : Nat → Nat → Nat) : FpRes :=
  let rs := (lanesOf part).map fun l =>
    let es := (List.range n).map fun k => convert (elemOf S) (elemOf D) (env l k) (x l k)
    (l, joinElems (fmtWidth D) (es.map (·.1)), es.foldl (fun f e => f.or e.2) FpFlags.none)
  { writes := rs.map fun r => (r.1, r.2.1), flags := rs.map fun r => (r.1, r.2.2) }

/-- v.cvt (R101). -/
def execVCvt (h : Hdr) (f : NForm) (s : State) : Host.Outcome State Fault Refusal :=
  withAgent s fun a =>
    let S := f.op.toNat
    let D := f.aux.toNat % 32
    let ws := fmtWidth S
    let wd := fmtWidth D
    let n := if ws = 64 || wd = 64 then 1 else 32 / max ws wd
    fpOp s a h f.d.idx.toNat (wd == 64) [{ src := f.a, wide := ws == 64, lr := h.lra }] 0#6 f.rnd 4 fun env part vs =>
      cvtLanes S D n part (fun i e => env i e f.sat) fun l k => elemAt ws k (srcLane vs 0 l)

/-- The lane t with slot k of width w replaced (R102). -/
def setSlot (w k : Nat) (t : W64) (x : Nat) : W64 :=
  BitVec.ofNat 64 (t.toNat - t.toNat / 2 ^ (w * k) % 2 ^ w * 2 ^ (w * k) + x % 2 ^ w * 2 ^ (w * k))

/-- v.pack (R102): two values into a slot pair of C's lane. -/
def execVPack (h : Hdr) (f : NForm) (s : State) : Host.Outcome State Fault Refusal :=
  withAgent s fun a =>
    let S := wideCode (f.op.toNat % 8)
    let D := f.aux.toNat % 32
    let j := f.op.toNat / 8
    let w := fmtWidth D
    fpOp s a h f.d.idx.toNat false (nSrcs h f false 3) 0#6 f.rnd 4 fun env part vs =>
      let rs := (lanesOf part).map fun l =>
        let x := fun n e => convert (elemOf S) (elemOf D) (env l e f.sat) (elemAt (fmtWidth S) 0 (srcLane vs n l))
        let x0 := x 0 (2 * j)
        let x1 := x 1 (2 * j + 1)
        (l, setSlot w (2 * j + 1) (setSlot w (2 * j) (srcLane vs 2 l) x0.1) x1.1, x0.2.or x1.2)
      { writes := rs.map fun r => (r.1, r.2.1), flags := rs.map fun r => (r.1, r.2.2) }

/-- v.unpack (R103). -/
def execVUnpack (h : Hdr) (f : NForm) (s : State) : Host.Outcome State Fault Refusal :=
  withAgent s fun a =>
    let D := wideCode (f.op.toNat % 8)
    let S := f.aux.toNat % 32
    let k := f.op.toNat / 8 + 4 * (f.aux.toNat / 32)
    let p := 32 / fmtWidth D
    fpOp s a h f.d.idx.toNat false (nSrcs h f false 1) 0#6 f.rnd 4 fun env part vs =>
      cvtLanes S D p part (fun i e => env i e f.sat) fun l e => elemAt (fmtWidth S) (k * p + e) (srcLane vs 0 l)

/-- v.scl (R104): no condition is recorded. -/
def execVScl (h : Hdr) (f : NForm) (s : State) : Host.Outcome State Fault Refusal :=
  withAgent s fun a =>
    fpOp s a h f.d.idx.toNat false (nSrcs h f false 1) 0#6 .rne 4 fun env part vs =>
      { writes := eachLane part fun l =>
          BitVec.ofNat 64 (sclValue (f.op.toNat % 8) (f.aux.toNat % 32) (env l 0 false) (srcLane vs 0 l).toNat)
        flags := [] }

/-- v.qnt (R105): always saturating; no condition is recorded. -/
def execVQnt (h : Hdr) (f : NForm) (s : State) : Host.Outcome State Fault Refusal :=
  withAgent s fun a =>
    fpOp s a h f.d.idx.toNat false (nSrcs h f false 2) 0#6 f.rnd 4 fun env part vs =>
      { writes := eachLane part fun l =>
          BitVec.ofNat 64 (qntValue (f.aux.toNat % 32) (f.op.toNat % 8) (env l 0 true) (srcLane vs 0 l).toNat
            (srcLane vs 1 l).toNat)
        flags := [] }

/-- v.dqnt (R106). -/
def execVDqnt (h : Hdr) (f : NForm) (s : State) : Host.Outcome State Fault Refusal :=
  withAgent s fun a =>
    let E := f.aux.toNat % 32
    let k := f.op.toNat / 8 + 4 * (f.aux.toNat / 32)
    fpOp s a h f.d.idx.toNat false (nSrcs h f false 2) 0#6 f.rnd 4 fun env part vs =>
      let rs := (lanesOf part).map fun l =>
        (l, dqntValue E (f.op.toNat % 8) (env l 0 f.sat) (elemAt (fmtWidth E) k (srcLane vs 0 l)) (srcLane vs 1 l).toNat)
      { writes := rs.map fun r => (r.1, BitVec.ofNat 64 r.2.1), flags := rs.map fun r => (r.1, r.2.2) }

/-- Set the seed and counter of an agent's generator (R107). -/
def setSeed (s : State) (a : Agent) (S : W64) (C : W32) : State :=
  match a with
  | .frag g _ => s.modGrp g fun G => { G with seed := S, ctr := C }
  | .ks k => s.modKs k fun c => { c with seed := S, ctr := C }

/-- v.rng.seed (R107). -/
def execVRngSeed (h : Hdr) (f : NForm) (s : State) : Host.Outcome State Fault Refusal :=
  withAgent s fun a =>
    if s.guardOnce a h then (setSeed s a (readScl s a f.a true) (lo32 (readScl s a f.b false))).retire a h
    else s.retire a h

/-- v.rng.gets (R107). -/
def execVRngGets (h : Hdr) (f : NForm) (s : State) : Host.Outcome State Fault Refusal :=
  withAgent s fun a => sclOp s a h f.d.idx.toNat true 6 fun s => (seedOf s a).1

/-- v.rng.getc (R107). -/
def execVRngGetc (h : Hdr) (f : NForm) (s : State) : Host.Outcome State Fault Refusal :=
  withAgent s fun a => sclOp s a h f.d.idx.toNat false 6 fun s => (seedOf s a).2.setWidth 64

/-- The word that v.rng.draw gives a lane (R107). -/
def drawWord (S : W64) (C : W32) (l : Nat) : W64 :=
  mix64 (S ^^^ (C.setWidth 64 <<< 32) ^^^ (BitVec.ofNat 64 l <<< 8) ^^^ 0xFF#64 ^^^ 0x9E3779B97F4A7C15#64) >>> 32

/-- v.rng.draw (R107): C advances by 1 when a lane takes part. -/
def execVRngDraw (h : Hdr) (f : NForm) (s : State) : Host.Outcome State Fault Refusal :=
  withAgent s fun a =>
    let part := s.guardMask a h
    let d := f.d.idx.toNat
    if part = 0#64 then s.retire a h
    else s.withRegs a [d] fun s =>
      let (S, C) := seedOf s a
      let s := s.writeLanes a d false (eachLane part fun l => drawWord S C l)
      (advanceCtr s a true).finish a h [] [d] [(0, d)] 6

end Sys2Proof.Machine
end

