-- ==== Sys2Proof/Machine/CopyTimeline.lean ====
section
/-! DEFINITION. Class 0xB (R180-R195): copy commands, timeline counters, the write pointer, reset and checksums; and the
engine commands m.tr and m.red of class 0xC (R196, R197). -/
namespace Sys2Proof.Machine

/-! Copy commands (R181, R182). -/
/-- The flags of a copy command. -/
structure CopyFlags where
  dsp : Bool
  ssp : Bool
  ck : Nat
  chain : Bool
  cmp : Bool
  ord : Bool
def copyFlags (f : EForm) : CopyFlags :=
  { dsp := f.flags.getLsbD 0, ssp := f.flags.getLsbD 1, ck := f.flags.toNat / 4 % 4, chain := f.flags.getLsbD 4,
    cmp := f.flags.getLsbD 5, ord := f.flags.getLsbD 6 }

/-- Whether a scratch range of n bytes leaves the team's allocation (R181). -/
def outOfScratch (s : State) (a : Agent) (sp : Bool) (x : W64) (n : Nat) : Bool :=
  sp && ((s.taskOf a).map (·.scratch)).getD 0 < x.toNat + n

/-- Issue a copy command: its scratch ranges are checked precisely, then it awaits acceptance (R180, R181). -/
def copyIssue (s : State) (a : Agent) (h : Hdr) (f : EForm) (fl : CopyFlags) (dst src : W64) (bytes : Nat) (c : CopyCmd) :
    State :=
  if outOfScratch s a fl.dsp dst bytes then s.raiseAt a .write { cause := 0x0C, code := 0, psize := 4096 } dst
  else if outOfScratch s a fl.ssp src bytes then s.raiseAt a .read { cause := 0x0C, code := 0, psize := 4096 } src
  else s.issueCmd a h f.d.idx.toNat (.copy f.chan.toNat c)

/-- A copy instruction with its guard. -/
def copyOp (h : Hdr) (s : State) (k : Agent → State) : Host.Outcome State Fault Refusal :=
  withAgent s fun a => if s.guardOnce a h then k a else s.retire a h

/-- A command of a kind with the flags of an instruction. -/
def copyCmd (s : State) (a : Agent) (fl : CopyFlags) (kind : CopyKind) (dst src : W64) (len : Nat) (bad : Option Nat) : CopyCmd :=
  CopyCmd.fresh kind dst src len fl.ck fl.chain fl.cmp fl.ord (s.pcOf a) bad

/-- cp (R182). -/
def execCp (h : Hdr) (f : EForm) (s : State) : Host.Outcome State Fault Refusal :=
  copyOp h s fun a =>
    let fl := copyFlags f
    let dst := readScl s a f.a (!fl.dsp)
    let src := readScl s a f.b (!fl.ssp)
    let n := (readScl s a f.c false).toNat
    copyIssue s a h f fl dst src n (copyCmd s a fl (.plain fl.dsp fl.ssp) dst src n none)

/-- cp.mc (R182, R188). -/
def execCpMc (h : Hdr) (f : EForm) (s : State) : Host.Outcome State Fault Refusal :=
  copyOp h s fun a =>
    let fl := copyFlags f
    let dst := readScl s a f.a true
    let src := readScl s a f.b true
    let n := (readScl s a f.c false).toNat
    copyIssue s a h f fl dst src n (copyCmd s a fl .multicast dst src n none)

/-- cp.x (R182, R189). -/
def execCpX (h : Hdr) (f : EForm) (s : State) : Host.Outcome State Fault Refusal :=
  copyOp h s fun a =>
    let fl := copyFlags f
    let dst := readScl s a f.a true
    let src := readScl s a f.b true
    let n := (readScl s a f.c false).toNat
    copyIssue s a h f fl dst src n (copyCmd s a fl .remote dst src n none)

/-- cp.fill (R182). -/
def execCpFill (h : Hdr) (f : EForm) (s : State) : Host.Outcome State Fault Refusal :=
  copyOp h s fun a =>
    let fl := copyFlags f
    let dst := readScl s a f.a (!fl.dsp)
    let n := (readScl s a f.c false).toNat
    copyIssue s a h f fl dst 0#64 n (copyCmd s a fl (.fill (lo32 (readScl s a f.b false)) fl.dsp) dst 0#64 n none)

/-- The status of a gather's or scatter's descriptor (R182). -/
def descStatus (d : Nat) : Option Nat :=
  if d / 256 = 0 || 12 < d % 16 || d / 16 % 16 != 0 then some 0x34 else none

/-- cp.gth (R182). -/
def execCpGth (h : Hdr) (f : EForm) (s : State) : Host.Outcome State Fault Refusal :=
  copyOp h s fun a =>
    let fl := copyFlags f
    let dst := readScl s a f.a (!fl.dsp)
    let list := readScl s a f.b true
    let d := (readScl s a f.c false).toNat
    let bytes := if (descStatus d).isSome then 0 else d / 256 * 2 ^ (d % 16)
    copyIssue s a h f fl dst 0#64 bytes (copyCmd s a fl (.gather fl.dsp) dst list d (descStatus d))

/-- cp.sct (R182). -/
def execCpSct (h : Hdr) (f : EForm) (s : State) : Host.Outcome State Fault Refusal :=
  copyOp h s fun a =>
    let fl := copyFlags f
    let list := readScl s a f.a true
    let src := readScl s a f.b (!fl.ssp)
    let d := (readScl s a f.c false).toNat
    let bytes := if (descStatus d).isSome then 0 else d / 256 * 2 ^ (d % 16)
    copyIssue s a h f fl 0#64 src bytes (copyCmd s a fl (.scatter fl.ssp) list src d (descStatus d))

/-- m.tr (R196). -/
def execMTr (h : Hdr) (f : EForm) (s : State) : Host.Outcome State Fault Refusal :=
  copyOp h s fun a =>
    let e := 2 ^ (f.flags.toNat % 4)
    let r := fun i => (s.sread a (f.c.idx.toNat + i)).toNat
    let bad := r 0 = 0 || 4096 < r 0 || r 1 = 0 || 4096 < r 1 || r 2 < r 1 * e || r 3 < r 0 * e || r 2 % e != 0 || r 3 % e != 0
    s.issueCmd a h f.d.idx.toNat (.copy f.chan.toNat
      (CopyCmd.fresh (.transpose e (r 0) (r 1) (r 2) (r 3)) (readScl s a f.a true) (readScl s a f.b true) 0 0 false false
        false (s.pcOf a) (if bad then some 0x34 else none)))

/-- m.red (R197): a bad length and a misaligned address are two statuses of which the command takes one. -/
def execMRed (h : Hdr) (f : EForm) (s : State) : Host.Outcome State Fault Refusal :=
  copyOp h s fun a =>
    let ty := f.flags.toNat % 16
    let op := f.flags.toNat / 16 % 4
    let e := if ty = 2 || ty = 3 || ty = 5 then 8 else 4
    let dst := readScl s a f.a true
    let src := readScl s a f.b true
    let n := (readScl s a f.c false).toNat
    let bads := (if n % e != 0 then [0x34] else []) ++ (if dst.toNat % e != 0 || src.toNat % e != 0 then [0x04] else [])
    let (bad, s) := pickFrom s bads 0
    s.issueCmd a h f.d.idx.toNat (.copy f.chan.toNat
      (CopyCmd.fresh (.reduce ty op) dst src n 0 false false false (s.pcOf a) (if bads.isEmpty then none else some bad)))

/-! Counters (R191, R192). -/
/-- The scope that a flags field names. -/
def scopeOf (n : Nat) : Scope :=
  match n with
  | 0 => .grp
  | 1 => .core
  | 2 => .clu
  | 3 => .pkg
  | _ => .sys

namespace State
/-- An acquire of engine writes up to a visibility time (R191, R302). -/
def acquireTs (s : State) (a : Agent) (sc : Scope) (ts : Nat) : State :=
  match a with
  | .frag _ _ => if wideScope sc then s.raiseCt (s.coreOf a) ts else s
  | .ks k => s.modKs k fun c => { c with acqSeen := max c.acqSeen ts }
/-- Sectors that engine commands wrote count, with their visibility times, for the fragment that waits for them (R169). -/
def takeWritten (s : State) (a : Agent) (secs : Assoc Nat) : State :=
  match secs, a with
  | _ :: _, .frag g _ =>
    let m := s.maskOfAgent a
    s.modGrp g fun G => { G with written := G.written ++ [(m, secs)] }
  | _, _ => s
/-- A group has waited for its Keystone's commands up to n (R223), or a fragment's lanes for the KV commands (R204). -/
def noteWaited (s : State) (a : Agent) (tc n : Nat) : State :=
  match a with
  | .frag g _ =>
    let m := s.maskOfAgent a
    let kv := fun (G : Group) l => if m.getLsbD l then max (G.laneKv.getD l 0) n else G.laneKv.getD l 0
    if tc = 16 then s.modGrp g fun G => { G with ksSeen := max G.ksSeen n }
    else if tc = 17 then s.modGrp g fun G => { G with laneKv := (List.range 64).map (kv G) }
    else s
  | .ks _ => s
end State

/-- tc.wait (R191). -/
def execTcWait (h : Hdr) (f : EForm) (s : State) : Host.Outcome State Fault Refusal :=
  copyOp h s fun a =>
    let tc := f.chan.toNat
    let n := (readScl s a f.a true).toNat
    let T := s.counterOf a tc
    let d := f.d.idx.toNat
    if T.v < n then s.wait a (.timeline tc n)
    else
      let s := ((s.acquireTs a (scopeOf (f.flags.toNat % 8)) (T.tsTo n)).takeWritten a (T.wroteTo n)).noteWaited a tc n
      ((s.pset a d (T.failBit && T.first ≤ n)).addBusy a [(2, d)] 1).retire a h

/-- tc.get (R192). -/
def execTcGet (h : Hdr) (f : EForm) (s : State) : Host.Outcome State Fault Refusal :=
  withAgent s fun a =>
    sclOp s a h f.d.idx.toNat true 1 fun s =>
      let T := s.counterOf a f.chan.toNat
      BitVec.ofNat 64 (if f.flags.getLsbD 0 then T.last else T.v)

/-- tc.err (R192): with .clr the error word and FIRST are cleared in the same step. -/
def execTcErr (h : Hdr) (f : EForm) (s : State) : Host.Outcome State Fault Refusal :=
  copyOp h s fun a =>
    let tc := f.chan.toNat
    let T := s.counterOf a tc
    let d := f.d.idx.toNat
    let s := s.writeScl a d true (pairOf T.err (BitVec.ofNat 32 T.first))
    let s := if f.flags.getLsbD 0 then s.modCounter a tc fun t => { t with err := 0#32, first := 0 } else s
    (s.addBusy a [(1, d), (1, d + 1)] 1).retire a h

/-! Channels (R193-R195). -/
/-- Chunks done from the front of a command. -/
def CopyCmd.prefixDone (c : CopyCmd) : Nat := (c.chunks.takeWhile ChunkSt.done?).length

/-- ch.wp (R193). -/
def execChWp (h : Hdr) (f : EForm) (s : State) : Host.Outcome State Fault Refusal :=
  copyOp h s fun a =>
    let ch := s.chanOf a f.chan.toNat
    let C := s.getChan ch
    let T := s.chanTl ch
    let d := f.d.idx.toNat
    let open' := C.cmds.filter fun c => c.ended.isNone
    let (p, v, ts) := match open' with
      | c :: _ => (min c.streamLen (chunkBytes * c.prefixDone), c.value, max c.vis (T.tsTo T.v))
      | [] => (C.lastLen, T.v, T.tsTo T.v)
    let s := s.acquireTs a (scopeOf (f.flags.toNat % 8)) ts
    let s := (s.writeScl a d true (BitVec.ofNat 64 p)).writeScl a (d + 2) true (BitVec.ofNat 64 v)
    (s.addBusy a ((List.range 4).map fun i => (1, d + i)) 1).retire a h

/-- ch.rst (R194): it goes on once every command that it cancelled is over. -/
def execChRst (h : Hdr) (f : EForm) (s : State) : Host.Outcome State Fault Refusal :=
  copyOp h s fun a =>
    let ch := s.chanOf a f.chan.toNat
    let s := match s.stOf a with
      | .waiting (.channel _) => s
      | _ => s.cancelStart ch
    if s.cancelling ch then s.wait a (.channel f.chan.toNat)
    else
      let s := s.cancelEnd ch
      let d := f.d.idx.toNat
      ((s.writeScl a d true (BitVec.ofNat 64 (s.chanTl ch).v)).addBusy a [(1, d), (1, d + 1)] 1).retire a h

/-- Incomplete commands with a checksum of a channel, accepted or issued before a number (R195). -/
def State.sumsOpen (s : State) (a : Agent) (n before : Nat) : Bool :=
  (s.getChan (s.chanOf a n)).cmds.any (fun c => c.ck != 0 && c.ended.isNone) ||
    s.pends.any fun p => p.1 < before && (match p.2.cmd with
      | .copy m c => s.chanOf p.2.agent m == s.chanOf a n && c.ck != 0
      | _ => false)
/-- ch.sum.set and .exp (R195): they wait for those issued before them, and the ones issued after them wait for them. -/
def sumsThen (s : State) (a : Agent) (n : Nat) (k : State → State) : State :=
  let before := match s.stOf a with
    | .waiting (.sums _ b) => b
    | _ => s.nextId
  if s.sumsOpen a n before then s.wait a (.sums n before) else k s

/-- ch.sum.get (R195). -/
def execChSumGet (h : Hdr) (f : EForm) (s : State) : Host.Outcome State Fault Refusal :=
  withAgent s fun a =>
    sclOp s a h f.d.idx.toNat false 1 fun s => (s.getChan (s.chanOf a f.chan.toNat)).rv.setWidth 64

/-- ch.sum.set (R195): what it sets stands, whatever commands that are complete and not covered yet would still bring to Rv
(DEDUCED, log 18). -/
def execChSumSet (h : Hdr) (f : EForm) (s : State) : Host.Outcome State Fault Refusal :=
  copyOp h s fun a =>
    let n := f.chan.toNat
    sumsThen s a n fun s =>
      (s.modChan (s.chanOf a n) fun C =>
        { C with rv := lo32 (readScl s a f.a false), cmds := C.cmds.map fun c => { c with ck := 0 } }).retire a h

/-- ch.sum.exp (R195). -/
def execChSumExp (h : Hdr) (f : EForm) (s : State) : Host.Outcome State Fault Refusal :=
  copyOp h s fun a =>
    let n := f.chan.toNat
    sumsThen s a n fun s =>
      (s.modChan (s.chanOf a n) fun C => { C with x := lo32 (readScl s a f.a false) }).retire a h

end Sys2Proof.Machine
end

