-- ==== Sys2Proof/Machine/KvTree.lean ====
section
/-! DEFINITION. The Orris prefix trees (R375-R389): descriptors, enabling and disabling, the tree area in memory, the KV
commands (R201-R203), kv.xlat (R204) and refetches (R388). -/
namespace Sys2Proof.Machine

/-- A tree as its descriptor gives it (R375). -/
structure Tree where
  num : Nat
  pbase : Nat
  log2pg : Nat
  npg : Nat
  vbase : Nat
  abase : Nat
  maxblk : Nat
  nseq : Nat
  seed : W64
  asid : Nat
  deriving DecidableEq, Repr

/-- No page (R378). -/
def noPage : Nat := 0xFFFFFFFF

namespace Tree
def pg (t : Tree) : Nat := 2 ^ t.log2pg
def page (t : Tree) (i : Nat) : Nat := t.pbase + i * t.pg
/-- Page record, sequence entry and block list (R377). -/
def record (t : Tree) (i : Nat) : Nat := t.abase + 128 + 128 * i
def seqEnt (t : Tree) (j : Nat) : Nat := t.abase + 128 + 128 * t.npg + 32 * j
def blockAt (t : Tree) (j k : Nat) : Nat :=
  t.abase + (128 + 128 * t.npg + 32 * t.nseq + 127) / 128 * 128 + 4 * t.maxblk * j + 4 * k
/-- Where a node's first child is named: the header for the root. -/
def childSlot (t : Tree) (node : Nat) : Nat := if node = noPage then t.abase else t.record node + 0x0C
end Tree

namespace State
def mmioSet (s : State) (off : Nat) (v : W64) : State := { s with mmio := s.mmio.put 0#64 off v }
def treeOf (s : State) (n : Nat) : Tree :=
  let w := fun i => (s.treeWord n i).toNat
  { num := n, pbase := (s.treePool n).1, log2pg := w 0 % 32, npg := w 1 % 2 ^ 25, vbase := w 2, abase := (s.treeArea n).1,
    maxblk := 2 ^ (w 4 / 2 ^ 32 % 16), nseq := w 4 % 2 ^ 24, seed := s.treeWord n 5, asid := w 6 / 2 ^ 32 % 2 ^ 16 }
/-- Fields of the tree area. -/
def get4 (s : State) (a : Nat) : Nat := s.mem.readNat a 4
def get8 (s : State) (a : Nat) : Nat := s.mem.readNat a 8
/-- A write of the Orris engine: the state and the largest visibility time so far. -/
def areaPut (st : State × Nat) (a n x : Nat) : State × Nat :=
  let (s, v) := st.1.memWrite a (Memory.leBytes n x) (st.1.ftGrain a) 0 .dflt
  (s, max st.2 v)
/-- A write of a field of an enabled tree's area, whose value before other agents may still read (R377). -/
def kput (st : State × Nat) (a n x : Nat) : State × Nat :=
  let s := st.1
  let old := s.mem.readNat a n
  let c : TreeChange := { pa := a, n := n, old := old, at' := s.nextId, by' := none }
  areaPut (if old = x then s else { s with treeLog := s.treeLog ++ [c] }, st.2) a n x
/-- The changes just made are those of a command or of a kv.xlat, by the number of its acceptance or issue; changes from
before the last one's acceptance show no more (R377). -/
def settleChanges (s : State) (n : Nat) : State :=
  let l := s.treeLog.map fun c => { c with by' := c.by'.or (some n) }
  let last := fun (c : TreeChange) => ((l.filter fun d => d.pa == c.pa && d.n == c.n).getLast?).bind (·.by')
  { s with treeLog := l.filter fun c => (last c).getD 0 < c.at' }
/-- The past of a range's fields is forgotten: its tree begins or ends. -/
def forgetChanges (s : State) (r : Nat × Nat) : State :=
  { s with treeLog := s.treeLog.filter fun c => !(r.1 ≤ c.pa && c.pa < r.1 + r.2) }
def treeFree (s : State) (t : Tree) (d : Int) : State :=
  let off := 0x30000 + 64 * t.num + 0x38
  s.mmioSet off (BitVec.ofNat 64 (((s.mmio.getD off 0#64).toNat : Int) + d).toNat)
def pageState (s : State) (t : Tree) (i : Nat) : Nat := s.get4 (t.record i + 0x18) % 4
def pageFill (s : State) (t : Tree) (i : Nat) : Nat := s.get4 (t.record i + 0x18) / 2 ^ 8 % 32
def pageCnt (s : State) (t : Tree) (i : Nat) : Nat := s.get4 (t.record i + 0x14)
def pageIds (s : State) (t : Tree) (i : Nat) : List Nat := (List.range 16).map fun k => s.get4 (t.record i + 0x30 + 4 * k)
def pageLines (t : Tree) (i : Nat) : List Nat := (List.range (t.pg / 128)).map fun k => t.page i / 128 + k
end State

/-- The key of 16 token IDs (R380). -/
def blockKey (seed : W64) (ids : List Nat) : W64 :=
  (List.range 8).foldl (fun h k =>
    mix64 (h ^^^ BitVec.ofNat 64 (ids.getD (2 * k) 0) ^^^ BitVec.ofNat 64 (ids.getD (2 * k + 1) 0 * 2 ^ 32))) seed

namespace State
/-- A chain of pages from a first one along the sibling links. -/
def chain (s : State) (t : Tree) : Nat → Nat → List Nat
  | 0, _ => []
  | f + 1, i => if t.npg ≤ i then [] else i :: chain s t f (s.get4 (t.record i + 0x10))
def children (s : State) (t : Tree) (node : Nat) : List Nat := s.chain t t.npg (s.get4 (t.childSlot node))
def freeList (s : State) (t : Tree) : List Nat := s.chain t t.npg (s.get4 (t.abase + 4))
/-- The first child that matches 16 IDs (R380, R381). -/
def findChild (s : State) (t : Tree) (node : Nat) (ids : List Nat) : Option Nat :=
  (s.children t node).find? fun i =>
    s.pageState t i == 2 && s.get8 (t.record i) == (blockKey t.seed ids).toNat && s.pageIds t i == ids
/-- Take a page out of a chain whose first link lies at `slot`. -/
def unchain (st : State × Nat) (t : Tree) (slot i : Nat) (chain : List Nat) : State × Nat :=
  let next := st.1.get4 (t.record i + 0x10)
  let before := (chain.takeWhile (· != i)).getLast?
  kput st (match before with | some b => t.record b + 0x10 | none => slot) 4 next
/-- A page's last use (R382). -/
def stampPage (st : State × Nat) (t : Tree) (i : Nat) : State × Nat := kput st (t.record i + 0x20) 8 (st.1.storeClk % 2 ^ 64)
def stampSeq (st : State × Nat) (t : Tree) (j : Nat) : State × Nat := kput st (t.seqEnt j + 0x10) 8 (st.1.storeClk % 2 ^ 64)
def setPage (st : State × Nat) (t : Tree) (i fill state : Nat) : State × Nat :=
  kput st (t.record i + 0x18) 4 (fill * 2 ^ 8 + state)

/-- A page for a command (R383): any free one, otherwise the published page with count 0 and no child of least stamp. -/
def freshPage (st : State × Nat) (t : Tree) : Option (Nat × (State × Nat)) :=
  let s := st.1
  let free := s.freeList t
  match free with
  | d :: _ =>
    let (i, s) := pickFrom s free d
    some (i, let r := unchain (s, st.2) t (t.abase + 4) i free
             (r.1.treeFree t (-1), r.2))
  | [] =>
    let can := (List.range t.npg).filter fun i =>
      s.pageState t i == 2 && s.pageCnt t i == 0 && s.get4 (t.record i + 0x0C) == noPage
    match can with
    | [] => none
    | c :: r =>
      let stamp := fun i => s.get8 (t.record i + 0x20)
      let i := r.foldl (fun b x => if stamp x < stamp b then x else b) c
      let parent := s.get4 (t.record i + 0x08)
      let (s1, v) := unchain st t (t.childSlot parent) i (s.children t parent)
      some (i, ((pageLines t i).foldl (fun (s : State) l => s.dropLine l) s1, v))

/-- A page loses a holder; a private page without holders is free (R383). -/
def releasePage (st : State × Nat) (t : Tree) (i : Nat) : State × Nat :=
  let c := st.1.pageCnt t i - 1
  let st := kput st (t.record i + 0x14) 4 c
  if c = 0 && st.1.pageState t i == 1 then
    let head := st.1.get4 (t.abase + 4)
    let st := setPage st t i 0 0
    let st := kput st (t.record i + 0x10) 4 head
    let st := kput st (t.abase + 4) 4 i
    (st.1.treeFree t 1, st.2)
  else st
def raisePage (st : State × Nat) (t : Tree) (i : Nat) : State × Nat :=
  kput st (t.record i + 0x14) 4 (st.1.pageCnt t i + 1)

/-! Sequences (R379). -/
def seqLen (s : State) (t : Tree) (j : Nat) : Nat := s.get4 (t.seqEnt j)
def seqHold (s : State) (t : Tree) (j : Nat) : Nat := s.get4 (t.seqEnt j + 4)
def seqBlocks (s : State) (t : Tree) (j : Nat) : List Nat :=
  (List.range (s.get4 (t.seqEnt j + 8))).map fun k => s.get4 (t.blockAt j k)
def seqLive (s : State) (t : Tree) (j : Nat) : Bool := 0 < j && j < t.nseq && 0 < s.seqHold t j
/-- The lowest free index. -/
def freeSeq (s : State) (t : Tree) : Option Nat := (List.range t.nseq).find? fun j => 0 < j && s.seqHold t j == 0
/-- A sequence's entry and block list. -/
def putSeq (st : State × Nat) (t : Tree) (j len hold : Nat) (bs : List Nat) : State × Nat :=
  let st := kput st (t.seqEnt j) 4 len
  let st := kput st (t.seqEnt j + 4) 4 hold
  let st := kput st (t.seqEnt j + 8) 4 bs.length
  let st := bs.zipIdx.foldl (fun st p => kput st (t.blockAt j p.2) 4 p.1) st
  stampSeq st t j
end State

/-- What a command writes to its parameter block (R201). -/
structure KvOut where
  status : Nat
  handle : Nat
  value : Nat
  addr : Nat
  kind : Nat
  deriving DecidableEq, Repr
def kvFail (st : Nat) : KvOut := { status := st, handle := 0, value := 0, addr := 0, kind := 0 }
def KvOut.bytes (o : KvOut) : List Byte :=
  Memory.leBytes 4 o.status ++ Memory.leBytes 4 o.handle ++ Memory.leBytes 4 o.value ++ Memory.leBytes 8 o.addr ++
    Memory.leBytes 4 o.kind ++ List.replicate 20 0#8

/-- A handle (R201). -/
def handleOf (t : Tree) (j : Nat) : Nat := t.num * 2 ^ 24 + j

namespace State
/-! The commands (R202, R381-R385). -/
/-- kv.match: the pages of the blocks that match, from the root. -/
def matchBlocks (s : State) (t : Tree) : Nat → List (List Nat) → List Nat
  | _, [] => []
  | node, ids :: rest =>
    match s.findChild t node ids with
    | some c => c :: matchBlocks s t c rest
    | none => []
def kvMatch (s : State) (t : Tree) (blocks : List (List Nat)) : (State × Nat) × KvOut :=
  match s.freeSeq t with
  | none => ((s, 0), kvFail 0x35)
  | some j =>
    let ps := s.matchBlocks t noPage blocks
    let st := ps.foldl (fun st i => stampPage (raisePage st t i) t i) (s, 0)
    (putSeq st t j (16 * ps.length) 1 ps, { kvFail 0 with handle := handleOf t j, value := 16 * ps.length })
/-- One block of kv.insert: the current node and how many were published. -/
def insertBlock (t : Tree) (acc : (State × Nat) × Nat × Nat) (p : Nat) : (State × Nat) × Nat × Nat :=
  let (st, node, n) := acc
  let s := st.1
  if s.pageState t p = 2 then (st, p, n)
  else
    let ids := s.pageIds t p
    match s.findChild t node ids with
    | some c => (st, c, n)
    | none =>
      let first := s.get4 (t.childSlot node)
      let st := kput st (t.record p) 8 (blockKey t.seed ids).toNat
      let st := setPage st t p 16 2
      let st := kput st (t.record p + 0x08) 4 node
      let st := kput st (t.record p + 0x10) 4 first
      (kput st (t.childSlot node) 4 p, p, n + 1)
def kvInsert (s : State) (t : Tree) (j : Nat) : (State × Nat) × KvOut :=
  let full := (s.seqBlocks t j).take (s.seqLen t j / 16)
  let (st, _, n) := full.foldl (insertBlock t) ((s, 0), noPage, 0)
  (stampSeq st t j, { kvFail 0 with value := n })
def kvFork (s : State) (t : Tree) (j : Nat) : State × ((State × Nat) × KvOut) :=
  let bs := s.seqBlocks t j
  let bads := (if (s.freeSeq t).isNone then [0x35] else []) ++
    (if bs.any fun i => s.pageCnt t i == 2 ^ 32 - 1 then [0x34] else [])
  match bads with
  | d :: _ =>
    let (b, s) := pickFrom s bads d
    (s, ((s, 0), kvFail b))
  | [] =>
    let k := (s.freeSeq t).getD 0
    let st := bs.foldl (fun st i => raisePage st t i) (s, 0)
    let st := putSeq st t k (s.seqLen t j) 1 bs
    (s, (stampSeq st t j, { kvFail 0 with handle := handleOf t k, value := s.seqLen t j }))
def kvRef (s : State) (t : Tree) (j : Nat) : (State × Nat) × KvOut :=
  let n := s.seqHold t j
  if n = 2 ^ 32 - 1 then ((s, 0), kvFail 0x34)
  else (stampSeq (kput (s, 0) (t.seqEnt j + 4) 4 (n + 1)) t j, { kvFail 0 with value := n + 1 })
def kvUnref (s : State) (t : Tree) (j : Nat) : (State × Nat) × KvOut :=
  let n := s.seqHold t j - 1
  let st := kput (s, 0) (t.seqEnt j + 4) 4 n
  let st := if n = 0 then (s.seqBlocks t j).reverse.foldl (fun st i => releasePage st t i) st else st
  (stampSeq st t j, { kvFail 0 with value := n })
def kvQry (s : State) (t : Tree) (j : Nat) : (State × Nat) × KvOut :=
  let bs := s.seqBlocks t j
  let tail := match bs.getLast? with
    | some i => if s.seqLen t j = 0 then 0 else t.vbase + i * t.pg
    | none => 0
  (stampSeq (s, 0) t j,
    { kvFail 0 with value := s.seqLen t j, addr := tail, kind := if s.seqLen t j = 0 then 0 else bs.length })
/-- The bytes of a fresh page (R202): each zero, its present value, or one that it has held since the tree was enabled. -/
def freshBytes (s : State) (t : Tree) (i : Nat) : State :=
  (List.range t.pg).foldl (fun (s : State) k =>
    let a := t.page i + k
    let now := s.mem.read a
    let vs := (0#8 :: now :: s.kvHist.getD a []).eraseDups
    let (b, s) := pickFrom s vs 0#8
    { s with mem := s.mem.write a b }) s
/-- Whether a slice that has retired was the home of a byte (R431). -/
def wasHome (s : State) (slice : Option Nat) (pa : Nat) : Bool :=
  match slice with
  | none => false
  | some i => ({ s with health := { s.health with retired := s.health.retired.filter (· != i) } }).homeOf pa == i
/-- Half a line of a page's copy as it is read (R202): bytes that cannot be read are any bytes, and give their statuses. -/
def readHalf (s : State) (lost : Option Nat) (pa : Nat) (who : W32) : State × List Byte × List Nat :=
  let (s, old, _, _) := s.homeRead pa 64 (s.ftGrain pa) none .dflt who
  let es := if s.wasHome lost pa then [0x33] else s.readCauses pa 64
  if es.isEmpty then (s, old, [])
  else
    let (s, bs) := (List.range 64).foldl (fun (a : State × List Byte) _ =>
      let (b, s) := anyByte a.1
      (s, a.2 ++ [b])) (s, [])
    (s, bs, es)
/-- The copy of a page (R385, step 6), line by line; a half that its home refuses is not written (R406), and a line written
whole loses its poison (R435). -/
def copyPage (st : State × Nat) (t : Tree) (lost : Option Nat) (src dst : Nat) : (State × Nat) × List Nat :=
  (List.range (t.pg / 128)).foldl (fun (acc : (State × Nat) × List Nat) k =>
    let from' := t.page src + 128 * k
    let to' := t.page dst + 128 * k
    let home := acc.1.1.homeOf to'
    let who := idMortar home
    let (s, b0, e0) := (acc.1.1.noteInject 1 home 128).readHalf lost from' who
    let (s, b1, e1) := s.readHalf lost (from' + 64) who
    let parts := if s.lostAt to' 128 then [(to', b0), (to' + 64, b1)] else [(to', b0 ++ b1)]
    let refused := parts.filter fun p => s.lostAt p.1 p.2.length
    let st := (parts.filter fun p => !(s.lostAt p.1 p.2.length)).foldl (fun (x : State × Nat) p =>
      let (s, v) := x.1.homeWrite p.1 p.2 (x.1.ftGrain p.1) 0 .dflt who
      (s, max x.2 v)) (s, acc.1.2)
    (st, acc.2 ++ e0 ++ e1 ++ refused.map fun _ => 0x0B)) (st, [])
/-- The end of an append: the token is recorded and the length rises (R385, step 7). -/
def recordToken (st : State × Nat) (t : Tree) (j page p x : Nat) : State × Nat :=
  let st := kput st (t.blockAt j (p / 16)) 4 page
  let st := kput st (t.record page + 0x30 + 4 * (p % 16)) 4 x
  let st := setPage st t page (p % 16 + 1) (st.1.pageState t page)
  let st := kput st (t.seqEnt j) 4 (p + 1)
  let st := kput st (t.seqEnt j + 8) 4 (p / 16 + 1)
  stampSeq (stampPage st t page) t j
/-- A fresh page's record (R383). -/
def freshRecord (st : State × Nat) (t : Tree) (i fill : Nat) (ids : List Nat) : State × Nat :=
  let st := kput st (t.record i) 8 0
  let st := kput st (t.record i + 0x08) 4 noPage
  let st := kput st (t.record i + 0x0C) 4 noPage
  let st := kput st (t.record i + 0x10) 4 noPage
  let st := kput st (t.record i + 0x14) 4 1
  let st := setPage st t i fill 1
  ids.zipIdx.foldl (fun st p => kput st (t.record i + 0x30 + 4 * p.2) 4 p.1) st
/-- kv.append (R202, R385). -/
def kvAppend (s : State) (t : Tree) (lost : Option Nat) (j x : Nat) : (State × Nat) × KvOut :=
  let p := s.seqLen t j
  let out := fun page kind st => { status := st, handle := 0, value := p,
                                   addr := t.vbase + page * t.pg + p % 16 * (t.pg / 16), kind := kind : KvOut }
  if 16 * t.maxblk ≤ p then ((s, 0), kvFail 0x34)
  else if p % 16 = 0 then
    match freshPage (s, 0) t with
    | none => ((s, 0), kvFail 0x13)
    | some (i, (s1, v)) =>
      let st := freshRecord (s1.freshBytes t i, v) t i 0 (List.replicate 16 0)
      (recordToken st t j i p x, out i 2 0)
  else
    let tail := s.get4 (t.blockAt j (p / 16))
    if 1 < s.pageCnt t tail then
      match freshPage (s, 0) t with
      | none => ((s, 0), kvFail 0x13)
      | some (i, st) =>
        let fill := s.pageFill t tail
        let ids := s.pageIds t tail
        let st := releasePage st t tail
        let (st, sts) := copyPage st t lost tail i
        let st := freshRecord st t i fill ids
        let (e, s1) := pickFrom st.1 sts.eraseDups 0
        (recordToken (s1, st.2) t j i p x, out i 1 e)
    else (recordToken (s, 0) t j tail p x, out tail 0 0)

/-! Execution (R201). -/
/-- Whether a task's command may name a tree (R376): enabled for commands accepted before a disable, and the task's
address space. -/
def treeOpen (s : State) (c : KvCmd) (n asid : Nat) (sup : Bool) : Bool :=
  let w := s.treeWord n 6
  n < 256 && w.getLsbD 0 && (sup || w.toNat / 2 ^ 32 % 2 ^ 16 == asid) &&
    (match s.trees.get? n with
      | some lim => c.seq < lim
      | none => true)
/-- The command on its tree, its operands read. -/
def kvRun (s : State) (c : KvCmd) (asid : Nat) (sup : Bool) (par : List Byte) (blocks : List (List Nat)) :
    (State × Nat) × KvOut :=
  let field := fun o n => natOfBytes ((par.drop o).take n)
  if c.op = 0x06 then
    let n := field 4 4
    if s.treeOpen c n asid sup then s.kvMatch (s.treeOf n) blocks else ((s, 0), kvFail 0x34)
  else
    let h := field 0 4
    let n := h / 2 ^ 24
    let j := h % 2 ^ 24
    let t := s.treeOf n
    if !(s.treeOpen c n asid sup) || !(s.seqLive t j) then ((s, 0), kvFail 0x34)
    else
      match c.op with
      | 0x07 => s.kvInsert t j
      | 0x08 => (s.kvFork t j).2
      | 0x09 => s.kvRef t j
      | 0x0A => s.kvUnref t j
      | 0x0B => s.kvAppend t c.lost j (field 0x10 4)
      | _ => s.kvQry t j

/-- The blocks of token IDs that kv.match reads: at most MAXBLK of them. -/
def tokenCount (s : State) (c : KvCmd) (par : List Byte) : Nat :=
  if c.op = 0x06 then
    let n := natOfBytes ((par.drop 4).take 4)
    min (natOfBytes ((par.drop 0x10).take 4) / 16) (if n < 256 && (s.treeWord n 6).getLsbD 0 then (s.treeOf n).maxblk else 0) * 16
  else 0

/-- A translation fault stops the KV context (R201). -/
def stopKv (s : State) (t : Nat) (c : KvCmd) (f : XFault) (va : W64) (write : Bool) : State :=
  let T := s.tasks.get? t
  (s.modTask t fun T => { T with kvStopped := true }).pushRetry ((T.map (·.core)).getD 0) ((T.map (·.slot)).getD 0) 17 f.cause va
    (BitVec.ofNat 64 c.value) c.pc write (.kv t c.value)

/-- The end of a command: outputs are written unless their home refuses, then it completes (R201). -/
def endKv (s : State) (t : Nat) (c : KvCmd) (block : PRun) (vis : Nat) (o : KvOut) : State :=
  let who := idOrris (s.homeOf block.pa)
  let (s, st, v) := match s.homeError block.pa 64 .write with
    | some _ => (s, 0x0B, vis)
    | none =>
      let (s, w) := s.homeWrite (block.pa + 0x14) o.bytes block.grain 0 block.pol who
      (s, o.status, max vis w)
  (s.modTaskTl t 17 fun tl => tl.complete c.value st v []).modTask t fun T =>
    { T with kvq := T.kvq.filter fun q => q.value != c.value }

/-- Halves of lines of some ranges that a holder keeps from the Orris engine (R402). -/
def halvesHeld (s : State) (who : W32) (rs : List (Nat × Nat)) : List Nat :=
  (s.dir.map (·.1)).filter fun h => (rs.any fun r => rangesMeet r.1 r.2 (h * 64) 64) && s.halfConflict who true h
/-- Those of the structures that a command may read or write: of its tree's area, and for kv.append of its pool. -/
def treeHeld' (s : State) (who : W32) (c : KvCmd) (par : List Byte) : List Nat :=
  let n := if c.op = 0x06 then natOfBytes ((par.drop 4).take 4) else natOfBytes (par.take 4) / 2 ^ 24
  if 256 ≤ n then [] else s.halvesHeld who (s.treeArea n :: if c.op = 0x0B then [s.treePool n] else [])
/-- What a command changed of the past that other views of its sequence may show (R203, R204). -/
def notePast (before : State) (t : Nat) (c : KvCmd) (par : List Byte) (s : State) : State :=
  let h := natOfBytes (par.take 4)
  let T := before.treeOf (h / 2 ^ 24)
  let j := h % 2 ^ 24
  let len := before.seqLen T j
  let p : KvPast := { tree := T.num, seq := j, task := t, value := c.value, len := len,
                      page := if len % 16 = 0 then noPage else before.get4 (T.blockAt j (len / 16)) }
  let past := if c.op = 0x0B && s.seqLen T j != len then s.kvPast ++ [p] else s.kvPast
  { s with kvPast := past.filter fun q => s.seqLive (s.treeOf q.tree) q.seq }

/-- The end of a command that fails before it changes anything (R201). -/
def endKvFail (s : State) (t : Nat) (c : KvCmd) (blk : PRun) (es : List Nat) : State :=
  let (e, s) := pickFrom s es.eraseDups 0x0A
  s.endKv t c blk 0 (kvFail e)
/-- The statuses of what engine reads of runs cannot bring. -/
def runCauses (s : State) (rs : List PRun) : List Nat := rs.flatMap fun r => (halfRuns r.pa r.n).flatMap fun u => s.readCauses u.1 u.2

/-- The KV context executes its next command (R201): its block is read, then its token list, then its outputs' page is
checked; a command whose block cannot be read names no list. -/
def kvExecute (s : State) (t : Nat) : State :=
  match s.tasks.get? t with
  | none => s
  | some T =>
    match T.kvq with
    | [] => s
    | c :: _ =>
      if T.kvStopped || !s.enginesRun t then s
      else
        let L := s.launchOf T
        let sup := (L.map (·.sup)).getD false
        let asid := (L.map fun l => if l.sup then 0 else l.asid).getD 0
        let stop := fun (s : State) (f : XFault) va w => if f.held.isSome then s else s.stopKv t c f va w
        match s.xlatRange asid sup c.block 64 .read with
        | (s, .error (f, va)) => stop s f va false
        | (s, .ok rs) =>
          let port := match rs with
            | r :: _ => s.homeOf r.pa
            | [] => 0
          let who := idOrris port
          match s.recallRuns who false rs with
          | (s, true) => s
          | (s, false) =>
            let unread := s.runCauses rs
            let par := s.runBytes rs
            let n := if unread.isEmpty then s.tokenCount c par else 0
            match s.xlatRange asid sup (BitVec.ofNat 64 (natOfBytes ((par.drop 8).take 8))) (4 * n) .read with
            | (s, .error (f, va)) => stop s f va false
            | (s, .ok toks) =>
              match s.xlatRange asid sup c.block 64 .write with
              | (s, .error (f, va)) => stop s f va true
              | (s, .ok []) => s
              | (s, .ok (blk :: _)) =>
                match s.recallRuns who false toks, s.dirConflict who true blk.pa 64, s.treeHeld' who c par with
                | (s, true), _, _ => s
                | (s, false), true, _ => s.recallFor who true blk.pa 64
                | (s, false), false, h :: hs => (h :: hs).foldl (fun (s : State) x => s.recallHalf x) s
                | (s, false), false, [] =>
                  if !s.mayInject 1 port 64 then s
                  else
                    let s := s.noteInject 1 port 64
                    let (s, _, _) := s.readRuns who rs
                    let (s, bs, _) := s.readRuns who toks
                    match unread ++ s.runCauses toks with
                    | e :: es => s.endKvFail t c blk (e :: es)
                    | [] =>
                      let blocks := (List.range (n / 16)).map fun b =>
                        (List.range 16).map fun k => natOfBytes ((bs.drop (64 * b + 4 * k)).take 4)
                      let ((s', v), o) := s.kvRun c asid sup par blocks
                      ((notePast s t c par s').settleChanges c.seq).endKv t c blk v o
end State

/-! KV instructions (R201). -/
/-- Issue a KV command: a misaligned block faults at issue. -/
def kvIssue (op : Nat) (h : Hdr) (f : EForm) (s : State) : Host.Outcome State Fault Refusal :=
  copyOp h s fun a =>
    let block := readScl s a f.a true
    if block.toNat % 64 != 0 then s.raiseAt a .both { cause := 4, code := 0, psize := 4096 } block
    else s.issueCmd a h f.d.idx.toNat (.kv { value := 0, seq := 0, op := op, block := block, pc := s.pcOf a })

/-- kv.match (R202). -/
def execKvMatch (h : Hdr) (f : EForm) (s : State) : Host.Outcome State Fault Refusal := kvIssue 0x06 h f s
/-- kv.insert (R202). -/
def execKvInsert (h : Hdr) (f : EForm) (s : State) : Host.Outcome State Fault Refusal := kvIssue 0x07 h f s
/-- kv.fork (R202). -/
def execKvFork (h : Hdr) (f : EForm) (s : State) : Host.Outcome State Fault Refusal := kvIssue 0x08 h f s
/-- kv.ref (R202). -/
def execKvRef (h : Hdr) (f : EForm) (s : State) : Host.Outcome State Fault Refusal := kvIssue 0x09 h f s
/-- kv.unref (R202). -/
def execKvUnref (h : Hdr) (f : EForm) (s : State) : Host.Outcome State Fault Refusal := kvIssue 0x0A h f s
/-- kv.append (R202). -/
def execKvAppend (h : Hdr) (f : EForm) (s : State) : Host.Outcome State Fault Refusal := kvIssue 0x0B h f s
/-- kv.qry (R202). -/
def execKvQry (h : Hdr) (f : EForm) (s : State) : Host.Outcome State Fault Refusal := kvIssue 0x0D h f s

/-- kv.xlat (R204): it counts in LD, and its lanes are translated when the reply comes. -/
def execKvXlat (h : Hdr) (f : NForm) (s : State) : Host.Outcome State Fault Refusal :=
  withAgent s fun a =>
    let part := s.guardMask a h
    if part = 0#64 then s.retire a h
    else if 63 ≤ s.ldOf a then s.hold a
    else
      match s.acquirePending a with
      | some id => s.wait a (.request id)
      | none =>
        let d := f.d.idx.toNat
        s.withRegs a [d, d + 1] fun s =>
          let o1 : Opnd := { src := f.a, wide := false, lr := h.lra }
          let o2 : Opnd := { src := f.b, wide := false, lr := h.lrb }
          let (vs, s) := readSrcs s a f.aux [o1, o2]
          let lanes := (lanesOf part).map fun l =>
            { lane := l, off := 0, loc := .none, size := 8, va := 0#64, data := Memory.leBytes 4 (srcLane vs 0 l).toNat,
              cmp := Memory.leBytes 4 (srcLane vs 1 l).toNat, sent := false, got := none : LaneReq }
          let s := match a with
            | .frag g _ => ((s.youngerWrite g d part).youngerWrite g (d + 1) part).mapRegs a [d, d + 1]
            | .ks _ => s
          let (id, s) := s.takeId
          let r : Req := { agent := a, who := s.agentId a, sup := s.supOf a, fmask := s.maskOfAgent a, core := s.coreOf a,
                           pc := s.pcOf a, op := .xlat f.c.idx.toNat, lanes := lanes, dst := some (.vec, d), regs := 2,
                           part := part, one := false, order := .rlx, scope := .grp, vis := 0, seen := 0, blocking := false,
                           overwritten := [], born := s.clk }
          let s := { (s.modLd a (· + 1)) with reqs := s.reqs.set id r }
          (s.lastReads a (lastReadRegs [o1, o2]) [d, d + 1]).retire a h

namespace State
/-- The appends of a sequence that a view need not show (R203, R204): those after the last that the agent has waited for,
given its task and how far its tc.waits on tc17 reach. -/
def pastOf (s : State) (n j task seen : Nat) : List KvPast :=
  let es := s.kvPast.filter fun p => p.tree == n && p.seq == j
  (es.reverse.takeWhile fun p => !(p.task == task && p.value ≤ seen)).reverse
/-- The length of a sequence, and the page of a position, in the state before the first of some appends; now, without any. -/
def seqView (s : State) (t : Tree) (j pos : Nat) (past : List KvPast) : Nat × Nat :=
  let now := s.get4 (t.blockAt j (pos / 16))
  match past with
  | [] => (s.seqLen t j, now)
  | p :: _ => (p.len, ((past.find? fun q => q.len / 16 == pos / 16).map (·.page)).getD now)

/-- One lane of kv.xlat (R204, R388): its address, the replay bit, the page's stamp, and a refetch when it is absent. An append
that the lane has not waited for may not show. -/
def xlatLane (s : State) (asid : Nat) (sup : Bool) (h pos task seen : Nat) : State × Nat × Bool :=
  let n := h / 2 ^ 24
  let j := h % 2 ^ 24
  let t := s.treeOf n
  let w := s.treeWord n 6
  let live := w.getLsbD 0 && !w.getLsbD 1 && (sup || t.asid == asid) && s.seqLive t j
  let past := s.pastOf n j task seen
  let (k, s) := pickFrom s ((List.range (past.length + 1)).reverse) past.length
  let (len, i) := s.seqView t j pos (past.drop k)
  if !live || len ≤ pos then (s, 0, false)
  else
    let ent := t.pg / 16
    let lines := linesIn (t.page i + pos % 16 * ent) ent
    let absent := lines.any fun l => (s.lines.get? l).isNone
    let s := (stampPage (s, 0) t i).1
    let s := if absent && !s.refetch.contains (n, i) then { s with refetch := s.refetch ++ [(n, i)] } else s
    (s, t.vbase + i * t.pg + pos % 16 * ent, absent)
/-- The reply of kv.xlat: the lanes' addresses and replay bits. -/
def xlatReply (s : State) (id : Nat) (r : Req) (p : Nat) : State :=
  let asid := s.asidOf r.agent
  let sup := ((s.launchOfAgent r.agent).map (·.sup)).getD false
  let task := (s.taskIdOf r.agent).getD 0
  let seen := fun l => ((((agentGrp r.agent).bind s.grps.get?).map (·.laneKv)).getD []).getD l 0
  let (s, ls, m) := r.lanes.foldl (fun (acc : State × List LaneReq × Mask) (q : LaneReq) =>
    let (s, x, b) := acc.1.xlatLane asid sup (natOfBytes q.data) (natOfBytes q.cmp) task (seen q.lane)
    (s, acc.2.1 ++ [{ q with got := some (Memory.leBytes 8 x) }], if b then acc.2.2 ||| laneBit q.lane else acc.2.2))
    (s, [], 0#64)
  let q := (s.reqs.get? id).getD r
  ((s.settleChanges id).writeResult { q with lanes := ls }).writePred r.agent p r.part m

/-- A refetch brings every absent line of a page into its home (R388). -/
def refetchPage (s : State) (n i : Nat) : State :=
  if s.refetch.contains (n, i) then
    let t := s.treeOf n
    let s := ((pageLines t i).filter fun l => (s.lines.get? l).isNone).foldl (fun (s : State) l =>
      (s.noteInject 1 (s.homeOf (l * 128)) 128).touchLine l false .dflt) s
    { s with refetch := s.refetch.filter (· != (n, i)) }
  else s

/-- A load's, atomic's or translation's results return and LD falls (R142, R156, R204). -/
def loadReply (s : State) (id : Nat) : State :=
  match s.reqs.get? id with
  | none => s
  | some r =>
    match r.op with
    | .xlat p => { ((s.xlatReply id r p).modLd r.agent (· - 1)) with reqs := s.reqs.erase id }
    | op =>
      if op.inLd && Req.served r then
        let s := (s.writeResult r).acquireCt r.agent r.order r.scope r.seen
        { (s.modLd r.agent (· - 1)) with reqs := s.reqs.erase id }
      else s

/-! Enabling and disabling (R376). -/
/-- The ranges of pool and area of a tree whose descriptor is about to be enabled. -/
def overlapsTree (s : State) (n : Nat) (r : Nat × Nat) : Bool :=
  (s.heldTrees.filter (· != n)).any fun m =>
    rangesMeet r.1 r.2 (s.treePool m).1 (s.treePool m).2 || rangesMeet r.1 r.2 (s.treeArea m).1 (s.treeArea m).2
/-- Whether one valid KV contract holds both ranges. -/
def inKvContract (s : State) (a b : Nat × Nat) : Bool :=
  s.contractEntries.any fun i =>
    let (lo, hi) := s.contractRange i
    (s.contractWord i 0).getLsbD 0 && (s.contractWord i 2).toNat % 4 == 2 &&
      lo ≤ a.1 && a.1 + a.2 ≤ hi && lo ≤ b.1 && b.1 + b.2 ≤ hi
/-- The check of a descriptor: ERR of R376. -/
def treeErr (s : State) (n : Nat) : Nat :=
  let t := s.treeOf n
  let w := fun i => (s.treeWord n i).toNat
  let reserved := w 0 / 2 ^ 52 != 0 || w 0 / 2 ^ 5 % 2 ^ 16 != 0 || w 1 / 2 ^ 25 != 0 || w 3 / 2 ^ 52 != 0 ||
    w 3 % 2 ^ 12 != 0 || w 4 / 2 ^ 36 != 0 || w 4 / 2 ^ 24 % 2 ^ 8 != 0
  if reserved || t.log2pg < 12 || 21 < t.log2pg || t.npg = 0 || 2 ^ 24 < t.npg || t.maxblk < 16 || 65536 < t.maxblk ||
      w 4 / 2 ^ 32 < 4 || t.nseq < 2 || t.pbase % t.pg != 0 || t.vbase % t.pg != 0 then 1
  else if !s.inKvContract (s.treePool n) (s.treeArea n) then 2
  else
    let (p, a) := (s.treePool n, s.treeArea n)
    if s.overlapsTree n p || s.overlapsTree n a || rangesMeet p.1 p.2 a.1 a.2 then 3 else 0
/-- Word 6 with BUSY, EN, ERR and ASID. -/
def setTreeCtl (s : State) (n : Nat) (busy en : Bool) (err : Nat) (asid : Nat) : State :=
  s.mmioSet (0x30000 + 64 * n + 0x30) (BitVec.ofNat 64 (asid * 2 ^ 32 + err * 16 + busy.toNat * 2 + en.toNat))
/-- A write of word 6 with EN = 1 to a disabled tree (R376). -/
def enableTree (s : State) (n : Nat) (v : W64) : State :=
  let w := s.treeWord n 6
  if w.getLsbD 0 || w.getLsbD 1 || 256 ≤ n then s
  else
    let asid := v.toNat / 2 ^ 32 % 2 ^ 16
    let s := s.setTreeCtl n false false (w.toNat / 16 % 16) asid
    let e := s.treeErr n
    if e != 0 then s.setTreeCtl n false false e asid
    else s.setTreeCtl n true false 0 asid
/-- The area of an empty tree is written, once no holder keeps a line of it (R402), and the tree is enabled. -/
def enableDone (s : State) (n : Nat) : State :=
  let w := s.treeWord n 6
  if w.getLsbD 0 || !w.getLsbD 1 then s
  else
    let t := s.treeOf n
    let (lo, len) := s.treeArea n
    match s.halvesHeld (idOrris (s.homeOf lo)) [(lo, len)] with
    | h :: hs => (h :: hs).foldl (fun (s : State) x => s.recallHalf x) s
    | [] =>
    let zero : State × Nat := (List.range len).foldl (fun st k => areaPut st (lo + k) 1 0) (s, 0)
    let st := areaPut (areaPut zero lo 4 noPage) (lo + 4) 4 0
    let st := (List.range t.npg).foldl (fun st i =>
      let st := areaPut st (t.record i + 0x08) 4 noPage
      let st := areaPut st (t.record i + 0x0C) 4 noPage
      areaPut st (t.record i + 0x10) 4 (if i + 1 < t.npg then i + 1 else noPage)) st
    let (plo, plen) := s.treePool n
    let s := { (st.1.forgetChanges (lo, len)) with kvPast := st.1.kvPast.filter (·.tree != n), kvHist := st.1.kvHist.filter fun p => !(plo ≤ p.1 && p.1 < plo + plen), trees := st.1.trees.erase n }
    (s.mmioSet (0x30000 + 64 * n + 0x38) (BitVec.ofNat 64 t.npg)).setTreeCtl n false true 0 t.asid
/-- A write of EN = 0 to an enabled tree. -/
def disableTree (s : State) (n : Nat) : State :=
  let w := s.treeWord n 6
  if !w.getLsbD 0 || w.getLsbD 1 then s
  else
    let (id, s) := s.takeId
    { (s.setTreeCtl n true true (w.toNat / 16 % 16) (w.toNat / 2 ^ 32 % 2 ^ 16)) with trees := s.trees.set n id }
/-- Whether a command accepted before a tree's disabling is still to be executed. -/
def kvPendingOn (s : State) (n : Nat) : Bool :=
  match s.trees.get? n with
  | none => false
  | some lim => s.tasks.any fun p => p.2.kvq.any fun c => c.seq < lim
/-- The commands accepted before are complete: the tree is disabled. -/
def disableDone (s : State) (n : Nat) : State :=
  let w := s.treeWord n 6
  if !(w.getLsbD 0 && w.getLsbD 1) || s.kvPendingOn n then s
  else
    { ((s.forgetChanges (s.treeArea n)).setTreeCtl n false false (w.toNat / 16 % 16) (w.toNat / 2 ^ 32 % 2 ^ 16)) with
      trees := s.trees.erase n }
end State

/-- KV_COMMAND_EXECUTE (R201). -/
def execKvCommandExecute (task : Nat) (s : State) : Host.Outcome State Fault Refusal := .next (s.kvExecute task)
/-- KV_PAGE_REFETCH (R388). -/
def execKvPageRefetch (tree page : Nat) (s : State) : Host.Outcome State Fault Refusal := .next (s.refetchPage tree page)
/-- LOAD_REPLY (R142). -/
def execLoadReply (id : Nat) (s : State) : Host.Outcome State Fault Refusal := .next (s.loadReply id)
/-- TREE_ENABLE (R376). -/
def execTreeEnable (tree : Nat) (v : W64) (s : State) : Host.Outcome State Fault Refusal :=
  .next (if v.getLsbD 0 then s.enableTree tree v else s)
/-- TREE_ENABLE_COMPLETE (R376). -/
def execTreeEnableComplete (tree : Nat) (s : State) : Host.Outcome State Fault Refusal := .next (s.enableDone tree)
/-- TREE_DISABLE (R376). -/
def execTreeDisable (tree : Nat) (v : W64) (s : State) : Host.Outcome State Fault Refusal :=
  .next (if v.getLsbD 0 then s else s.disableTree tree)
/-- TREE_DISABLE_COMPLETE (R376). -/
def execTreeDisableComplete (tree : Nat) (s : State) : Host.Outcome State Fault Refusal := .next (s.disableDone tree)

end Sys2Proof.Machine
end

