-- ==== Sys2Proof/Machine/Issue.lean ====
section
/-! DEFINITION. What a step does around an instruction: fetch, decode and the faults of both, and the instruction words
that a loader places (withFetchWord). -/
namespace Sys2Proof.Machine

/-- The stream that an agent executes (R30). -/
def streamOf : Agent → Stream
  | .frag _ _ => .vector
  | .ks _ => .keystone

/-- What an agent is about to execute: the instruction it fetched and decoded, or the state after the fault taken. -/
inductive Fetched
  | instr (i : Instr) (s : State)
  | faulted (s : State)

/-- The record of a fetch fault (R306, R345, R347); while its translation waits at a home, the agent waits, or stays in the
wait whose instruction it fetches. -/
def State.fetchFault (s : State) (a : Agent) (f : XFault) (va : W64) : State :=
  match f.held with
  | some w => (match s.stOf a with
    | .waiting _ => s
    | _ => s.wait a (.fetch w))
  | none => s.raise a [s.mkRec a f.cause (BitVec.ofNat 32 f.code) va (s.maskOfAgent a) 0]

/-- Fetch and decode for an agent (R32, R33, R306); a fault of either is taken. -/
noncomputable def State.fetchDecode (s : State) (a : Agent) : Fetched :=
  match s.fetch a with
  | (s, .error (f, va)) => .faulted (s.fetchFault a f va)
  | (s, .ok bs) =>
    match decode (streamOf a) (s.supOf a) (wordOfBytes bs) with
    | .instr i => .instr i { s with cur := some a }
    | .bad cause n => .faulted (s.raisePlain a cause n)

/-- Whether an agent may issue now: its group is ACTIVE, or its context runs, its task is not being pre-empted, and it is
neither kept out by a handler nor at a fuse or join (R232, R273, R274, R356). -/
def State.mayIssue (s : State) (a : Agent) : Bool :=
  match a with
  | .frag g e =>
    match s.grps.get? g, s.frag? g e with
    | some G, some F =>
      G.st == .active && !s.proceeding G.task && (!G.trapst.getLsbD 9 || F.handler) && (match F.st with
        | .ready | .held | .waiting _ | .entryWait => true
        | _ => false)
    | _, _ => false
  | .ks k =>
    let c := s.ksCtx k
    c.running && !c.stopped && !c.exited && !((c.task.map s.proceeding).getD true)

/-! A loaded instruction: tables that map one page, the frame made executable and its sectors published, and one agent
about to issue (log 9). -/
/-- Physical places of the loader: the tables and the code page. -/
def loadTables : Nat := 0x40000000
def loadCode : Nat := 0x50000000

/-- Memory with the address-space table, one table of each level, and the code bytes at virtual address 0 of the
supervisor space. -/
def loadMemory (m : Memory) (bs : List Byte) : Memory :=
  let m := m.writeNat loadTables 8 (loadTables + 0x1000 + 1)
  let m := m.writeNat (loadTables + 0x1000) 8 (loadTables + 0x2000 + 1)
  let m := m.writeNat (loadTables + 0x2000) 8 (loadTables + 0x3000 + 1)
  let m := m.writeNat (loadTables + 0x3000) 8 (loadTables + 0x4000 + 1)
  let m := m.writeNat (loadTables + 0x4000) 8 (loadTables + 0x5000 + 1)
  let m := m.writeNat (loadTables + 0x5000) 8 (loadCode + 0x4B)
  m.writeBytes loadCode bs

/-- A launch at supervisor privilege with one group per task, as a loader outside the machine would have made it. -/
def loadLaunch : Launch :=
  { die := 0, queue := 0, index := 0, entry := 0#64, ksEntry := 0#64, arg := 0#64, asid := 0, ser := false,
    nstl := false, sup := true, dies := 1, prio := 0, pcls := 0, gpt := 1, lvls := 3, levels := [], scr := 0, lease := 0,
    rqh := 32, banksR := 0#32, sema := 0#64, semv := 0#64, cmop := 0, nf := false, killed := none, consumed := 0,
    done := false, vis := 0, binds := [] }

/-- The machine with a word where its next step fetches: an ACTIVE group of core 0, or a running Keystone context. -/
def State.loadWord (s : State) (st : Stream) (bs : List Byte) : State :=
  let l := s.launches.fresh
  let t := s.tasks.fresh
  let g := groupKey t 0
  let T := { freshTask l 0 [0] 0 0 0 with st := .resident, live := [0], ks := if st = .keystone then some 0 else none }
  let G := { freshGroup t 0 0 0 0#64 0#64 true 0 s.clk with st := .active }
  let s := { s with
    mem := loadMemory s.mem bs
    ctl := s.ctl.set 0x030 (BitVec.ofNat 64 loadTables)
    ptes := []
    xhist := []
    launches := s.launches.set l loadLaunch
    tasks := s.tasks.set t T
    nextId := max s.nextId (max l t + 1)
    agenda := [] }
  let s : State := match s.ftAddr loadCode with
    | some e => { s with mem := s.mem.writeBytes e [s.mem.read e ||| 0x20#8] }
    | none => s
  let s := { s with published := s.published.insert (loadCode / 32) }
  match st with
  | .vector =>
    { s with grps := s.grps.set g G, issue := [.frag g 0], cores := s.cores.set 0 { s.core 0 with il := [] } }
  | .keystone =>
    { s with ks := s.ks.set 0 { emptyKs with task := some t, running := true }, issue := [.ks 0],
             clus := s.clus.set 0 { s.clu 0 with il := [] } }

/-- The stream that accepts a table word, the vector stream first. -/
noncomputable def streamOfWord (w : IWord) : Stream :=
  match decode .vector true w with
  | .instr _ => .vector
  | .bad _ _ =>
    match decode .keystone true w with
    | .instr _ => .keystone
    | .bad _ _ => .vector

end Sys2Proof.Machine
end

