-- ==== Sys2Proof/Machine/Ready.lean ====
section
/-! DEFINITION. When a waiting fragment can go on (R274). -/
namespace Sys2Proof.Machine

namespace State
/-- The rings of a die hold records that software has not consumed (R236). -/
def ringsWaiting (s : State) (die : Nat) : Bool :=
  s.ringHead die 0x020 != s.ringTail die 0x020 || s.ringHead die 0x024 != s.ringTail die 0x024

/-- Whether the accesses, matrix commands and chunks that may hold a dropped translation are over (R235). -/
def tlbiOver (s : State) (before : Nat) (mats : List (Nat × Nat)) (chunks : List (Chan × Nat × Nat)) : Bool :=
  (s.reqs.all fun p => before ≤ p.1 || Req.served p.2) &&
    (mats.all fun m => !((s.ksCtx m.1).mq.any fun q => q.started && q.value == m.2)) &&
    chunks.all fun c => !((s.getChan c.1).cmds.any fun d => d.value == c.2.1 && (match d.chunks[c.2.2]? with
      | some (.executing _ _ _) => true
      | _ => false))

/-- Whether the condition of a wait holds, so that the fragment's instruction can issue again (R274). A sleep and a
remote answer end by their own steps. -/
def waitOver (s : State) (a : Agent) (w : Wait) : Bool :=
  match w with
  | .barrier b p => match a with
    | .frag g _ => !s.phaseOpen g b p
    | .ks _ => true
  | .counts imm => s.countsMet a imm
  | .timeline tc n => n ≤ (s.counterOf a tc).v
  | .address id => ((s.watches.find? (·.id == id)).map (·.woken)).getD true
  | .sleeping _ => false
  | .lease line => match a with
    | .frag g _ => !s.dirConflict (s.grpId g) true (line * 128) 128
    | .ks _ => true
  | .ownLease line => match a with
    | .frag g _ => !s.leases g line
    | .ks _ => true
  | .fifo k n push =>
    match a, fifoBank s a k with
    | .frag g e, some b =>
      fifoTurn b g e push.toNat (if push then b.fifo.length + n ≤ fifoCap else n ≤ b.fifo.length)
    | _, _ => true
  | .banks ids _ => !(s.core (s.coreOf a)).switches.any fun w => ids.contains w.ticket
  | .shareLeave => ((s.taskIdOf a).map fun t => !s.windowUnderWay t).getD true
  | .idle _ _ _ cause => cause.isSome
  | .release => s.quiet a
  | .request id => (s.reqs.get? id).isNone
  | .channel ch => !s.cancelling (s.chanOf a ch)
  | .sums ch before => !s.sumsOpen a ch before
  | .port cls num n => s.mayInject cls num n
  | .switching t => ((s.tasks.get? t).map fun T => (s.ownSwitches T.core t).isEmpty).getD true
  | .home pa n w => !s.dirConflict (s.agentId a) w pa n
  | .tlbi n ms cs => s.tlbiOver n ms cs
  | .fetch w => s.waitOver a w

/-- Whether an agent can issue: READY, or held or waiting with its condition met (R274). -/
def readyAgent (s : State) (a : Agent) : Bool :=
  match s.stOf a with
  | .ready => true
  | .held => true
  | .waiting w => s.waitOver a w
  | .entryWait => match a with
    | .frag g _ => ((s.grps.get? g).map fun G => decide (G.frags.length < 16)).getD false
    | .ks _ => true
  | _ => false
end State

end Sys2Proof.Machine
end

