-- ==== Sys2Proof/Machine/Held.lean ====
section
/-! DEFINITION. What a word asks of the issue logic, taken from its fields (log 10): its slot, how long it occupies it,
the registers it reads and writes and the count it raises; and the interlocks and limits that hold a fragment (R141,
R274, R434), and whether a group is blocked (R271). -/
namespace Sys2Proof.Machine

/-! Slots (R275, R277, R87, R108, R130). -/
def wordCls (w : IWord) : Nat := fieldNat w 92 4
def wordMinor (w : IWord) : Nat := fieldNat w 86 6
def wordFmt (w : IWord) : Option Fmt :=
  match formatOf (wordCls w) (wordMinor w) with
  | some .ni => some (if w.getLsbD 5 then .i else .n)
  | f => f
/-- Slot A takes classes 0x1-0x6 except v.sld (R275). -/
def wordSlotA (w : IWord) : Bool := 1 ≤ wordCls w && wordCls w ≤ 6 && !(wordCls w == 6 && wordMinor w == 6)
def wordPair (w : IWord) : Bool := w.getLsbD 76
/-- An instruction of control or waiting, with which nothing pairs (R277). -/
def wordStops (w : IWord) : Bool := wordCls w == 7 || (wordCls w == 10 && wordMinor w ≤ 3)

/-- Whether a word of the N or I format has a type of 64-bit width. -/
def wordWide (w : IWord) : Bool :=
  let t := match wordFmt w with
    | some .i => Ty.ofCode (fieldNat w 13 4)
    | some .n => Ty.ofCode (fieldNat w 16 5)
    | _ => none
  (t.map Ty.is64).getD false
/-- Clocks for which a word occupies its slot (R87, R108, R130); a conversion from or to f64 has format code 9. -/
def wordOccupies (w : IWord) : Nat :=
  match wordCls w with
  | 3 => if wordWide w then (if wordMinor w = 0x09 || wordMinor w = 0x0A then 16 else 4) else 1
  | 4 => if wordMinor w = 1 && (fieldNat w 0 5 = 9 || fieldNat w 6 5 = 9) then 2 else 1
  | c => if c ≤ 6 && wordWide w then 2 else 1

/-! Registers. -/
/-- Registers for the data of a size. -/
def sizeRegs (code : Nat) : Nat :=
  match Sz.ofCode code with
  | some .d => 2
  | some .q => 4
  | some .o => 8
  | _ => 1
/-- How many registers the fields D, A, B and C of a word name, 0 for a field that it does not use. -/
def fieldCounts (w : IWord) : Nat × Nat × Nat × Nat :=
  let t := if wordWide w then 2 else 1
  let op := fieldNat w 0 5
  let sz := sizeRegs (fieldNat w 12 3)
  let two := if fieldNat w 12 3 = 3 then 2 else 1
  let base := fun (b : Bool) => if b then 2 else 1
  let global := fieldNat w 0 3 = 0
  let dAddr := base (!w.getLsbD 8)
  let sAddr := base (!w.getLsbD 9)
  let opt := fun lo => if fieldNat w lo 14 = 0 then 0 else 1
  match wordCls w, wordMinor w with
  | 0x0, 0x10 | 0x0, 0x16 | 0x0, 0x17 => (1, 1, 0, 0)
  | 0x0, 0x11 => (1, 0, 0, 0)
  | 0x0, 0x12 => (2, 0, 0, 0)
  | 0x0, 0x05 | 0x0, 0x0F | 0x0, 0x19 => (1, 1, 1, 1)
  | 0x0, 0x13 | 0x0, 0x14 | 0x0, 0x15 => (2, 2, 2, 0)
  | 0x0, 0x1C | 0x0, 0x1D => (sz, base global, 0, 0)
  | 0x0, 0x1E => (base (fieldNat w 53 8 < 16 || fieldNat w 53 8 = 0x20), 1, 0, 0)
  | 0x0, _ => (1, 1, 1, 0)
  | 0x1, 0x03 | 0x1, 0x04 => (1, 1, 1, 1)
  | 0x1, 0x07 => (2, 1, 1, 0)
  | 0x1, 0x08 | 0x1, 0x1E => (t, t, t, t)
  | 0x1, 0x09 | 0x1, 0x0A | 0x1, 0x11 | 0x1, 0x18 | 0x1, 0x19 | 0x1, 0x1A | 0x1, 0x1B | 0x1, 0x1C => (t, t, 0, 0)
  | 0x1, 0x17 | 0x1, 0x1F | 0x1, 0x20 | 0x1, 0x21 => (1, 1, 1, 1)
  | 0x1, 0x1D => (t, 0, 0, 0)
  | 0x1, _ => (t, t, t, 0)
  | 0x2, 0x01 | 0x2, 0x02 => (1, t, t, 0)
  | 0x2, 0x03 | 0x2, 0x04 | 0x2, 0x05 => (1, 1, 1, 0)
  | 0x2, 0x08 => (t, t, t, 1)
  | 0x2, _ => (1, 1, 0, 0)
  | 0x3, 0x04 => (t, t, t, t)
  | 0x3, 0x14 => (1, 1, 1, 1)
  | 0x3, 0x12 => (t, t, 1, 0)
  | 0x3, 0x01 | 0x3, 0x02 | 0x3, 0x03 | 0x3, 0x05 | 0x3, 0x06 | 0x3, 0x0A => (t, t, t, 0)
  | 0x3, _ => (t, t, 0, 0)
  | 0x4, 0x01 => (base (fmtWidth (fieldNat w 6 5) = 64), base (fmtWidth op = 64), 0, 0)
  | 0x4, 0x02 => (1, 1, 1, 1)
  | 0x4, 0x05 | 0x4, 0x06 => (1, 1, 1, 0)
  | 0x4, 0x07 => if op = 0 then (0, 2, 1, 0) else if op = 1 then (2, 0, 0, 0) else (1, 0, 0, 0)
  | 0x4, _ => (1, 1, 0, 0)
  | 0x5, 0x01 => (t, t, 1, 1)
  | 0x5, 0x02 => (t, t, if op = 1 then 0 else 1, 0)
  | 0x5, 0x03 => (base (op = 3), t, 0, 0)
  | 0x5, 0x04 => (2, t, 0, 0)
  | 0x5, 0x05 => (t, t, 0, if w.getLsbD 4 then 1 else 0)
  | 0x5, 0x07 | 0x5, 0x08 => (t, t, 1, 0)
  | 0x5, 0x09 => (1, 2, 0, 0)
  | 0x5, _ => (t, t, 0, 0)
  | 0x6, 0x01 | 0x6, 0x08 => (1, t, 1, 0)
  | 0x6, 0x02 => (if op = 1 then 1 else 2, 2, 2, 0)
  | 0x6, 0x05 => (1, 1, fieldNat w 6 6, 0)
  | 0x6, 0x06 => (sz, base global, 1, 0)
  | 0x6, 0x07 => (1, t, t, 1)
  | 0x6, 0x09 => (t, t, if op = 8 || op = 9 then 1 else 0, 0)
  | 0x6, 0x0A => (1, t, if op = 1 then 0 else 1, 0)
  | 0x6, 0x0B => (t, t, 0, 0)
  | 0x6, _ => (t, t, t, 0)
  | 0x7, 0x03 | 0x7, 0x05 => (0, 2, 0, 0)
  | 0x7, 0x04 => (2, 0, 0, 0)
  | 0x7, 0x11 => (1, 2, 1, 0)
  | 0x7, 0x09 | 0x7, 0x0A | 0x7, 0x0B => (0, opt 49, 0, 0)
  | 0x7, _ => (0, 0, 0, 0)
  | 0x8, 0x0A => (0, base global, opt 35, 0)
  | 0x8, 0x0B => (0, t, 1, 0)
  | 0x8, 0x0C => (t, 0, 1, 0)
  | 0x8, _ => (sz, base global, opt 35, 0)
  | 0x9, 0x10 => (op, 0, 0, 0)
  | 0x9, 0x11 | 0x9, 0x12 => (1, 2, 0, 0)
  | 0x9, 0x13 => (1, 2, two, 0)
  | 0x9, m => (two, base (fieldNat w 0 3 ≤ 2), if m = 8 then two else 0, 0)
  | 0xA, 0x04 => (1, 1, 1, 0)
  | 0xA, 0x05 => (2, 0, 0, 0)
  | 0xA, 0x06 => (1, 1, 0, 0)
  | 0xA, 0x08 => (1, 2, 1, 1)
  | 0xA, 0x09 => (1, 2, 0, 0)
  | 0xA, 0x0A | 0xA, 0x0B => (0, 2, 1, 0)
  | 0xA, _ => (0, 0, 0, 0)
  | 0xB, 0x01 => (2, dAddr, sAddr, 1)
  | 0xB, 0x02 | 0xB, 0x03 => (2, 2, 2, 1)
  | 0xB, 0x04 => (2, dAddr, 1, 1)
  | 0xB, 0x05 => (2, dAddr, 2, 1)
  | 0xB, 0x06 => (2, 2, sAddr, 1)
  | 0xB, 0x07 => (1, 2, 0, 0)
  | 0xB, 0x0A => (4, 0, 0, 0)
  | 0xB, 0x0C => if fieldNat w 0 8 = 0 then (1, 0, 0, 0) else (0, 1, 0, 0)
  | 0xB, _ => (2, 0, 0, 0)
  | 0xC, 0x01 => (0, 2, 1, 0)
  | 0xC, 0x02 => (1, 2, 1, 0)
  | 0xC, 0x03 => (4, 2, 0, 0)
  | 0xC, 0x04 => (2, 2, 2, 4)
  | 0xC, 0x05 => (2, 2, 2, 1)
  | 0xC, 0x0C => (2, 1, 1, 1)
  | 0xC, _ => (2, 2, 0, 0)
  | 0xD, 0x01 =>
    let link := (kFormOf w).bkind == 1#2 || (kFormOf w).bkind == 2#2
    (0, 0, if link then 0 else 4, if (kFormOf w).afmt == 26#5 || (kFormOf w).bfmt == 26#5 then 2 else 0)
  | 0xD, 0x02 => (2, 0, 2, 2)
  | 0xD, 0x03 => (0, 0, 0, 0)
  | 0xD, 0x04 => (0, 0, 0, if op = 1 then 2 else 1)
  | 0xD, 0x05 => (2, 0, 2, 1)
  | 0xD, 0x06 =>
    let mem := fieldNat w 10 2 = 0 || fieldNat w 10 2 = 3
    (2, 0, if mem then 4 else 0, if mem then 1 else 0)
  | 0xD, 0x07 => (2, 0, if w.getLsbD 9 then 0 else 4, 0)
  | 0xD, 0x08 => (1, 0, 0, 0)
  | 0xD, 0x09 => (1, 0, 1, 0)
  | 0xD, _ => (0, 1, 1, 0)
  | 0xE, 0x01 => (base (ctlWidth (fieldNat w 17 12) == some 64), 0, 0, 0)
  | 0xE, 0x02 => (0, base (ctlWidth (fieldNat w 17 12) == some 64), 0, 0)
  | 0xE, 0x03 => (0, 0, 0, 0)
  | 0xE, 0x04 => if op = 0 then (0, 2, 1, 0) else if op = 1 then (0, 0, 1, 0) else (0, 0, 0, 0)
  | 0xE, 0x05 | 0xE, 0x06 => (1, 1, 0, 0)
  | 0xE, 0x07 | 0xE, 0x08 => (1, 0, 0, 0)
  | 0xE, 0x09 => (0, 2, 2, 0)
  | 0xE, 0x0A => (1, 1, 1, 0)
  | 0xE, 0x0B => (4, 2, 0, 0)
  | 0xE, 0x0C => (1, 2, if op = 1 then 2 else 0, 0)
  | 0xE, 0x0D => (1, 2, 1, 1)
  | 0xE, 0x0E => (1, 2, 1, 0)
  | _, _ => (0, 0, 0, 0)

/-- Registers and predicates by class (0 vector, 1 scalar, 2 predicate) that a field names, n from its index on. -/
def fieldRegs (c : Cls) (idx n : Nat) : List (Nat × Nat) :=
  match c with
  | .vec => (List.range n).map fun k => (0, idx + k)
  | .scl => (List.range n).map fun k => (1, idx + k)
  | .spec => if 0 < n && idx < 15 then [(2, idx)] else []
  | .eng => []
def srcRegs (w : IWord) (lo n : Nat) : List (Nat × Nat) :=
  let x := srcOf (fieldAt w lo 14)
  fieldRegs x.cls x.idx.toNat n
/-- The registers of D. -/
def dstFieldRegs (w : IWord) : List (Nat × Nat) :=
  let d := dstOf (fieldAt w 63 10)
  fieldRegs d.cls d.idx.toNat (fieldCounts w).1
/-- D supplies data: stores, and the operand of atomics and reductions (R156, R159). -/
def dstIsRead (w : IWord) : Bool :=
  match wordCls w, wordMinor w with
  | 0x0, m => m == 0x1D
  | 0x8, m => m == 2 || m == 4 || m == 6 || m == 8
  | 0x9, m => m < 0x10
  | _, _ => false
/-- D is not written: stores and reductions. -/
def dstIsKept (w : IWord) : Bool := dstIsRead w && !(wordCls w == 9 && wordMinor w ≤ 0x0C)
/-- What a word reads: its guard and its sources. -/
def wordReads (w : IWord) : List (Nat × Nat) :=
  let (_, a, b, c) := fieldCounts w
  let imm := wordFmt w == some .i
  fieldRegs .spec (fieldNat w 81 4) 1 ++ srcRegs w 49 a ++ (if imm then [] else srcRegs w 35 b ++ srcRegs w 21 c) ++
    (if dstIsRead w then dstFieldRegs w else [])
/-- What a word writes: D, of s.lih the high register alone, and the carry of v.addx and v.subx (R68, R78). -/
def wordWrites (w : IWord) : List (Nat × Nat) :=
  let d := dstFieldRegs w
  match wordCls w, wordMinor w with
  | 0x0, 0x12 => d.drop 1
  | 0x1, 0x03 | 0x1, 0x04 => d ++ srcRegs w 21 1
  | _, _ => if dstIsKept w then [] else d

/-! Counts (R141). -/
/-- The counts LD, ST, EC and TR that a word raises (R141). -/
def wordCounts (w : IWord) : Bool × Bool × Bool × Bool :=
  match wordCls w, wordMinor w with
  | 0x0, m => (m == 0x1C, m == 0x1D, false, false)
  | 0x6, m => (m == 6, false, false, false)
  | 0x7, m => (m == 0x11, m == 0x11, false, false)
  | 0x8, m => (m == 1 || m == 3 || m == 5 || m == 7 || m == 9, m == 2 || m == 4 || m == 6 || m == 8, false, false)
  | 0x9, m => (m ≤ 0x0C, 0x0D ≤ m && m ≤ 0x0F, false, false)
  | 0xB, m => (false, false, m ≤ 6, false)
  | 0xC, m => (m == 0x0C, false, 4 ≤ m && m != 0x0C && m ≤ 0x0B, false)
  | 0xD, m => (false, false, m ≤ 7, 9 ≤ m)
  | _, _ => (false, false, false, false)

namespace State
/-- The word that an agent would fetch at a PC; none when the fetch would fault. -/
def peek (s : State) (a : Agent) (pc : W64) : Option IWord :=
  let s' := match a with
    | .frag g e => s.modFrag g e fun F => { F with pc := pc }
    | .ks k => s.modKs k fun c => { c with pc := pc }
  match s'.fetch a with
  | (_, .ok bs) => some (wordOfBytes bs)
  | (_, .error _) => none
/-- The guard of a word for an agent (R14). -/
def wordGuard (s : State) (a : Agent) (w : IWord) : Bool := s.guardOnce a (hdrOf w)
/-- The next instruction would raise a count above its maximum (R141). -/
def countFull (s : State) (a : Agent) (w : IWord) : Bool :=
  let (l, st, ec, tr) := wordCounts w
  s.wordGuard a w &&
    (l && 63 ≤ s.ldOf a || st && 63 ≤ s.stcOf a || ec && 31 ≤ s.ecOf a || tr && 15 ≤ s.trOf a)
/-- The results of instructions of a group in which fragments wait: fixed-latency results not written yet (R434). -/
def waitedRegs (s : State) (a : Agent) : List (Nat × Nat) :=
  match a with
  | .ks _ => []
  | .frag g e =>
    match s.grps.get? g with
    | none => []
    | some G => G.frags.flatMap fun p =>
        match p.2.st with
        | .waiting _ =>
          if p.1 = e then []
          else match s.peek (.frag g p.1) p.2.pc with
            | some w => if 0x9 ≤ wordCls w && wordCounts w == (false, false, false, false) then wordWrites w else []
            | none => []
        | _ => []
/-- Whether a fixed-latency result that a word reads or overwrites is not written yet (R141, R434). -/
def interlocked (s : State) (a : Agent) (w : IWord) : Bool :=
  let bs := match a with
    | .frag g _ => (match s.grps.get? g with
      | some G => G.busy
      | none => [])
    | .ks k => (s.ksCtx k).busy
  let rs := wordReads w ++ wordWrites w
  (bs.any fun b => s.clk < b.clk && rs.contains (b.cls, b.idx)) || (s.waitedRegs a).any rs.contains
/-- The clock until which a stall hint keeps an agent out of selection. -/
def holdOf (s : State) : Agent → Nat
  | .frag g e => ((s.frag? g e).map (·.holdUntil)).getD 0
  | .ks k => (s.ksCtx k).holdUntil
/-- HELD (R274): within a stall hint, an interlock, or at the maximum of a count that the next instruction raises. -/
def held (s : State) (a : Agent) : Bool :=
  s.clk < s.holdOf a || (match s.peek a (s.pcOf a) with
    | some w => s.interlocked a w || s.countFull a w
    | none => false)
/-- READY (R274): not HELD, or waiting with the condition met. -/
def isReady (s : State) (a : Agent) : Bool :=
  match s.stOf a with
  | .ready | .held => !s.held a
  | _ => s.readyAgent a

/-- The instructions in which a blocked group's fragments wait (R271): the barriers, waitcnt, sleep, the FIFOs, lease.acq,
wait.addr and tc.wait. -/
def wordBlocks (w : IWord) : Bool :=
  match wordCls w, wordMinor w with
  | 0x7, m => m == 0x09 || m == 0x0B || m == 0x0F || m == 0x10
  | 0x8, m => m == 0x0B || m == 0x0C
  | 0x9, m => m == 0x11 || m == 0x13
  | 0xB, m => m == 0x07
  | _, _ => false
/-- Whether a fragment waits in one of the places where a blocked group's fragments do (R271). -/
def blockedIn (s : State) (a : Agent) : Bool :=
  match s.stOf a with
  | .waiting w => match w with
    | .fetch _ => false
    | .barrier _ _ | .counts _ | .timeline _ _ | .address _ | .sleeping _ | .lease _ | .fifo _ _ _ => true
    | _ => ((s.peek a (s.pcOf a)).map wordBlocks).getD false
  | .fuseWait | .joinWait | .entryWait => true
  | _ => false
/-- A group is blocked (R271). -/
def groupBlocked (s : State) (g : Nat) : Bool :=
  match s.grps.get? g with
  | none => true
  | some G => G.frags.all fun p => s.blockedIn (.frag g p.1) && !s.readyAgent (.frag g p.1)
end State

end Sys2Proof.Machine
end

