-- ==== Sys2Proof/Machine/Park.lean ====
section
/-! DEFINITION. Context frames (R352, R353), parking and its return (R266), the footprint gate (R267-R272) and the measured
lease (R269). -/
namespace Sys2Proof.Machine

/-! Frames. -/
/-- CRC-32C of bytes (R190, R353). -/
def crc32c (bs : List Byte) : Nat := (checksumResult 1 (checksum 1 (checksumStart 1) bs)).toNat
def zeros (n : Nat) : List Byte := List.replicate n 0#8
/-- A frame with its CRC in place: the first eight bytes, then everything after the field. -/
def withCrc (head rest : List Byte) : List Byte :=
  head ++ Memory.leBytes 4 (crc32c (head ++ zeros 4 ++ rest)) ++ rest
/-- A bit for every member of a set, in 32 bytes. -/
def bitmap (xs : List Nat) : List Byte := Memory.leBytes 32 (xs.foldl (fun n k => n + 2 ^ k) 0)

/-- The code of a fragment's state in a frame (R274, R353): a waiting one is saved READY. -/
def FragState.code : FragState → Nat
  | .held => 1
  | .fuseWait => 3
  | .joinWait => 4
  | .entryWait => 5
  | .trappedOut _ => 6
  | _ => 0
/-- A split-table entry in a frame. -/
def fragBytes : Option Frag → List Byte
  | none => zeros 32
  | some F => Memory.leBytes 8 F.mask.toNat ++ Memory.leBytes 8 F.pc.toNat ++
      Memory.leBytes 8 (F.record.getD 16 + F.st.code * 2 ^ 8 + 2 ^ 16) ++ zeros 8
/-- A fuse record in a frame. -/
def fuseBytes : Option FuseRec → List Byte
  | none => zeros 32
  | some R => Memory.leBytes 8 R.addr.toNat ++ Memory.leBytes 8 R.mask.toNat ++
      Memory.leBytes 8 (R.outer.getD 16 + 2 ^ 16) ++ zeros 8
/-- The bytes of a group frame (R353). -/
def groupFrame (G : Group) (reason : Nat) (open' : Nat) : List Byte :=
  let w := 1 + reason * 2 ^ 8 + G.reg.length % 256 * 2 ^ 16 + G.frags.length * 2 ^ 24 +
    (G.frags.any fun p => p.2.sup).toNat * 2 ^ 32
  let phases := (List.range 16).foldl (fun n b => n + (G.barArr.getD b 0) % 2 * 2 ^ b) 0
  withCrc (Memory.leBytes 8 w)
    (Memory.leBytes 4 G.declared ++ Memory.leBytes 8 G.trappc.toNat ++ Memory.leBytes 4 G.trapst.toNat ++
      Memory.leBytes 4 G.fpctl.toNat ++ Memory.leBytes 4 G.leasectl.toNat ++ Memory.leBytes 4 G.ctr.toNat ++
      Memory.leBytes 8 G.seed.toNat ++ Memory.leBytes 4 (open' + phases * 2 ^ 16) ++ zeros 12 ++
      bitmap (G.reg.map (·.1)) ++ bitmap G.lastRead ++
      ((List.range 16).flatMap fun i => fragBytes (G.frags.get? i)) ++
      ((List.range 16).flatMap fun j => fuseBytes (G.fuses.get? j)) ++
      ((List.range 15).flatMap fun p => Memory.leBytes 8 (G.preds.getD p 0#64).toNat) ++ zeros 8 ++
      ((List.range 128).flatMap fun i => Memory.leBytes 4 (G.sreg.getD i 0#32).toNat) ++ zeros 256 ++
      (G.reg.flatMap fun p => p.2.flatMap fun x => Memory.leBytes 4 x.toNat))

namespace State
/-- The pool of a die (R352): base and length. -/
def framePool (s : State) (die : Nat) : Nat × Nat :=
  let w := (s.mmioReg (0x20008 + 0x100 * die)).toNat
  (w / 2 ^ 21 % 2 ^ 31 * 2 ^ 21, w % 2 ^ 16 * 2 ^ 21)
/-- Bytes rounded up to the allocation unit. -/
def frameUnits (n : Nat) : Nat := (n + 4095) / 4096 * 4096
/-- The first place in a die's pool where n bytes fit. -/
def frameRoom (s : State) (die n : Nat) : Option Nat :=
  let (base, len) := s.framePool die
  let used := s.frames.filter (·.die == die)
  let starts := base :: used.map fun f => f.base + frameUnits f.bytes
  let fits := starts.filter fun a => base ≤ a && a + frameUnits n ≤ base + len &&
    used.all fun f => !rangesMeet a (frameUnits n) f.base (frameUnits f.bytes)
  match fits with
  | [] => none
  | a :: r => some (r.foldl min a)
/-- Write a frame where it fits. -/
def writeFrame (s : State) (die kind owner : Nat) (bs : List Byte) : Option State :=
  (s.frameRoom die bs.length).map fun a =>
    let s := (s.memWrite a bs (s.ftGrain a) 0 .dflt).1
    { s with frames := s.frames ++ [{ die := die, base := a, bytes := bs.length, kind := kind, owner := owner }] }
def frameOf (s : State) (kind owner : Nat) : Option FrameRec := s.frames.find? fun f => f.kind == kind && f.owner == owner
/-- The bytes that a frame holds now. -/
def frameBytes (s : State) (f : FrameRec) : List Byte := s.mem.readBytes f.base f.bytes
/-- Whether a frame's CRC still holds (R354). -/
def frameGood (s : State) (kind owner : Nat) : Bool :=
  match s.frameOf kind owner with
  | none => true
  | some f =>
    let bs := s.frameBytes f
    bs == withCrc (bs.take 8) (bs.drop 12)
def freeFrame (s : State) (kind owner : Nat) : State :=
  { s with frames := s.frames.filter fun f => !(f.kind == kind && f.owner == owner) }

/-! Parking (R266). -/
/-- Steps 3 of R266: leases break, watches are dropped with cause 4, and FIFO waits leave their queues. -/
def quietGroup (s : State) (g : Nat) : State :=
  let s := (s.breakLeases g).dropFifoWaits g
  { s with watches := s.watches.map fun w => match w.who with
      | .frag g' _ => if g' = g then { w with cause := w.cause.or (some 4), woken := true } else w
      | .queue _ _ => w }
/-- A wait as it is saved (R353): a barrier's arrival and a wait.addr keep their place, of others nothing stays. -/
def savedWait (w : Wait) : Option Wait :=
  match w with
  | .barrier _ _ | .address _ => some w
  | _ => none
/-- A fragment as it is saved (R353). -/
def savedFrag (held : Bool) (F : Frag) : Frag :=
  match F.st with
  | .waiting w => { F with st := ((savedWait w).map FragState.waiting).getD .ready }
  | .trappedOut w => { F with st := .trappedOut (w.bind savedWait) }
  | .ready | .held => { F with st := if held then .held else .ready }
  | _ => F
/-- The fragments of a group as they are saved; one that is HELD at that clock is saved HELD (R274). -/
def savedFrags (s : State) (g : Nat) (G : Group) : Assoc Frag := G.frags.mapVal fun e F => savedFrag (s.held (.frag g e)) F
/-- Sets in ascending split-table entry (R346). -/
def sortSets (xs : List (Nat × List FaultRec)) : List (Nat × List FaultRec) :=
  (List.range 16).flatMap fun e => xs.filter (·.1 == e)
/-- PARK_FRAME_WRITE: once LD and TR are 0 and the pool has room, the frame is written and the group's registers and slot
are free; a fault's sets go to the fault queue, and the group stays in PARKING until they are written. -/
def parkWrite (s : State) (g : Nat) : State :=
  match s.grps.get? g with
  | none => s
  | some G =>
    match G.park with
    | none => s
    | some p =>
      if G.st != .parking || p.framed || G.ld != 0 || G.tr != 0 then s
      else
        let core := s.coreOfGrp g
        let die := dieOfCore core
        let open' := (List.range 16).foldl (fun n b => n + (s.barrierOpen g b).toNat * 2 ^ b) 0
        let fs := s.savedFrags g G
        let G1 := { G with frags := fs }
        match (s.quietGroup g).writeFrame die 1 g (groupFrame G1 p.reason open') with
        | none => s
        | some s =>
          let s := { s with sets := s.sets ++ (sortSets p.sets).map fun (x : Nat × List FaultRec) => setOf die (.group g x.1) x.2 }
          let s := s.modGrp g fun G => { G with
            frags := fs, busy := [],
            st := if p.sets.isEmpty then .parked else .parking,
            park := some { p with framed := true, sets := [] } }
          s.modCore core fun c => { c with parkOrder := c.parkOrder ++ [g] }

/-! The return (R266). -/
/-- Groups of a partition that hold a slot. -/
def slotsUsed (s : State) (core part : Nat) : Nat :=
  (s.grps.filter fun p =>
    ((s.tasks.get? p.2.task).map fun T => T.st == .resident && T.core == core) == some true &&
      p.2.partition == part && p.2.st != .parked && p.2.st != .exited).length
/-- Registers that a returning group's frame holds, with v255 for a handler that waits for it. -/
def frameRegs (G : Group) : Nat := G.reg.length + (G.pending.isSome && (G.reg.get? 255).isNone).toNat
/-- Whether a parked group has a turn to return: its sets are acknowledged and its task is resident (R266). A group that
waits for the supervisor or for its task has none (DEDUCED, log 20). -/
def hasTurn (s : State) (g : Nat) : Bool :=
  match s.grps.get? g with
  | none => false
  | some G => G.st == .parked && (G.park.map (·.unacked)).getD 0 == 0 &&
      ((s.tasks.get? G.task).map (·.st)) == some .resident && !s.proceeding G.task
/-- Whether every write that a group issued before it parked is acknowledged (R353). -/
def writesAcked (s : State) (g : Nat) : Bool :=
  match s.grps.get? g with
  | none => false
  | some G => G.stc == 0 && G.offAcks == 0
/-- Partitions of a core to which a group can return. -/
def returnParts (s : State) (core g : Nat) : List Nat :=
  match s.grps.get? g with
  | none => []
  | some G => (List.range 4).filter fun p => s.slotsUsed core p < 32 && frameRegs G - s.rqhOf g ≤ s.poolFree core p
/-- The group of a core whose turn it is to return: the one that parked first (R266). -/
def nextReturn (s : State) (core : Nat) : Option Nat := (s.core core).parkOrder.find? s.hasTurn
/-- The group that may return: none before the writes of the one whose turn it is are acknowledged. -/
def firstReturn (s : State) (core : Nat) : Option Nat := (s.nextReturn core).filter s.writesAcked
/-- A group is restored from its frame into a partition; a frame that fails its CRC ends the task (R354). Its inactive time
goes on (R271), the next review sees it as come back (R270), and a record that v255 could not take is delivered (R350). -/
def restoreGroup (s : State) (g part : Nat) : State :=
  match s.grps.get? g with
  | none => s
  | some G =>
    if !s.frameGood 1 g then s.killTask G.task 0x0A
    else
      let s := s.freeFrame 1 g
      let waited := (G.park.map (·.waited)).getD 0
      let s := s.modGrp g fun G => { G with st := .inactive, inactiveSince := s.clk - waited, partition := part, park := none }
      let s := s.modCore (s.coreOfGrp g) fun c =>
        { c with parkOrder := c.parkOrder.filter (· != g), reviewed := c.reviewed.filter (· != g) }
      match G.pending with
      | some r => s.modGrp g fun G => G.trapRecord r
      | none => s
/-- PARKED_GROUP_RETURN: in the order of parking, to any partition with room. -/
def parkReturn (s : State) (core : Nat) : State :=
  match s.firstReturn core with
  | none => s
  | some g =>
    match s.returnParts core g with
    | [] => s
    | p :: ps =>
      let (part, s) := pickFrom s (p :: ps) p
      s.restoreGroup g part

/-! The footprint gate (R267-R272). -/
/-- L of a group (R269). -/
def leaseBytes (G : Group) : Nat := if G.declared != 0 then G.declared else G.measured
def countedLease (s : State) (g : Nat) (G : Group) : Nat := if s.groupBlocked g then 0 else leaseBytes G
/-- Insert by a measure, smaller first, equals in order. -/
def insertBy {α : Type} (f : α → Nat) (x : α) : List α → List α
  | [] => [x]
  | y :: r => if f x < f y then x :: y :: r else y :: insertBy f x r
def sortBy {α : Type} (f : α → Nat) (xs : List α) : List α := xs.foldl (fun acc x => insertBy f x acc) []
/-- PRIO of a group's launch. -/
def prioOf (s : State) (g : Nat) : Nat := (((s.grpTask g).bind s.launchOf).map (·.prio)).getD 0
/-- Resident unparked groups of a core by PRIO descending, then admission ascending. -/
def reviewOrder (s : State) (core : Nat) : List (Nat × Group) :=
  let gs := s.grps.filter fun p => (p.2.st == .inactive || p.2.st == .active) &&
    ((s.tasks.get? p.2.task).map fun T => T.st == .resident && T.core == core) == some true
  sortBy (fun p => (7 - s.prioOf p.1) * 2 ^ 64 + p.2.order) gs
/-- The groups of an order that the limit admits. -/
def admitGroups (s : State) (limit : Nat) (forced : List Nat) (first : Option Nat) : List (Nat × Group) → Nat → List Nat
  | [], _ => []
  | (g, G) :: rest, sum =>
    if forced.contains g then admitGroups s limit forced first rest sum
    else if some g = first || sum + s.countedLease g G ≤ limit then
      g :: admitGroups s limit forced first rest (sum + s.countedLease g G)
    else []
/-- The active set that a review computes (R271). -/
def activeSet (s : State) (core : Nat) : List Nat :=
  let cap := ((List.range 32).filter fun k => ((s.core core).bank k).role == .cache).length * bankBytes
  let limit := cap * (s.core core).f / 16
  let order := s.reviewOrder core
  if cap = 0 then order.map (·.1)
  else
    let waiting := order.filter fun p => p.2.st == .inactive && p.2.inactiveSince + 65536 ≤ s.clk
    let forced := ((sortBy (fun (p : Nat × Group) => p.2.inactiveSince) waiting).take 4).map (·.1)
    let first := order.find? fun p => !forced.contains p.1
    match forced, first with
    | [], some (g, G) =>
      if cap < s.countedLease g G then [g] else s.admitGroups limit [] (some g) order 0
    | _, _ =>
      let sum := (order.filter fun p => forced.contains p.1).foldl (fun n p => n + s.countedLease p.1 p.2) 0
      forced ++ s.admitGroups limit forced (first.map (·.1)) order sum
/-- A periodic review adjusts F from the victim hits (R272). -/
def adjustF (s : State) (c : Core) : Core :=
  let f := if s.fmax < s.fmin then s.fdef
    else if 16 * s.hith ≤ c.hits then max (c.f - 1) s.fmin
    else if c.hits < 16 * s.loth then min (c.f + 1) s.fmax
    else c.f
  { c with f := if s.gateAuto then f else c.f, hits := if s.gateAuto then 0 else c.hits }
/-- An active group of a core has a ready fragment. -/
def someReady (s : State) (core : Nat) : Bool :=
  (s.reviewOrder core).any fun p => p.2.st == .active && p.2.frags.any fun q => s.isReady (.frag p.1 q.1)
/-- FOOTPRINT_REVIEW of a core, when one of R270 is due: the 8,192 clocks of a periodic one, a task admitted or a group
gone, parked or returned since the last, or no ready fragment and no such review for 256 clocks. -/
def review (s : State) (core : Nat) : State :=
  let c := s.core core
  let here := (s.reviewOrder core).map (·.1)
  let periodic := c.review + 8192 ≤ s.clk
  let idle := !s.someReady core && c.idleReview + 256 ≤ s.clk
  if !periodic && here == c.reviewed && !idle then s
  else
  let s := s.modCore core fun c =>
    let c := if periodic then { s.adjustF c with review := s.clk } else c
    { c with reviewed := here, idleReview := if idle then s.clk else c.idleReview }
  let act := s.activeSet core
  { s with grps := s.grps.mapVal fun g G =>
      if !here.contains g then G
      else if act.contains g then { G with st := .active, inactiveSince := s.clk }
      else if G.st == .active then { G with st := .inactive, inactiveSince := s.clk } else G }
end State

/-- PARK_FRAME_WRITE (R266). -/
def execParkFrameWrite (grp : Nat) (s : State) : Host.Outcome State Fault Refusal := .next (s.parkWrite grp)
/-- PARKED_GROUP_RETURN (R266). -/
def execParkedGroupReturn (core : Nat) (s : State) : Host.Outcome State Fault Refusal := .next (s.parkReturn core)
/-- FOOTPRINT_REVIEW (R270, R271). -/
def execFootprintReview (core : Nat) (s : State) : Host.Outcome State Fault Refusal := .next (s.review core)
/-- MEASURED_LEASE_WINDOW (R269): the filter's tags give the lease, and the filter empties. -/
def execMeasuredLeaseWindow (grp : Nat) (s : State) : Host.Outcome State Fault Refusal :=
  .next (s.modGrp grp fun G =>
    if 2048 ≤ G.memIssued then
      { G with measured := min 524288 (2048 * G.filter.length), filter := [], memIssued := 0 }
    else G)

end Sys2Proof.Machine
end

