-- ==== Sys2Proof/Machine/Queue.lean ====
section
/-! DEFINITION. Queues and launches: launch (R145), the queue processors and their entries (R252-R256), distribution,
admission and stealing (R258-R261), and the completion of launches (R263, R264). -/
namespace Sys2Proof.Machine

/-! Queue headers (R252). -/
/-- A queue's header as its processor reads it: where it lies, its fields, HEAD and TAIL. -/
structure QHead where
  at' : Nat
  ring : Nat
  word : Nat
  head : Nat
  tail : Nat
  deriving DecidableEq, Repr

def QHead.logn (q : QHead) : Nat := q.word % 32
def QHead.en (q : QHead) : Bool := q.word / 2 ^ 8 % 2 == 1
def QHead.supq (q : QHead) : Bool := q.word / 2 ^ 9 % 2 == 1
def QHead.asid (q : QHead) : Nat := q.word / 2 ^ 16 % 2 ^ 16
/-- Entries not consumed. -/
def QHead.count (q : QHead) : Nat := (q.tail + 2 ^ 64 - q.head) % 2 ^ 64
/-- A header that its processor does not serve. -/
def QHead.bad (q : QHead) : Bool :=
  q.logn = 0 || 16 < q.logn || q.ring % 128 != 0 || q.word / 2 ^ 5 % 2 ^ 3 != 0 || q.word / 2 ^ 10 % 2 ^ 6 != 0 ||
    q.word / 2 ^ 32 != 0 || 2 ^ q.logn < q.count
/-- Where entry i lies. -/
def QHead.slot (q : QHead) (i : Nat) : Nat := q.ring + 128 * (i % 2 ^ q.logn)

namespace State
/-- HDR of a queue's table entry (R426); 0 names no queue. -/
def qtbl (s : State) (die q : Nat) : Nat := (s.mmioReg (0x50000 + 0x200 * die + 8 * q)).toNat / 2 ^ 6 % 2 ^ 46 * 2 ^ 6
def queueHead (s : State) (die q : Nat) : Option QHead :=
  let h := s.qtbl die q
  if h = 0 then none
  else some { at' := h, ring := s.mem.readNat h 8, word := s.mem.readNat (h + 8) 8, head := s.mem.readNat (h + 0x10) 8,
              tail := s.mem.readNat (h + 0x40) 8 }
def queueSt (s : State) (die q : Nat) : QueueSt :=
  s.queues.getD (die * 64 + q) { busy := none, watching := false, ct := 0 }
def modQueue (s : State) (die q : Nat) (f : QueueSt → QueueSt) : State :=
  { s with queues := s.queues.set (die * 64 + q) (f (s.queueSt die q)) }
/-- A write of a queue processor at its home. -/
def queueWrite (s : State) (die pa : Nat) (bs : List Byte) (T : Nat) : State :=
  (s.homeWrite pa bs (s.ftGrain pa) T .dflt (idQueue die)).1

/-! launch (R145). -/
/-- Results of launch: D comes with LD, and a record written counts in ST. -/
def launchDone (s : State) (a : Agent) (h : Hdr) (d res : Nat) (wrote : Bool) : State :=
  let unit : LaneReq := { lane := 0, off := 0, loc := .none, size := 4, va := 0#64, data := [], cmp := [], sent := false,
                          got := some (Memory.leBytes 4 res) }
  let spec : MemSpec := { op := .load, space := .global, size := 4, order := .rlx, scope := .grp, pol := .dflt, lanes := [],
                          dst := some (.scl, d), regs := 1, part := 1#64, one := true, single := none, counted := true }
  let s := s.cutScl a [d]
  let s := (s.addReq a spec [unit] 0 false).2
  let s := if wrote then (s.addReq a { spec with op := .store, dst := none } [unit] 0 false).2 else s
  s.retire a h

/-- The record goes to the tail of a queue that takes it. -/
def launchAt (s : State) (a : Agent) (h : Hdr) (d sel : Nat) (rec : List Byte) : State :=
  let die := sel / 64 % 4
  let who := s.agentId a
  match s.queueHead die (sel % 64) with
  | none => s.launchDone a h d 2 false
  | some q =>
    if s.dirConflict who true q.at' 128 then (s.recallFor who true q.at' 128).wait a (.home q.at' 128 true)
    else if !q.en then s.launchDone a h d 2 false
    else if 2 ^ q.logn ≤ q.count then s.launchDone a h d 1 false
    else
      let p := q.slot q.tail
      if s.dirConflict who true p 128 then (s.recallFor who true p 128).wait a (.home p 128 true)
      else
        let T := max (s.core (s.coreOf a)).ct (s.relTs a (s.maskOfAgent a))
        let core := s.coreOf a
        let (s, v) := s.homeWrite p rec (s.ftGrain p) T .dflt who
        let s := s.l1Write core p rec .dflt v
        let tail := Memory.leBytes 8 (q.tail + 1)
        let (s, v2) := s.homeWrite (q.at' + 0x40) tail (s.ftGrain q.at') (max T v) .dflt who
        let s := (s.l1Write core (q.at' + 0x40) tail .dflt v2).noteVis a (s.maskOfAgent a) v2
        s.launchDone a h d 0 true
end State

/-- launch (R145): after a release at .pkg the record is read precisely and written to the queue. -/
def execLaunch (h : Hdr) (f : NForm) (s : State) : Host.Outcome State Fault Refusal :=
  withAgent s fun a =>
    if !s.guardOnce a h then s.retire a h
    else
      let sel := (readScl s a f.b false).toNat
      let va := readScl s a f.a true
      if !s.supOf a && !(s.ctlReg (0x018 + sel / 64 % 4)).getLsbD (sel % 64) then s.raisePlain a 3 0
      else
        match s.acquirePending a with
        | some id => s.wait a (.request id)
        | none =>
          if 63 ≤ s.ldOf a || 63 ≤ s.stcOf a then s.hold a
          else
            s.releaseThen a .pkg fun s =>
              match s.checkGlobal a va 128 .read .dflt with
              | (s, .error x) => s.raiseAt a .read x va
              | (s, .ok (.mem pa grain pol)) =>
                if s.dirConflict (s.agentId a) false pa 128 then (s.recallFor (s.agentId a) false pa 128).wait a (.home pa 128 false)
                else
                  match (if isRemote pa then none else s.homeError pa 128 .read) with
                  | some c => s.raiseAt a .read { cause := c, code := 0, psize := 4096 } va
                  | none =>
                    let (s, rec, _, _) := s.homeRead pa 128 grain none pol (s.agentId a)
                    s.launchAt a h f.d.idx.toNat sel rec
              | (s, .ok (.bank t o _)) => s.launchAt a h f.d.idx.toNat sel (s.scratchRead t o 128)
              | (s, .ok .none) => s

/-! Launch records (R249, R250, R255). -/
/-- n bytes of a record from an offset, as a number. -/
def recNat (e : List Byte) (o n : Nat) : Nat := natOfBytes ((e.drop o).take n)

/-- Scope codes that the domains bind (R250). -/
def scopeOfDomain (d : Nat) : Nat :=
  match d with
  | 0 | 1 => 0
  | 2 => 1
  | 3 => 2
  | 7 => 4
  | _ => 3

/-- Level words that a record holds. -/
def recLevels (e : List Byte) : List Nat := (List.range 8).map fun i => recNat e (0x20 + 4 * i) 4
def levelCount (w : Nat) : Nat := w % 2 ^ 20
def levelDomain (w : Nat) : Nat := w / 2 ^ 20 % 16
/-- Domains rise from one level word to the next. -/
def domainsRise : List Nat → Bool
  | a :: b :: r => levelDomain a < levelDomain b && domainsRise (b :: r)
  | _ => true
/-- Tasks of a list of level words. -/
def taskCount (ws : List Nat) : Nat := (ws.drop 2).foldl (fun n w => n * levelCount w) 1

/-- R250 over the level words, and zero words from LVLS on. -/
def levelsGood (e : List Byte) (lvls gpt : Nat) : Bool :=
  let ws := (recLevels e).take lvls
  levelDomain (ws.getD 0 0) == 0 && levelCount (ws.getD 0 0) == 64 && levelDomain (ws.getD 1 0) == 1 &&
    levelCount (ws.getD 1 0) == gpt && levelDomain (ws.getD 2 0) == 2 && domainsRise (ws.drop 2) &&
    ws.all (fun w => levelCount w != 0 && levelDomain w < 8 && w / 2 ^ 24 % 8 == scopeOfDomain (levelDomain w) &&
      (levelDomain w < 6 || levelCount w == 1)) &&
    ((recLevels e).drop lvls).all (· == 0) && taskCount ws < 2 ^ 32

/-- The code with which a launch record is rejected, the lowest that applies (R255, R256). -/
def recordCode (e : List Byte) (supq : Bool) : Option Nat :=
  let w := recNat e 0x18 8
  let lvls := w % 16
  let gpt := w / 2 ^ 4 % 32
  let inRange := 3 ≤ lvls && lvls ≤ 8
  if inRange && !levelsGood e lvls gpt then some 1
  else if gpt = 0 || 16 < gpt || w / 2 ^ 9 % 4 = 3 || !inRange || 524288 < recNat e 0x40 4 || 524288 < recNat e 0x44 4 ||
      256 < recNat e 0x48 2 then some 2
  else if recNat e 0 8 % 4 != 0 || recNat e 8 8 % 4 != 0 || recNat e 0x50 8 % 8 != 0 then some 3
  else if w / 2 ^ 16 % 16 = 0 then some 4
  else if w / 2 ^ 24 % 2 = 1 && !supq then some 5
  else if w / 2 ^ 27 != 0 || w / 2 ^ 20 % 16 != 0 || w / 2 ^ 15 % 2 != 0 || w / 2 ^ 11 % 2 != 0 ||
      (recLevels e).any (fun x => x / 2 ^ 27 != 0) || recNat e 0x4A 2 != 0 || recNat e 0x60 8 / 4 != 0 ||
      recNat e 0x68 0x17 != 0 then some 6
  else none

/-- The launch that a valid record asks for. -/
def launchOfRecord (e : List Byte) (die queue index asid consumed : Nat) : Launch :=
  let w := recNat e 0x18 8
  { die := die, queue := queue, index := index, entry := BitVec.ofNat 64 (recNat e 0 8),
    ksEntry := BitVec.ofNat 64 (recNat e 8 8), arg := BitVec.ofNat 64 (recNat e 0x10 8), asid := asid,
    ser := w / 2 ^ 26 % 2 == 1, nstl := w / 2 ^ 25 % 2 == 1, sup := w / 2 ^ 24 % 2 == 1, dies := w / 2 ^ 16 % 16,
    prio := w / 2 ^ 12 % 8, pcls := w / 2 ^ 9 % 4, gpt := w / 2 ^ 4 % 32, lvls := w % 16,
    levels := ((recLevels e).take (w % 16)).map (BitVec.ofNat 32), scr := recNat e 0x40 4,
    lease := (recNat e 0x44 4 + 127) / 128 * 128, rqh := (if recNat e 0x48 2 = 0 then 32 else recNat e 0x48 2),
    banksR := BitVec.ofNat 32 (recNat e 0x4C 4), sema := BitVec.ofNat 64 (recNat e 0x50 8),
    semv := BitVec.ofNat 64 (recNat e 0x58 8), cmop := recNat e 0x60 8 % 4, nf := false, killed := none,
    consumed := consumed, done := false, vis := 0, binds := [] }

/-! Distribution (R258). -/
/-- The level of a launch with a domain. -/
def Launch.levelOf (L : Launch) (domain : Nat) : Option Nat :=
  (List.range L.levels.length).find? fun i => levelDomain (L.levels.getD i 0#32).toNat == domain
/-- Tasks inside one instance of a level. -/
def Launch.tasksPer (L : Launch) (level : Nat) : Nat :=
  ((L.levels.take level).drop 2).foldl (fun n w => n * levelCount w.toNat) 1
/-- The instance that task t belongs to, of the first of some domains that the launch has; the task itself without one. -/
def Launch.unitOf (L : Launch) (t : Nat) (domains : List Nat) : Nat :=
  match domains.findSome? L.levelOf with
  | some i => t / L.tasksPer i
  | none => t
/-- sr.lvl2 upward of task t (R251). -/
def Launch.indices (L : Launch) (t : Nat) : List Nat :=
  (List.range (L.lvls - 2)).map fun k => t / L.tasksPer (k + 2) % levelCount (L.levels.getD (k + 2) 0#32).toNat
/-- Dies that a launch names. -/
def Launch.dieList (L : Launch) : List Nat := (List.range 4).filter fun d => L.dies.testBit d
/-- Die of task t: its die unit, modulo the dies named. -/
def Launch.dieFor (L : Launch) (t : Nat) : Nat :=
  let ds := L.dieList
  ds.getD (L.unitOf t [5, 4, 3] % ds.length) 0

namespace State
/-- Tasks handed out in order of t: every die numbers its units and gives each to a quadrant in turn. -/
def distribute (s : State) (l : Nat) (L : Launch) : State :=
  let n := taskCount (L.levels.map (·.toNat))
  let out := (List.range n).foldl (fun (acc : List (Nat × Nat) × Assoc (List Nat)) t =>
    let die := L.dieFor t
    let u := L.unitOf t [4, 3]
    let seen := acc.2.getD die []
    let seen := if seen.getLast? = some u then seen else seen ++ [u]
    (acc.1 ++ [(t, 4 * die + (seen.length - 1) % 4)], acc.2.set die seen)) ([], [])
  out.1.foldl (fun (s : State) p =>
    let (id, s) := s.takeId
    { s with tasks := s.tasks.set id (freshTask l p.1 (L.indices p.1) (p.2 / 4) p.2 0) }) s

/-! Semaphores (R254, R264). -/
/-- What became of a processor's semaphore access: a holder is asked to return the line, the access faults, or it is done
(value read and its write time). -/
inductive SemEnd
  | held (s : State)
  | fault (s : State) (cause : Nat)
  | done (s : State) (old wts : Nat)

/-- A semaphore access of a die's queue processor in an address space at supervisor privilege: a read, or a set, add or
max as sys.sig (R238). -/
def semAccess (s : State) (die asid : Nat) (va : W64) (op : Option Nat) (v T : Nat) : SemEnd :=
  let who := idQueue die
  let acc : Acc := match op with | none => .read | some 0 => .write | _ => .both
  let want : Want := match op with | none => .read | some 0 => .write | _ => .atomic
  match s.translate asid true va acc with
  | (s, .error f) => if f.held.isSome then .held s else .fault s f.cause
  | (s, .ok x) =>
    if s.dirConflict who op.isSome x.pa 8 then .held (s.recallFor who op.isSome x.pa 8)
    else
      match (if isRemote x.pa then none else s.homeError x.pa 8 want) with
      | some c => .fault s c
      | none =>
        let old := s.mem.readNat x.pa 8
        match op with
        | none =>
          let (s, _, wts, _) := s.homeRead x.pa 8 x.grain none x.pol who
          .done s old wts
        | some k =>
          let new := match k with
            | 0 => v
            | 1 => (old + v) % 2 ^ 64
            | _ => max old v
          let (s, w) := s.homeWrite x.pa (Memory.leBytes 8 new) x.grain T x.pol who
          .done s old w

/-! Entries. -/
/-- HEAD advances past the entry in progress (R253). -/
def consumeEntry (s : State) (die q : Nat) (H : QHead) : State :=
  (s.queueWrite die (H.at' + 0x10) (Memory.leBytes 8 (H.head + 1)) 0).modQueue die q fun x => { x with busy := none }
/-- A one-record set of a queue processor (R256, R264). -/
def processorRec (die cause acc : Nat) (addr pc : W64) (lanes : Nat) : FaultRec :=
  { addr := addr, lanes := BitVec.ofNat 64 lanes, pc := pc, core := 0, team := 0, grp := 0, kst := false, wdn := false,
    acc := acc, cause := cause, code := idQueue die }
/-- An entry is rejected: reported at its semaphore, or in the fault queue, and consumed (R256). -/
def rejectEntry (s : State) (die q : Nat) (H : QHead) (va : W64) (code : Nat) : State :=
  let record := fun (s : State) =>
    ({ s with sets := s.sets ++ [setOf die .reject [processorRec die 2 0 (BitVec.ofNat 64 H.head) 0#64 code]] }).consumeEntry die q H
  if va = 0#64 || va.toNat % 8 != 0 || code = 7 then record s
  else
    match s.semAccess die H.asid va (some 0) (2 ^ 63 + code) 0 with
    | .held s => s
    | .fault s _ => record s
    | .done s _ _ => s.consumeEntry die q H

/-- Watches of a queue that were marked are gone. -/
def dropQueueWatch (s : State) (die q : Nat) (marked : Bool) : State :=
  { s with watches := s.watches.filter fun w => !(w.who == .queue die q && (!marked || w.cause.isSome)) }
def queueWatched (s : State) (die q : Nat) : Bool := s.watches.any fun w => w.who == .queue die q

/-- A queue whose next entry its processor may take up: the header is sound and enabled, an entry waits, and nothing is in
progress. The entry is read with an acquire (R290). A defective header loses EN (R252). -/
def queueTurn (s : State) (die q : Nat) (k : State → QHead → List Byte → State) : State :=
  match s.queueHead die q with
  | none => s
  | some H =>
    let who := idQueue die
    if !H.en then s
    else if s.dirConflict who true H.at' 128 then s.recallFor who true H.at' 128
    else if H.bad then s.queueWrite die (H.at' + 8) (Memory.leBytes 8 (H.word - 2 ^ 8)) 0
    else if H.count = 0 || (s.queueSt die q).busy.isSome || (s.queueSt die q).watching then s
    else if s.dirConflict who false (H.slot H.head) 128 then s.recallFor who false (H.slot H.head) 128
    else
      let p := H.slot H.head
      let (s, e, wts, _) := s.homeRead p 128 (s.ftGrain p) none .dflt who
      k (s.modQueue die q fun x => { x with ct := max x.ct wts }) H e

/-- A launch record is validated, and its tasks are handed to the dispatchers; so is an entry of a reserved kind rejected
(R253, R255, R256, R258). -/
def takeRecord (s : State) (die q : Nat) : State :=
  s.queueTurn die q fun s H e =>
    let kind := recNat e 0x7F 1
    if kind = 1 || kind = 2 then s
    else if kind != 0 then s.rejectEntry die q H 0#64 6
    else
      match recordCode e H.supq with
      | some c => s.rejectEntry die q H (BitVec.ofNat 64 (recNat e 0x50 8)) c
      | none =>
        let (l, s) := s.takeId
        let L := { launchOfRecord e die q H.head H.asid l with acq := (s.queueSt die q).ct }
        let s := ({ s with launches := s.launches.set l L }).distribute l L
        if L.ser then s.modQueue die q fun x => { x with busy := some l } else s.consumeEntry die q H

/-- The condition of a wait entry (R254). -/
def semCond (c s v : Nat) : Bool :=
  match c with
  | 0 => s == v
  | 1 => s != v
  | 2 => s < v
  | 3 => s ≤ v
  | 4 => v < s
  | 5 => v ≤ s
  | _ => s &&& v != 0

/-- The code with which a wait or signal entry is rejected before its access. -/
def semCode (e : List Byte) (top : Nat) : Option Nat :=
  if recNat e 0 8 % 8 != 0 then some 3
  else if top < recNat e 0x10 8 || recNat e 0x18 0x67 != 0 then some 6
  else none

/-- A wait entry is evaluated, and a watch is registered while it fails (R254). -/
def takeWait (s : State) (die q : Nat) : State :=
  s.queueTurn die q fun s H e =>
    if recNat e 0x7F 1 != 1 then s
    else
      let va := BitVec.ofNat 64 (recNat e 0 8)
      match semCode e 6 with
      | some c => s.rejectEntry die q H va c
      | none =>
        match s.semAccess die H.asid va none 0 0 with
        | .held s => s
        | .fault s _ => s.rejectEntry die q H va 7
        | .done s v wts =>
          let s := s.modQueue die q fun x => { x with ct := max x.ct wts }
          if semCond (recNat e 0x10 8) v (recNat e 8 8) then
            (s.dropQueueWatch die q false).consumeEntry die q H
          else
            let s := s.dropQueueWatch die q true
            if s.queueWatched die q then s
            else
              match s.translate H.asid true va .read with
              | (s, .ok x) => (s.addWatch (.queue die q) x.pa x.grain none).2
              | (s, .error _) => s

/-- Whether a queue's earlier launches have completed. -/
def launchesOver (s : State) (die q : Nat) : Bool :=
  s.launches.all fun p => p.2.die != die || p.2.queue != q || p.2.done
/-- A signal entry, after the queue's earlier launches (R253, R254). -/
def takeSignal (s : State) (die q : Nat) : State :=
  s.queueTurn die q fun s H e =>
    if recNat e 0x7F 1 != 2 then s
    else
      let va := BitVec.ofNat 64 (recNat e 0 8)
      match semCode e 2 with
      | some c => s.rejectEntry die q H va c
      | none =>
        if !s.launchesOver die q then s
        else
          match s.semAccess die H.asid va (some (recNat e 0x10 8)) (recNat e 8 8) (s.queueSt die q).ct with
          | .held s => s
          | .fault s _ => s.rejectEntry die q H va 7
          | .done s _ _ => s.consumeEntry die q H

/-- A queue processor reads TAIL with an acquire; an empty queue is watched (R252). -/
def wakeQueue (s : State) (die q : Nat) : State :=
  match s.queueHead die q with
  | none => s
  | some H =>
    let who := idQueue die
    if !H.en then s
    else if s.dirConflict who true H.at' 128 then s.recallFor who true H.at' 128
    else
      let s := s.dropQueueWatch die q true
      let (s, _, wts, _) := s.homeRead (H.at' + 0x40) 8 (s.ftGrain H.at') none .dflt who
      let s := s.modQueue die q fun x => { x with ct := max x.ct wts }
      if H.bad then s.queueWrite die (H.at' + 8) (Memory.leBytes 8 (H.word - 2 ^ 8)) 0
      else if H.count != 0 then s.modQueue die q fun x => { x with watching := false }
      else
        let s := s.modQueue die q fun x => { x with watching := true }
        if s.queueWatched die q then s else (s.addWatch (.queue die q) (H.at' + 0x40) (s.ftGrain H.at') none).2

/-! Admission (R259-R261). -/
/-- The cores of a quadrant. -/
def quadCores (quad : Nat) : List Nat := (List.range 12).map fun i => 48 * (quad / 4) + 12 * (quad % 4) + i
/-- Groups of a core that are not over. -/
def residentGroups (s : State) (core : Nat) : Nat :=
  (s.grps.filter fun p => p.2.st != .exited &&
    ((s.tasks.get? p.2.task).map fun T => T.st == .resident && T.core == core) == some true).length
/-- Teams resident in a cluster. -/
def residentTeams (s : State) (clu : Nat) : Nat :=
  (s.tasks.filter fun p => p.2.st == .resident && cluOfCore p.2.core == clu).length
/-- The least of a list under a measure, the first of equals. -/
def leastOf (f : Nat → Nat) : List Nat → Option Nat
  | [] => none
  | x :: r => some (r.foldl (fun b y => if f y < f b then y else b) x)

/-- The cores of a dispatcher's quadrant that may take a task (R258, R259). -/
def eligibleCores (s : State) (quad : Nat) (T : Task) (L : Launch) : List Nat :=
  let cs := match L.levelOf 3 with
    | none => quadCores quad
    | some i =>
      let clus := (quadCores quad).map cluOfCore |>.eraseDups
      match (L.binds.get? (T.t / L.tasksPer i)).or (leastOf s.residentTeams clus) with
      | some c => (quadCores quad).filter fun x => cluOfCore x == c
      | none => []
  cs.filter fun c => !(s.core c).removed && !(s.core c).isolated

/-- Free slots and unreserved registers of a core's partitions. -/
def partRoom (s : State) (core : Nat) : List (Nat × Nat) :=
  (List.range 4).map fun p => (32 - s.slotsUsed core p, s.poolFree core p)
/-- Partitions for groups of a task in ascending sr.grp: most free slots among those with the registers (R260). -/
def placeGroups (rqh : Nat) : Nat → List (Nat × Nat) → Option (List Nat)
  | 0, _ => some []
  | n + 1, room =>
    let fits := (List.range 4).filter fun p => 0 < (room.getD p (0, 0)).1 && rqh ≤ (room.getD p (0, 0)).2
    match leastOf (fun p => 32 - (room.getD p (0, 0)).1) fits with
    | none => none
    | some p =>
      let r := room.getD p (0, 0)
      (placeGroups rqh n (room.set p (r.1 - 1, r.2 - rqh))).map (p :: ·)
/-- Cache-role banks that no team holds, highest first (R321). -/
def freeBanks (s : State) (core : Nat) : List Nat :=
  ((List.range 32).filter fun k => ((s.core core).bank k).role == .cache && ((s.core core).bank k).holder.isNone).reverse
/-- Team slots that no resident task of a core holds. -/
def freeSlots (s : State) (core : Nat) : List Nat :=
  (List.range 128).filter fun k => !(s.tasks.any fun p => p.2.st == .resident && p.2.core == core && p.2.slot == k)
/-- Keystone contexts of a core's cluster that serve no task. -/
def freeContexts (s : State) (core : Nat) : List Nat :=
  ((List.range 4).map (4 * cluOfCore core + ·)).filter fun k => (s.ksCtx k).task.isNone

/-- What a core would give a task now (R260): partitions, banks, team slots and contexts to choose from. -/
structure Room where
  parts : List Nat
  banks : List Nat
  slots : List Nat
  ctxs : List Nat

/-- Whether a core admits a task, parked groups being restored first (R260). -/
def roomOn (s : State) (core : Nat) (L : Launch) : Option Room :=
  let n := (L.scr + (bankBytes - 1)) / bankBytes
  let slots := s.freeSlots core
  let banks := s.freeBanks core
  let ctxs := s.freeContexts core
  if (s.nextReturn core).isSome || slots.isEmpty || banks.length < n || (L.ksEntry != 0#64 && ctxs.isEmpty) then none
  else
    (placeGroups L.rqh L.gpt (s.partRoom core)).map fun ps =>
      { parts := ps, banks := banks.take n, slots := slots, ctxs := if L.ksEntry = 0#64 then [] else ctxs }

/-- The core that admits a task: the fewest resident groups, then the lowest number (R259). -/
def admittingCore (s : State) (quad : Nat) (T : Task) (L : Launch) : Option Nat :=
  leastOf s.residentGroups ((s.eligibleCores quad T L).filter fun c => (s.roomOn c L).isSome)

/-- The groups of an admitted task (R261). -/
def startGroups (s : State) (t order : Nat) (L : Launch) (parts : List Nat) : State :=
  { s with grps := (parts.zipIdx).foldl (fun gs p =>
      Assoc.set gs (groupKey t p.2)
        (freshGroup t p.2 p.1 (order * 16 + p.2) L.entry L.arg L.sup L.lease s.clk)) s.grps }
/-- A bound context at its start (R207, R261). -/
def startKs (t : Nat) (L : Launch) : KsCtx :=
  { emptyKs with task := some t, running := true, pc := L.ksEntry,
                 sreg := lo32 L.arg :: hi32 L.arg :: List.replicate 126 0#32, acqSeen := L.acq }

/-- A core admits a task in one step (R260, R261, R320, R321): its banks, empty, pass the switching role (R318), and the core has
acquired what the launch's entry was written after (R290). -/
def admitTask (s : State) (quad t core : Nat) (T : Task) (L : Launch) (r : Room) : State :=
  let (slot, s) := pickFrom s r.slots 0
  let (ctx, s) := pickFrom s (r.ctxs.map some) none
  let (order, s) := s.takeId
  let s := match L.levelOf 3 with
    | some i => s.modLaunch T.launch fun L =>
        { L with binds := if (L.binds.get? (T.t / L.tasksPer i)).isSome then L.binds
                          else L.binds.set (T.t / L.tasksPer i) (cluOfCore core) }
    | none => s
  let s := (s.modCore core fun c => r.banks.foldl (fun c k => c.setBank k emptyBank) c).raiseCt core L.acq
  let s := { s with tasks := s.tasks.set t { freshTask T.launch T.t T.lvl T.die quad order with
      st := .resident, core := core, slot := slot, live := List.range L.gpt, banks := r.banks, scratch := L.scr,
      ks := ctx } }
  let s := (s.beginSwitch core t 1 0 r.banks).1
  let s := s.startGroups t order L r.parts
  let s : State := match ctx with
    | some k => { s with ks := s.ks.set k (startKs t L) }
    | none => s
  if s.dispatchAlone.get? quad = some t then { s with dispatchAlone := s.dispatchAlone.erase quad } else s

/-- Undispatched tasks of a dispatcher: PRIO descending, then consumption, then t (R259). -/
def dispatchList (s : State) (quad : Nat) : List (Nat × Task × Launch) :=
  let ts := s.tasks.filterMap fun p =>
    if p.2.st == .distributed && p.2.quad == quad && p.2.hold.isNone then (s.launchOf p.2).map fun L => (p.1, p.2, L) else none
  sortBy (fun (x : Nat × Task × Launch) => (7 - x.2.2.prio) * 2 ^ 128 + x.2.2.consumed * 2 ^ 32 + x.2.1.t) ts
/-- Whether a task's count of clocks since it was passed over has reached 1,000,000 (R259). -/
def starved (s : State) (T : Task) : Bool := T.passedOver.any fun c => c + 1000000 ≤ s.clk
/-- The one task that a dispatcher offers. -/
def aloneOf (s : State) (quad : Nat) : Option Nat :=
  let ts := s.dispatchList quad
  ((s.dispatchAlone.get? quad).filter fun t => ts.any fun x => x.1 == t).or ((ts.find? fun x => s.starved x.2.1).map (·.1))
/-- What a dispatcher offers: everything, or the one task offered alone. -/
def offered (s : State) (quad : Nat) : List (Nat × Task × Launch) :=
  match s.aloneOf quad with
  | some t => (s.dispatchList quad).filter fun x => x.1 == t
  | none => s.dispatchList quad

/-- TASK_ADMISSION: the first task that some eligible core admits; those before it are passed over (R259). -/
def dispatchFrom (s : State) (quad : Nat) : List (Nat × Task × Launch) → State
  | [] => s
  | (t, T, L) :: rest =>
    match s.admittingCore quad T L with
    | none => dispatchFrom (s.modTask t fun T => { T with passedOver := T.passedOver.or (some s.clk) }) quad rest
    | some c =>
      match s.roomOn c L with
      | some r => s.admitTask quad t c T L r
      | none => s

/-- DISPATCH_STARVATION: a count that reaches 1,000,000 makes its task the only one offered (R259). -/
def starve (s : State) (quad : Nat) : State :=
  if (s.dispatchAlone.get? quad).isSome then s
  else
    match (s.dispatchList quad).find? fun x => s.starved x.2.1 with
    | some x => { s with dispatchAlone := s.dispatchAlone.set quad x.1 }
    | none => s

/-- The task that an idle dispatcher may take from a sibling: the highest t (R259). -/
def stealFrom (s : State) (quad sib : Nat) : Option (Nat × Task × Launch) :=
  let ok := (s.dispatchList sib).filter fun x =>
    (x.2.2.levelOf 3).isNone && (x.2.2.levelOf 4).isNone && !x.2.2.nstl && (s.admittingCore quad x.2.1 x.2.2).isSome
  match ok with
  | [] => none
  | x :: r => some (r.foldl (fun b y => if b.2.1.t < y.2.1.t then y else b) x)
/-- DISPATCHER_STEAL: a dispatcher that offers one task alone dispatches no other. -/
def stealTask (s : State) (quad : Nat) : State :=
  if (s.aloneOf quad).isSome || (s.offered quad).any fun x => (s.admittingCore quad x.2.1 x.2.2).isSome then s
  else
    let sibs := ((List.range 4).map (quad / 4 * 4 + ·)).filter (· != quad)
    let sibs := sortBy (fun q => 2 ^ 40 - (s.dispatchList q).length) sibs
    match sibs.findSome? fun q => (s.stealFrom quad q).map fun x => (q, x) with
    | none => s
    | some (q, t, T, L) =>
      match s.admittingCore quad T L with
      | none => s
      | some c =>
        match s.roomOn c L with
        | none => s
        | some r =>
          let s := if s.dispatchAlone.get? q = some t then { s with dispatchAlone := s.dispatchAlone.erase q } else s
          s.admitTask quad t c T L r

/-! Completion (R263, R264, R357). -/
/-- The operation at SEMA: none, or a set after a kill. -/
def completionOp (L : Launch) : Option (Nat × Nat) :=
  match L.killed with
  | some c => some (0, 0x8000000000000100 + c)
  | none => if L.cmop = 0 then none else some (L.cmop - 1, L.semv.toNat)
/-- The completion operation at SEMA; a fault is reported in the fault queue of the queue's die and the launch is kept
for its acknowledgement (R264). `none` while a holder has to return the line. -/
def completeSem (s : State) (l : Nat) (L : Launch) : State × Bool :=
  let gone := fun (s : State) => { s with launches := s.launches.erase l }
  match completionOp L with
  | none => (gone s, true)
  | some (op, v) =>
    if L.sema = 0#64 then (gone s, true)
    else
      match s.semAccess L.die L.asid L.sema (some op) v L.vis with
      | .held s => (s, false)
      | .done s _ _ => (gone s, true)
      | .fault s c =>
        ({ s with sets := s.sets ++ [setOf L.die (.launch l) [processorRec L.die c 2 L.sema L.entry 0]],
                  launches := s.launches.set l { L with done := true } }, true)

/-- Whether every task of a launch is DONE. -/
def tasksOver (s : State) (l : Nat) : Bool := s.tasks.all fun p => p.2.launch != l || p.2.st == .done
/-- A launch whose every task is DONE completes: partials are committed, CMOP is applied, its queue goes on (R263). -/
def completeLaunch (s : State) (l : Nat) : State :=
  match s.launches.get? l with
  | none => s
  | some L =>
    if L.done || !s.tasksOver l then s
    else
      match s.commitStaged l with
      | (s, .error _) => s
      | (s, .ok v) =>
      let L := { L with vis := max L.vis v }
      let s := { s with launches := s.launches.set l L }
      match s.completeSem l L with
      | (s, false) => s
      | (s, true) =>
        let s := { s with tasks := s.tasks.filter fun p => p.2.launch != l }
        let s := s.modQueue L.die L.queue fun x => { x with ct := max x.ct L.vis }
        if (s.queueSt L.die L.queue).busy = some l then
          match s.queueHead L.die L.queue with
          | some H => s.consumeEntry L.die L.queue H
          | none => s.modQueue L.die L.queue fun x => { x with busy := none }
        else s
end State

/-- QUEUE_TAIL_WAKE (R252). -/
def execQueueTailWake (die queue : Nat) (s : State) : Host.Outcome State Fault Refusal := .next (s.wakeQueue die queue)
/-- LAUNCH_RECORD (R255). -/
def execLaunchRecord (die queue : Nat) (s : State) : Host.Outcome State Fault Refusal := .next (s.takeRecord die queue)
/-- SEMAPHORE_WAIT (R254). -/
def execSemaphoreWait (die queue : Nat) (s : State) : Host.Outcome State Fault Refusal := .next (s.takeWait die queue)
/-- SEMAPHORE_SIGNAL (R254). -/
def execSemaphoreSignal (die queue : Nat) (s : State) : Host.Outcome State Fault Refusal := .next (s.takeSignal die queue)
/-- TASK_ADMISSION (R259, R260). -/
def execTaskAdmission (quad : Nat) (s : State) : Host.Outcome State Fault Refusal :=
  .next (s.dispatchFrom quad (s.offered quad))
/-- DISPATCH_STARVATION (R259). -/
def execDispatchStarvation (quad : Nat) (s : State) : Host.Outcome State Fault Refusal := .next (s.starve quad)
/-- DISPATCHER_STEAL (R259). -/
def execDispatcherSteal (quad : Nat) (s : State) : Host.Outcome State Fault Refusal := .next (s.stealTask quad)
/-- TASK_DONE (R263): a draining task goes on; with a launch's last task the launch completes. -/
def execTaskDone (task : Nat) (s : State) : Host.Outcome State Fault Refusal :=
  .next (
    let s1 := s.drainTask task
    match s1.tasks.get? task with
    | some T => s1.completeLaunch T.launch
    | none => s1)

end Sys2Proof.Machine
end

