-- ==== Sys2Proof/Machine/Preempt.lean ====
section
/-! DEFINITION. Pre-emption: PREQ (R355), the saved and restartable sequences (R356), task and Keystone frames (R354), the
mask budget (R237) and the return of a saved task (R342). -/
namespace Sys2Proof.Machine

/-! Frames of R354. -/
/-- A timeline counter in a frame. -/
def tlBytes (t : Timeline) : List Byte :=
  Memory.leBytes 8 t.v ++ Memory.leBytes 8 t.last ++ Memory.leBytes 4 t.err.toNat ++ zeros 4 ++ Memory.leBytes 8 t.first
/-- A channel in a frame. -/
def chBytes (c : Channel) : List Byte :=
  Memory.leBytes 4 c.rv.toNat ++ Memory.leBytes 4 c.x.toNat ++ Memory.leBytes 4 c.stopped.toNat ++ zeros 4
/-- A mapping in a frame; the record of dirty chunks is a bit for each of the first 128. -/
def mapBytes : Option SMap → List Byte
  | none => zeros 32
  | some m => Memory.leBytes 8 m.va.toNat ++ Memory.leBytes 4 m.off ++ Memory.leBytes 4 m.len ++
      Memory.leBytes 16 (m.dirty.foldl (fun n c => if c < 128 then n + 2 ^ c else n) 0)
/-- Bytes up to an offset of a frame, padded with zeros. -/
def padTo (n : Nat) (bs : List Byte) : List Byte := bs ++ zeros (n - bs.length)

namespace State
/-- The bytes of a task frame. -/
def taskFrame (s : State) (t : Nat) (T : Task) : List Byte :=
  let gpt := ((s.launchOf T).map (·.gpt)).getD 0
  let w := 2 + gpt * 2 ^ 8 + T.ks.isSome.toNat * 2 ^ 13 + T.banks.length * 2 ^ 16 + T.mc * 2 ^ 24 + T.forced.toNat * 2 ^ 32
  let cmds := T.chs.foldl (fun n p => n + p.2.cmds.length) T.kvq.length
  let share := match T.share with
    | some (k, slot) => k + slot * 2 ^ 8 + 2 ^ 16
    | none => 0
  let body := padTo (0x40 - 12) []
  let body := padTo (0x280 - 12) (body ++ (List.range 18).flatMap fun k => tlBytes (T.tcs.getD k emptyTimeline))
  let body := body ++ (List.range 16).flatMap fun k => chBytes (T.chs.getD k emptyChannel)
  let body := body ++ (List.range 16).flatMap fun b =>
    Memory.leBytes 4 ((T.bar b).expected.getD 0) ++ Memory.leBytes 4 (T.bar b).arrivals
  let body := padTo (0x500 - 12) (body ++ (List.range 8).flatMap fun i => mapBytes T.maps[i]?)
  let body := padTo (0x600 - 12) (body ++ Memory.leBytes 8 share)
  withCrc (Memory.leBytes 8 w) (body ++ zeros (64 * cmds) ++ s.scratchRead t 0 (bankBytes * T.banks.length))

/-- The bytes of a Keystone frame. -/
def ksFrameBytes (_s : State) (k : Nat) (c : KsCtx) : List Byte :=
  let cmds := c.mq.length + c.ch0.cmds.length
  let w := 3 + k % 4 * 2 ^ 8 + cmds * 2 ^ 16
  let body := padTo (0x40 - 12) []
  let body := body ++ Memory.leBytes 8 c.pc.toNat ++ Memory.leBytes 4 c.sat.toNat ++ Memory.leBytes 4 c.ctr.toNat ++
    Memory.leBytes 8 c.seed.toNat
  let body := padTo (0x80 - 12) body
  let body := padTo (0x100 - 12) (body ++ (List.range 15).map fun p => BitVec.ofNat 8 (c.preds.getD p false).toNat)
  let body := body ++ (List.range 128).flatMap fun i => Memory.leBytes 4 (c.sreg.getD i 0#32).toNat
  let body := padTo (0x400 - 12) (body ++ tlBytes c.tc ++ chBytes c.ch0)
  let body := padTo (0x10000 - 12) (body ++ zeros (64 * cmds))
  let tiles := (List.range 8).flatMap fun i => (List.range 65536).map fun o => (c.ta.getD i []).getD o 0#8
  let accs := (List.range 16).flatMap fun i => (List.range 32768).flatMap fun o =>
    Memory.leBytes 4 ((c.acc.getD i []).getD o 0#32).toNat
  withCrc (Memory.leBytes 8 w) (body ++ tiles ++ accs)

/-! PREQ (R355). -/
/-- Tasks whose launch a PREQ value names. -/
def preqNames (s : State) (die : Nat) (v : W64) (T : Task) : Bool :=
  match s.launchOf T with
  | none => false
  | some L => T.die == die && L.die == v.toNat / 2 ^ 6 % 4 && L.queue == v.toNat % 2 ^ 6 &&
      L.index % 2 ^ 32 == v.toNat / 2 ^ 32
/-- A request reaches resident tasks: a maskable one with MC above 0 starts its timer (R237). -/
def preqStart (s : State) (die hold : Nat) (ts : List Nat) : State :=
  let s := { s with preq := s.preq.set die (ts.map fun t => (t, hold)), preqAt := s.preqAt.set die s.clk }
  ts.foldl (fun (s : State) t => s.modTask t fun T =>
    if ((s.launchOf T).map (·.pcls)).getD 0 = 2 && T.mc != 0 && T.budget.isNone then
      { T with budget := some (s.clk + s.budgetClocks) } else T) s
/-- A write of PREQ with BUSY = 0 (R355). -/
def preqWrite (s : State) (die : Nat) (v : W64) : State :=
  if s.preqBusy die then s
  else
    let s := s.setMmio (0x20000 + 0x100 * die) (v &&& 0xFFFFFFFF00FF03FF#64)
    let core := v.toNat / 2 ^ 16 % 256
    let named := s.preqNames die v
    match v.toNat / 2 ^ 8 % 4 with
    | 0 =>
      let ts := (s.tasks.filter fun p => named p.2 && p.2.st == .resident).map (·.1)
      let wait := (s.tasks.filter fun p => named p.2 && p.2.st == .distributed).map (·.1)
      (wait.foldl (fun (s : State) t => s.modTask t fun T => { T with hold := some 0 }) s).preqStart die 0 ts
    | 1 =>
      s.preqStart die (core + 1) ((s.tasks.filter fun p => p.2.st == .resident && p.2.core == core).map (·.1))
    | 2 =>
      { s with tasks := s.tasks.mapVal fun _ T => if named T then { T with hold := none } else T }
    | _ =>
      { s with tasks := s.tasks.mapVal fun _ T => if T.hold = some (core + 1) then { T with hold := none } else T }

/-! The sequences (R356). -/
/-- What a task that a request names will wait for: a resumption of the mode that fits. -/
def preqHold (s : State) (t : Nat) : Option Nat := s.preq.findSome? fun p => (p.2.find? fun x => x.1 == t).map (·.2)
/-- A task has finished its sequence, or can no longer be pre-empted. -/
def preqDone (s : State) (t : Nat) : State :=
  let left : Assoc (List (Nat × Nat)) := s.preq.mapVal fun _ xs => xs.filter fun x => x.1 != t
  { s with preq := left }
/-- Whether a bank of some core still changes its role for a task. -/
def banksSwitch (s : State) (t : Nat) : Bool := s.cores.any fun c => c.2.switches.any fun w => w.task == t
/-- Whether an access, a copy or a matrix command of a team or through its window is under way to its banks, or a bank of
its changes its role (R318). -/
def banksBusy (s : State) (t : Nat) : Bool := s.windowUnderWay t || s.banksSwitch t
/-- Records and entries of a task in the two rings. -/
def ofTask (t : Nat) : AckTarget → Bool
  | .group g _ => g / 16 == t
  | .keystone _ u => u == t
  | .channel u _ _ => u == t
  | .ksChannel _ u _ => u == t
  | .matrix _ u _ => u == t
  | .kv u _ => u == t
  | .scratchWb u _ => u == t
  | _ => false

/-- A team's channels, and the ch0 of its context. -/
def taskChans (T : Task) (t : Nat) : List Chan :=
  T.chs.map (fun p => Chan.team t p.1) ++ (T.ks.map Chan.key).toList
/-- Agents, commands and chunks of a Keystone context move to another key. -/
def rekeyKs (s : State) (k k' : Nat) : State :=
  let c := s.ksCtx k
  let pends : Assoc PendCmd := s.pends.mapVal fun _ p => if p.agent = .ks k then { p with agent := .ks k' } else p
  let mortar : Assoc (List ChunkRef) := s.mortar.mapVal fun _ q =>
    q.map fun r => if r.chan = .key k then { r with chan := .key k' } else r
  { s with ks := (s.ks.erase k).set k' c, pends := pends, mortar := mortar }

/-- The saved sequence, once its groups' frames are written, its engines have come to rest and what was under way to its
banks is over (R356): the frames are written, the image last, and its banks begin to leave it. -/
def saveTask (s : State) (t : Nat) (T : Task) : State :=
  let frames : Option State := match T.ks with
    | none => some s
    | some k =>
      let s := s.dropLinks k
      s.writeFrame T.die 3 t (s.ksFrameBytes k (s.ksCtx k))
  match frames.bind fun s => s.writeFrame T.die 2 t (s.taskFrame t T) with
  | none => s
  | some s =>
    let s := match T.ks with
      | some k => s.rekeyKs k (192 + t)
      | none => s
    let banks := s.banksHeld t T
    let s := s.modCore T.core fun c => { c with parkOrder := c.parkOrder.filter fun g => g / 16 != t }
    let hold := s.preqHold t
    let s := s.modTask t fun T =>
      { T with st := .saved, banks := [], ks := none, ksFrame := T.ks, hold := hold, budget := none }
    (s.beginSwitch T.core t 0 200 banks).1

/-- Whether a task's engines are at rest for the saved sequence: started matrix commands and executing chunks are complete. -/
def enginesAtRest (s : State) (t : Nat) (T : Task) : Bool :=
  (taskChans T t).all (fun ch => !s.executingOn ch) &&
    (match T.ks with
      | none => true
      | some k => !((s.ksCtx k).mq.any (·.started)) && (s.ksCtx k).ld == 0 && (s.ksCtx k).stc == 0) && !s.banksBusy t
/-- Steps 1 to 4 of the saved sequence: every group parks. -/
def parkAll (s : State) (t : Nat) : State :=
  (s.liveGroups t).foldl (fun (s : State) g =>
    if ((s.grps.get? g).map fun G => G.park.isNone) == some true then s.startPark g 3 [] else s) s
def allFramed (s : State) (t : Nat) : Bool :=
  (s.liveGroups t).all fun g => (((s.grps.get? g).bind (·.park)).map (·.framed)).getD false

/-- The restartable sequence, once its commands are over and every write has reached its home (R356). -/
def discardTask (s : State) (t : Nat) (T : Task) : State :=
  let gs := s.liveGroups t
  let s := gs.foldl (fun (s : State) g => (s.quietGroup g).forgetWatches g) s
  let s := s.cancelEngines t
  let s : State := match T.ks with
    | some k => { s with ks := s.ks.erase k }
    | none => s
  let s := (s.withdraw false (ofTask t)).withdraw true (ofTask t)
  let s := (s.discardStaged T.launch t).leaveShare t
  let banks := s.banksHeld t T
  let hold := s.preqHold t
  let s := s.modCore T.core fun c => { c with parkOrder := c.parkOrder.filter fun g => g / 16 != t }
  let reqs : Assoc Req := s.reqs.filter fun p => s.taskIdOf p.2.agent != some t
  let s := { s with
    reqs := reqs
    grps := s.grps.filter fun p => p.2.task != t
    frames := s.frames.filter fun f => !(f.kind == 1 && f.owner / 16 == t)
    tasks := s.tasks.set t { freshTask T.launch T.t T.lvl T.die T.quad 0 with hold := hold } }
  (s.beginSwitch T.core t 0 200 banks).1

/-- Steps 2 and 6 of the restartable sequence: every engine command of the task is cancelled or abandoned. -/
def abandonEngines (s : State) (t : Nat) (T : Task) : State :=
  let s := (taskChans T t).foldl (fun (s : State) ch => s.cancelStart ch) (s.dropPends t)
  match T.ks with
  | some k => s.abandonKs k
  | none => s
/-- Whether commands or writes of a task that is being discarded are not over, or its banks are busy. -/
def abandoning (s : State) (t : Nat) (T : Task) : Bool :=
  (taskChans T t).any s.cancelling || (T.ks.any fun k => !(s.ksCtx k).mq.isEmpty) ||
    (s.reqs.any fun p => s.taskIdOf p.2.agent == some t && p.2.op.writes && !(Req.served p.2)) || s.banksBusy t

/-- PREEMPTION_SEQUENCE (R356): what the task's class asks for next; the sequence is over when its banks are free. -/
def preemptStep (s : State) (t : Nat) : State :=
  match s.tasks.get? t with
  | none => s
  | some T =>
    if !s.preqNamed t then s.preqDone t
    else if T.st != .resident then if s.banksSwitch t then s else s.preqDone t
    else if !s.proceeding t then s
    else if ((s.launchOf T).map (·.pcls)).getD 0 = 0 then
      let s := s.abandonEngines t T
      if s.abandoning t T then s else s.discardTask t T
    else
      let s := s.parkAll t
      if s.allFramed t && s.enginesAtRest t T then s.saveTask t T else s

/-- MASK_BUDGET_EXPIRY (R237): MC := 0 and FORCED := 1 once the timer has run out. -/
def budgetExpiry (s : State) (t : Nat) : State :=
  s.modTask t fun T =>
    if (T.budget.any fun c => c ≤ s.clk) && T.mc != 0 then { T with mc := 0, forced := true, budget := none } else T

/-! The return of a saved task (R342). -/
/-- What each group of a saved task needs of a partition: a slot unless it waits for an acknowledgement, and registers. -/
def savedNeeds (s : State) (t : Nat) (L : Launch) : List (Nat × Bool × Nat) :=
  (s.liveGroups t).filterMap fun g => (s.grps.get? g).map fun G =>
    let acked := (G.park.map (·.unacked)).getD 0 == 0
    (g, acked, if acked then max L.rqh (frameRegs G) else L.rqh)
/-- Partitions for such groups in turn. -/
def placeSaved : List (Nat × Bool × Nat) → List (Nat × Nat) → Option (List Nat)
  | [], _ => some []
  | (_, slot, regs) :: rest, room =>
    let fits := (List.range 4).filter fun p => slot.toNat ≤ (room.getD p (0, 0)).1 && regs ≤ (room.getD p (0, 0)).2
    match leastOf (fun p => 32 - (room.getD p (0, 0)).1) fits with
    | none => none
    | some p =>
      let r := room.getD p (0, 0)
      (placeSaved rest (room.set p (r.1 - slot.toNat, r.2 - regs))).map (p :: ·)
/-- SAVED_TASK_RETURN: the task's core, team slot and context are free, and so is the room it needs; frames are checked,
scratch is restored byte for byte in banks that begin to take the scratch role, and its groups and its context resume: what
they access there waits for the switch points (R318). -/
def savedReturn (s : State) (t : Nat) : State :=
  match s.tasks.get? t with
  | none => s
  | some T =>
    match s.launchOf T, s.savedImage t with
    | some L, some (image, n) =>
      let free := s.freeBanks T.core
      let ready := (s.liveGroups t).all fun g => ((s.grps.get? g).map fun G => G.stc == 0 && G.offAcks == 0) == some true
      let ctxFree := (T.ksFrame.map fun k => (s.ksCtx k).task.isNone).getD true
      if T.st != .saved || T.hold.isSome || (s.preqHold t).isSome || (s.core T.core).removed || (s.core T.core).isolated || !ready || !ctxFree ||
          !(s.freeSlots T.core).contains T.slot || free.length < n then s
      else
        match placeSaved (s.savedNeeds t L) (s.partRoom T.core) with
        | none => s
        | some parts =>
          if !(s.frameGood 2 t && s.frameGood 3 t) then s.killTask t 0x0A
          else
            let banks := free.take n
            let bytes := s.mem.readBytes image (bankBytes * n)
            let s := s.modCore T.core fun c => banks.foldl (fun c k => c.setBank k emptyBank) c
            let s := s.modTask t fun T => { T with st := .resident, banks := banks, ks := T.ksFrame, ksFrame := none }
            let s := ((s.scratchWrite t 0 bytes).beginSwitch T.core t 1 0 banks).1
            let s := match T.ksFrame with
              | some k => s.rekeyKs (192 + t) k
              | none => s
            let s := (s.freeFrame 2 t).freeFrame 3 t
            ((s.savedNeeds t L).zip parts).foldl (fun (s : State) p =>
              if ((s.tasks.get? t).map (·.st)) != some .resident then s
              else if p.1.2.1 then s.restoreGroup p.1.1 p.2
              else
                (s.modGrp p.1.1 fun G => { G with partition := p.2 }).modCore T.core fun c =>
                  { c with parkOrder := c.parkOrder ++ [p.1.1] }) s
    | _, _ => s
end State

/-- PREQ_PREEMPT_LAUNCH (R355). -/
def execPreqPreemptLaunch (die : Nat) (v : W64) (s : State) : Host.Outcome State Fault Refusal :=
  .next (if v.toNat / 2 ^ 8 % 4 = 0 then s.preqWrite die v else s)
/-- PREQ_PREEMPT_CORE (R355). -/
def execPreqPreemptCore (die : Nat) (v : W64) (s : State) : Host.Outcome State Fault Refusal :=
  .next (if v.toNat / 2 ^ 8 % 4 = 1 then s.preqWrite die v else s)
/-- PREQ_RESUME_LAUNCH (R355). -/
def execPreqResumeLaunch (die : Nat) (v : W64) (s : State) : Host.Outcome State Fault Refusal :=
  .next (if v.toNat / 2 ^ 8 % 4 = 2 then s.preqWrite die v else s)
/-- PREQ_RESUME_CORE (R355). -/
def execPreqResumeCore (die : Nat) (v : W64) (s : State) : Host.Outcome State Fault Refusal :=
  .next (if v.toNat / 2 ^ 8 % 4 = 3 then s.preqWrite die v else s)
/-- PREEMPTION_SEQUENCE (R356). -/
def execPreemptionSequence (task : Nat) (s : State) : Host.Outcome State Fault Refusal := .next (s.preemptStep task)
/-- MASK_BUDGET_EXPIRY (R237). -/
def execMaskBudgetExpiry (task : Nat) (s : State) : Host.Outcome State Fault Refusal := .next (s.budgetExpiry task)
/-- SAVED_TASK_RETURN (R342). -/
def execSavedTaskReturn (task : Nat) (s : State) : Host.Outcome State Fault Refusal := .next (s.savedReturn task)

end Sys2Proof.Machine
end

