-- ==== Sys2Proof/Machine/FaultQueue.lean ====
section
/-! DEFINITION. The fault queue and the retry ring (R346-R351): writing sets, sys.fqack (R239, R357), sys.idle (R236), and
the ends of waits on watches and leases (R166, R167). -/
namespace Sys2Proof.Machine

namespace State
/-! Writing sets. -/
/-- A group whose last set is written is PARKED (R349). -/
def setsWritten (s : State) (t : AckTarget) : State :=
  match t with
  | .group g _ =>
    if s.sets.any fun x => match x.target with
      | .group g' _ => g' == g
      | _ => false then s
    else s.modGrp g fun G =>
      if G.st == .parking && ((G.park.map (·.framed)).getD false) then { G with st := .parked } else G
  | _ => s
/-- The records of a written set. -/
def entriesOf (x : PendSet) (tail : Nat) : List Entry :=
  (List.range x.recs.length).map fun i =>
    { die := x.die, index := (tail + i) % 2 ^ 32, first := i == 0, target := x.target, cause := x.cause, acked := false,
      withdrawn := false }
/-- Lines of the ring where n records go next. -/
def ringLines (s : State) (die reg n : Nat) : List Nat :=
  (List.range n).map fun i => s.ringBase die reg + 32 * ((s.ringTail die reg + i) % 2 ^ s.ringLog die reg)
/-- The first set that waits for a die's ring is written when it fits. -/
def writeSet (s : State) (die : Nat) (retry : Bool) : State :=
  match s.sets.find? fun x => x.die == die && x.retry == retry with
  | none => s
  | some x =>
    let reg := if retry then 0x024 else 0x020
    let at' := s.ringLines die reg x.recs.length
    if !s.ringFits die reg x.recs.length then s
    else if at'.any fun p => s.dirConflict noAgentId true p 32 then
      at'.foldl (fun (s : State) p => s.recallFor noAgentId true p 32) s
    else
      let es := entriesOf x (s.ringTail die reg)
      let s := { (s.ringWrite die reg x.recs) with sets := s.sets.erase x }
      let s := if retry then { s with retries := s.retries ++ es } else { s with entries := s.entries ++ es }
      s.setsWritten x.target

/-! sys.fqack (R239). -/
/-- The key of a task's Keystone context: its own, or the saved one's. -/
def ksKey (s : State) (k t : Nat) : Nat := if (s.ksCtx k).task = some t then k else 192 + t
def ksHolds (s : State) (k t : Nat) : Bool := (s.ksCtx (s.ksKey k t)).task == some t
/-- The last written entry of a ring with an index. -/
def ringEntry (s : State) (die : Nat) (retry : Bool) (b : Nat) : Option Entry :=
  (if retry then s.retries else s.entries).reverse.find? fun e => e.die == die && e.index == b
/-- The records of a set are acknowledged. -/
def markAcked (s : State) (retry : Bool) (e : Entry) : State :=
  let upd := fun (x : Entry) => if x.die == e.die && x.target == e.target && x.cause == e.cause && !x.withdrawn &&
      (x.index == e.index || !x.first) then
      { x with acked := true } else x
  if retry then { s with retries := s.retries.map upd } else { s with entries := s.entries.map upd }
/-- Whether an op is valid on an entry. -/
def opValid (retry : Bool) (op : Nat) (e : Entry) : Bool :=
  if retry then op == 3 || op == 4
  else
    match op with
    | 0 | 2 => true
    | 1 => (match e.target with
      | .launch _ | .reject => true
      | .group _ _ | .keystone _ _ => e.cause == 0x11 || e.cause == 0x12
      | _ => false)
    | _ => false

/-- A parked group's set is acknowledged; skip moves its fragment past the instruction. -/
def ackGroup (s : State) (g e : Nat) (skip : Bool) : State :=
  s.modGrp g fun G => { G with
    park := G.park.map fun p => { p with unacked := p.unacked - 1 }
    frags := if skip then G.frags.update e fun F => { F with pc := F.pc + 12#64 } else G.frags }
/-- A Keystone context resumes. -/
def ackKs (s : State) (k t : Nat) (skip : Bool) : State :=
  if s.ksHolds k t then
    s.modKs (s.ksKey k t) fun c => { c with stopped := false, pc := if skip then c.pc + 12#64 else c.pc }
  else s
/-- The stopped command of a channel completes as failed, once the chunks that execute are over; those that have not started
write nothing (R179, R185; DEDUCED, log 17). -/
def failCopy (s : State) (ch : Chan) (value inner : Nat) : State :=
  let s := s.setCmd ch value fun d =>
    if d.ended.isSome then d
    else { d with bad := some inner, chunks := d.chunks.map fun x => if x == .unstarted then .done inner [] else x }
  let left := (s.mortar.mapVal fun _ q => q.filter fun r => !(r.chan == ch && r.value == value)).filter fun p => !p.2.isEmpty
  ({ s with mortar := left }).settle ch
/-- A channel goes on. -/
def runChan (s : State) (ch : Chan) : State := s.modChan ch fun C => { C with stopped := false }
/-- A KV command that the supervisor gives up completes with the inner cause; its outputs are zero but for the status where
its block can be written (R201). False while a holder keeps its lines away. -/
def failKv (s : State) (t value inner : Nat) : State × Bool :=
  match s.tasks.get? t with
  | none => (s, true)
  | some T =>
    match T.kvq.find? fun c => c.value == value with
    | none => (s, true)
    | some c =>
      let L := s.launchOf T
      let sup := (L.map (·.sup)).getD false
      let asid := (L.map fun l => if l.sup then 0 else l.asid).getD 0
      let finish' := fun (s : State) => (s.modTaskTl t 17 fun tl => tl.complete value inner 0 []).modTask t fun T =>
        { T with kvq := T.kvq.filter fun q => q.value != value }
      match s.xlatRange asid sup c.block 64 .write with
      | (s, .ok (blk :: _)) =>
        if s.dirConflict (idOrris 0) true blk.pa 64 then (s.recallFor (idOrris 0) true blk.pa 64, false)
        else (s.endKv t c blk 0 (kvFail inner), true)
      | (s, .error (f, _)) => if f.held.isSome then (s, false) else (finish' s, true)
      | (s, _) => (finish' s, true)
/-- A mapped-scratch chunk is given up. -/
def dropChunk (s : State) (t : Nat) (va : W64) : State :=
  s.modTask t fun T => { T with maps := T.maps.map fun m =>
    { m with dirty := m.dirty.filter fun c => chunkVa m c != va } }

/-- What an acknowledgement does; false while a completion operation or a KV command's outputs wait for their line. -/
def ackAct (s : State) (op : Nat) (e : Entry) : State × Bool :=
  match e.target with
  | .group g en => (if op = 2 then s.killTask (g / 16) e.cause else s.ackGroup g en (op == 1), true)
  | .keystone k t => (if op = 2 then s.killTask t e.cause else s.ackKs k t (op == 1), true)
  | .launch l =>
    if op = 0 then
      match s.launches.get? l with
      | some L => s.completeSem l L
      | none => (s, true)
    else ({ s with launches := s.launches.erase l }, true)
  | .reject | .watch => (s, true)
  | .channel t n v =>
    let ch := Chan.team t n
    ((if op = 4 then s.failCopy ch v e.cause else s).runChan ch, true)
  | .ksChannel k t v =>
    if s.ksHolds k t then
      let ch := Chan.key (s.ksKey k t)
      ((if op = 4 then s.failCopy ch v e.cause else s).runChan ch, true)
    else (s, true)
  | .matrix k t v =>
    if s.ksHolds k t then
      let key := s.ksKey k t
      let s := if op = 4 then s.endMatrix key v e.cause 0 [] else s
      (s.modKs key fun c => { c with mqStopped := false }, true)
    else (s, true)
  | .kv t v =>
    match if op = 4 then s.failKv t v e.cause else (s, true) with
    | (s, false) => (s, false)
    | (s, true) => (s.modTask t fun T => { T with kvStopped := false }, true)
  | .scratchWb t va => (if op = 4 then s.dropChunk t va else s, true)

/-- sys.fqack: the status, in the order of R239, and the effect. -/
def fqack (s : State) (die : Nat) (retry : Bool) (b op : Nat) : (State × Bool) × Nat :=
  let reg := if retry then 0x024 else 0x020
  let behind := (s.ringTail die reg + 2 ^ 32 - b) % 2 ^ 32
  if behind = 0 || 2 ^ s.ringLog die reg < behind then ((s, true), 3)
  else
    match s.ringEntry die retry b with
    | none => ((s, true), 3)
    | some e =>
      if !e.first then ((s, true), 2)
      else if e.acked || e.withdrawn then ((s, true), 1)
      else if !opValid retry op e then ((s, true), 2)
      else ((s.markAcked retry e).ackAct op e, 0)
/-- sys.fqack for an agent. -/
def fqackBy (s : State) (a : Agent) (h : Hdr) (f : NForm) (op : Nat) : State :=
  if !s.guardOnce a h then s.retire a h
  else
    let A := (readScl s a f.a false).toNat
    let b := (lo32 (readScl s a f.b false)).toNat
    let d := f.d.idx.toNat
    match s.fqack (A % 4) (A / 4 % 2 == 1) b op with
    | ((s1, true), st) => ((s1.writeScl a d false (BitVec.ofNat 64 st)).addBusy a [(1, d)] 1).retire a h
    | (_, _) =>
      match s.ringEntry (A % 4) (A / 4 % 2 == 1) b with
      | some e => match s.ackAct op e with
        | (s, _) => s.wait a .release
      | none => s
end State

/-- FAULT_SET_WRITE (R349, R351). -/
def execFaultSetWrite (die : Nat) (s : State) : Host.Outcome State Fault Refusal :=
  .next ((s.writeSet die false).writeSet die true)
/-- sys.fqack.retry (R239). -/
def execSysFqackRetry (h : Hdr) (f : NForm) (s : State) : Host.Outcome State Fault Refusal :=
  withAgent s fun a => s.fqackBy a h f 0
/-- sys.fqack.skip (R239). -/
def execSysFqackSkip (h : Hdr) (f : NForm) (s : State) : Host.Outcome State Fault Refusal :=
  withAgent s fun a => s.fqackBy a h f 1
/-- sys.fqack.kill (R239, R357). -/
def execSysFqackKill (h : Hdr) (f : NForm) (s : State) : Host.Outcome State Fault Refusal :=
  withAgent s fun a => s.fqackBy a h f 2
/-- sys.fqack.resume (R239). -/
def execSysFqackResume (h : Hdr) (f : NForm) (s : State) : Host.Outcome State Fault Refusal :=
  withAgent s fun a => s.fqackBy a h f 3
/-- sys.fqack.fail (R239). -/
def execSysFqackFail (h : Hdr) (f : NForm) (s : State) : Host.Outcome State Fault Refusal :=
  withAgent s fun a => s.fqackBy a h f 4

/-! sys.idle (R236). -/
/-- sys.idle: status 0 when a ring holds records; else it waits, and its wake gives the cause. -/
def execSysIdle (h : Hdr) (f : NForm) (s : State) : Host.Outcome State Fault Refusal :=
  withAgent s fun a =>
    let d := f.d.idx.toNat
    let done := fun (n : Nat) => ((s.writeScl a d false (BitVec.ofNat 64 n)).addBusy a [(1, d)] 1).retire a h
    match s.stOf a with
    | .waiting (.idle _ _ _ (some c)) => done c
    | .waiting (.idle _ _ _ none) => s
    | _ =>
      if !s.guardOnce a h then s.retire a h
      else if s.ringsWaiting (s.dieOf a) then done 0
      else
        let lim := (lo32 (readScl s a f.a false)).toNat
        s.wait a (.idle (if lim = 0 then none else some (s.clk + lim)) (s.ringTail (s.dieOf a) 0x020)
          (s.ringTail (s.dieOf a) 0x024) none)
/-- SYS_IDLE_WAKE (R236). -/
def execSysIdleWake (a : Agent) (s : State) : Host.Outcome State Fault Refusal :=
  .next (match s.stOf a with
    | .waiting (.idle lim ft rt none) =>
      let causes := (if s.ringTail (s.dieOf a) 0x020 != ft then [1] else []) ++
        (if s.ringTail (s.dieOf a) 0x024 != rt then [2] else []) ++ (if lim.any fun c => c ≤ s.clk then [3] else [])
      match causes with
      | [] => s
      | c :: cs =>
        let (c, s) := pickFrom s (c :: cs) c
        s.wait a (.idle lim ft rt (some c))
    | _ => s)

/-! Watches and leases (R166, R167). -/
/-- The first watch of a slice in registration order that is marked leaves, one per store clock. -/
def State.wakeWatch (s : State) (slice : Nat) : State :=
  match s.watches.find? fun w => w.slice == slice && w.cause.isSome && !w.woken with
  | some x =>
    if s.wakeAt.get? slice = some s.storeClk then s
    else { s with watches := s.watches.map (fun w => if w.id = x.id then { w with woken := true } else w)
                  wakeAt := s.wakeAt.set slice s.storeClk }
  | none => s
/-- WATCH_WAKE (R167). -/
def execWatchWake (slice : Nat) (s : State) : Host.Outcome State Fault Refusal := .next (s.wakeWatch slice)
/-- WAIT_ADDR_TIMEOUT (R167). -/
def execWaitAddrTimeout (id : Nat) (s : State) : Host.Outcome State Fault Refusal :=
  .next { s with watches := s.watches.map fun w =>
    if w.id = id && w.cause.isNone && w.expiry.any (fun c => c ≤ s.clk) then { w with cause := some 3, woken := true } else w }
/-- LINE_LEASE_EXPIRY (R166). -/
def execLineLeaseExpiry (grp line : Nat) (s : State) : Host.Outcome State Fault Refusal :=
  .next (if ((s.grps.get? grp).map fun G => G.leases.any fun l => l.line == line && l.expiry ≤ s.clk) == some true then
      s.returnLease grp line else s)

end Sys2Proof.Machine
end

