-- ==== Sys2Proof/Machine/Residency.lean ====
section
/-! DEFINITION. Residency: rs.hint, rs.evict and rs.qry (R198-R200), residency contracts (R328-R334), ageing (R330) and the
windows of traffic regulation (R337). -/
namespace Sys2Proof.Machine

namespace State
/-! Ranges of lines. -/
/-- The physical runs of a virtual range, page by page, and the faults of the pages that have one. -/
def rangeRuns (s : State) (a : Agent) : List (Nat × Nat) → State × List PRun × List (XFault × W64)
  | [] => (s, [], [])
  | (va, n) :: rest =>
    match s.translate (s.asidOf a) (s.supOf a) (BitVec.ofNat 64 va) .read with
    | (s, .error f) =>
      let (s, rs, fs) := rangeRuns s a rest
      (s, rs, (f, BitVec.ofNat 64 va) :: fs)
    | (s, .ok x) =>
      let (s, rs, fs) := rangeRuns s a rest
      (s, { pa := x.pa, n := n, grain := x.grain, pol := x.pol } :: rs, fs)
def pagesIn (va : W64) (n : Nat) : List (Nat × Nat) := cutPages (n / 4096 + 2) va.toNat n
/-- The lines that runs touch, each once. -/
def runLines (rs : List PRun) : List Nat := (rs.flatMap fun r => linesIn r.pa r.n).eraseDups

/-! rs.hint (R198). -/
/-- A hint on one line: CACHE and KV lines only. -/
def hintLine (s : State) (kind line : Nat) : State :=
  let c := (s.arrAt (line * 128)).cls
  if c != 0 && c != 2 then s
  else
    match kind with
    | 0 => { s with lines := s.lines.update line fun L => { L with recency := s.clk, freq := 7 } }
    | 1 => { s with lines := s.lines.update line fun L => { L with recency := 0, freq := 0 } }
    | _ => if regionOf (line * 128) = .hbm && (s.lines.get? line).isNone then s.touchLine line false .dflt else s
/-- A hint on the lines of a range; pages that fault are skipped. -/
def hintRange (s : State) (a : Agent) (h : Hdr) (f : NForm) (kind : Nat) : State :=
  if s.guardOnce a h then
    let (s, rs, fs) := s.rangeRuns a (pagesIn (readScl s a f.a true) (lo32 (readScl s a f.b false)).toNat)
    match fs.findSome? fun x => x.1.held with
    | some w => s.wait a w
    | none => ((runLines rs).foldl (fun (s : State) l => s.hintLine kind l) s).retire a h
  else s.retire a h

/-! rs.evict (R199). -/
/-- Write back a line; with inv it leaves its slice unless a PIN contract holds it. -/
def evictLine (s : State) (inv : Bool) (line : Nat) : State :=
  let s := { s with lines := s.lines.update line fun L => { L with dirty := false } }
  if inv && (s.arrAt (line * 128)).cls != 1 && (s.lines.get? line).isSome then s.dropLine line else s
/-- rs.evict on a range: precise faults, or every line but the store-only ones; D says whether one was skipped. -/
def evict (s : State) (a : Agent) (h : Hdr) (f : NForm) (inv : Bool) : State :=
  if s.guardOnce a h then
    match s.rangeRuns a (pagesIn (readScl s a f.a true) (lo32 (readScl s a f.b false)).toNat) with
    | (s, rs, []) =>
      let ls := runLines rs
      let skipped := ls.any fun l => regionOf (l * 128) = .storeOnly
      let s := (ls.filter fun l => regionOf (l * 128) != .storeOnly).foldl (fun (s : State) l => s.evictLine inv l) s
      let d := f.d.idx.toNat
      ((s.writeScl a d false (if skipped then 1#64 else 0#64)).addBusy a [(1, d)] 1).retire a h
    | (s, _, fs) => s.raiseLanes a .read (some (s.maskOfAgent a)) (fs.map fun b => laneFault 0 b.1 b.2)
  else s.retire a h

/-! rs.qry (R200, R334). -/
/-- The contract fields that rs.qry may report of an address: the new ones, and the old ones in a transition. -/
def qryFields (s : State) (pa : Nat) : List (W32 × Nat) :=
  match s.contractAt pa with
  | none => [(0xFFFFFFFF#32, 0)]
  | some i =>
    let new := (BitVec.ofNat 32 i, (s.contractWord i 2).toNat % 4)
    match s.contractFrom.get? i with
    | none => [new]
    | some (old, _) =>
      let before : W32 × Nat := match old with
        | w2 :: _ => (BitVec.ofNat 32 i, w2.toNat % 4)
        | [] => (0xFFFFFFFF#32, 0)
      if s.contractSt i = 2 then [before, (0xFFFFFFFF#32, 0)] else [before, new]
/-- Word D+1 of rs.qry. -/
def qryWord (s : State) (pa cls : Nat) : Nat :=
  let L := s.lines.get? (pa / 128)
  let dirty := (L.map (·.dirty)).getD false && regionOf pa != .storeOnly
  cls + 4 * L.isSome.toNat + 8 * dirty.toNat + 16 * (s.lostAt (pa / 128 * 128) 128).toNat
end State

/-- rs.hint.keep (R198). -/
def execRsHintKeep (h : Hdr) (f : NForm) (s : State) : Host.Outcome State Fault Refusal :=
  withAgent s fun a => s.hintRange a h f 0
/-- rs.hint.drop (R198). -/
def execRsHintDrop (h : Hdr) (f : NForm) (s : State) : Host.Outcome State Fault Refusal :=
  withAgent s fun a => s.hintRange a h f 1
/-- rs.hint.fetch (R198). -/
def execRsHintFetch (h : Hdr) (f : NForm) (s : State) : Host.Outcome State Fault Refusal :=
  withAgent s fun a => s.hintRange a h f 2
/-- rs.evict (R199). -/
def execRsEvict (h : Hdr) (f : NForm) (s : State) : Host.Outcome State Fault Refusal :=
  withAgent s fun a => s.evict a h f false
/-- rs.evict.inv (R199). -/
def execRsEvictInv (h : Hdr) (f : NForm) (s : State) : Host.Outcome State Fault Refusal :=
  withAgent s fun a => s.evict a h f true

/-- rs.qry (R200). -/
def execRsQry (h : Hdr) (f : NForm) (s : State) : Host.Outcome State Fault Refusal :=
  withAgent s fun a =>
    if s.guardOnce a h then
      let va := readScl s a f.a true
      match s.translate (s.asidOf a) (s.supOf a) va .read with
      | (s, .error x) => s.raiseAt a .read x va
      | (s, .ok x) =>
        let ((idx, cls), s) := pickFrom s (s.qryFields x.pa) (0xFFFFFFFF#32, 0)
        let d := f.d.idx.toNat
        let home := s.homeOf x.pa
        let word := s.qryWord x.pa cls
        let s := s.writeScl a d true (pairOf idx (BitVec.ofNat 32 word))
        let s := s.writeScl a (d + 2) true (pairOf (BitVec.ofNat 32 home) (BitVec.ofNat 32 x.grain))
        (s.addBusy a [(1, d), (1, d + 1), (1, d + 2), (1, d + 3)] 1).retire a h
    else s.retire a h

/-! Contract requests (R331, R332). -/
/-- Bits of a contract word that a write sets (R328). -/
def contractMask (j : Nat) : W64 :=
  match j with
  | 0 => 0x000FFFFFFFE00001#64
  | 1 => 0x000FFFFFFFE00000#64
  | 2 => 0x73FF#64
  | _ => 0xFFFF#64

/-- A range wholly in one row that a class accepts (R329). -/
def classRange (cls lo hi : Nat) : Bool :=
  let hbm := hi ≤ 2 ^ 39
  let store := 2 ^ 40 ≤ lo && hi ≤ 2 ^ 40 + 2560 * 2 ^ 20
  let host := 2 ^ 44 ≤ lo && hi ≤ 2 ^ 45
  match cls with
  | 1 => hbm || store
  | 2 => hbm
  | _ => hbm || host

/-- Check 4 of R332: the fields of an entry do not fit together. -/
def contractBad (lo hi : Nat) (w2 w3 : W64) : Bool :=
  let a := arrangementOf 0 w2 w3
  a.place == 3 || a.repl == 3 || hi ≤ lo || !classRange a.cls lo hi || (a.place == 0 && a.pid != 0) ||
    (a.place == 1 && 3 < a.pid) ||
    (match a.cls with
      | 1 => a.repl != 0 || a.quota != 0
      | 2 => a.repl != 2 || a.quota == 0
      | 3 => a.repl != 0
      | _ => 1 < a.repl)

/-- Whether an arrangement places a line on a slice. -/
def placedOn (a : Arrangement) (slice : Nat) : Bool :=
  match a.place with
  | 1 => dieOfSlice slice == a.pid
  | 2 => quadOfSlice slice == a.pid
  | _ => true
/-- Bytes that an arrangement reserves at a slice (R329). -/
def reservedAt (a : Arrangement) (bytes slice : Nat) : Nat :=
  if !placedOn a slice then 0
  else
    match a.cls with
    | 1 => bytes / (match a.place with | 1 => 64 | 2 => 16 | _ => 256)
    | 2 => State.shareBytes a
    | _ => 0

namespace State
/-- The range of an entry whose words are given. -/
def rangeOfWords (w0 w1 : W64) : Nat × Nat :=
  (w0.toNat / 2 ^ 21 % 2 ^ 31 * 2 ^ 21, (w1.toNat / 2 ^ 21 % 2 ^ 31 + 1) * 2 ^ 21)
/-- The arrangements with which an entry counts in check 2 (R334). -/
def countedArrs (s : State) (i : Nat) : List Arrangement :=
  let now := arrangementOf i (s.contractWord i 2) (s.contractWord i 3)
  match s.contractFrom.get? i with
  | some ([w2, w3], _) => if s.contractSt i = 2 then [now] else [arrangementOf i w2 w3, now]
  | _ => [now]
/-- Entries that are valid or in transition. -/
def heldEntries (s : State) : List Nat :=
  s.contractEntries.filter fun i => (s.contractWord i 0).getLsbD 0 || s.contractSt i != 0
/-- Bytes reserved at a slice by the entries but one (R332, R334). -/
def reservedBy (s : State) (i slice : Nat) : Nat :=
  (s.heldEntries.filter (· != i)).foldl (fun n j =>
    let r := s.contractRange j
    (s.countedArrs j).foldl (fun n a => n + reservedAt a (r.2 - r.1) slice) n) 0
/-- Whether a range holds bytes of a prefix tree. -/
def holdsTree (s : State) (lo hi : Nat) : Bool :=
  s.heldTrees.any fun t => rangesMeet lo (hi - lo) (s.treePool t).1 (s.treePool t).2 ||
    rangesMeet lo (hi - lo) (s.treeArea t).1 (s.treeArea t).2

/-- The error code of an install or a change, 0 when it is accepted (R332). -/
def contractError (s : State) (i : Nat) (change : Bool) (w0 w1 w2 w3 : W64) : Nat :=
  let (lo, hi) := rangeOfWords w0 w1
  let new := arrangementOf i w2 w3
  let old := arrangementOf i (s.contractWord i 2) (s.contractWord i 3)
  if contractBad lo hi w2 w3 then 4
  else if change && (regionOf lo = .storeOnly || (old.cls == 2 && s.holdsTree lo hi)) then 6
  else if (s.heldEntries.filter (· != i)).any fun j => let r := s.contractRange j; rangesMeet lo (hi - lo) r.1 (r.2 - r.1) then 3
  else if (List.range 256).any fun k => 9437184 < s.reservedBy i k + reservedAt new (hi - lo) k then 2
  else 0

/-- Word 2 with ERR and ST. -/
def setErrSt (s : State) (i err st : Nat) : State :=
  let w := s.contractWord i 2 &&& 0x73FF#64
  s.setCtl (0x400 + 4 * i + 2) (w ||| BitVec.ofNat 64 (err * 2 ^ 28 + st * 2 ^ 24))
/-- Start a transition: the words written, the old arrangement kept until the last line has moved. -/
def startContract (s : State) (i j : Nat) (v : W64) (old : List W64) (st : Nat) : State :=
  let s := s.setCtl (0x400 + 4 * i + j) v
  ({ s with contractFrom := s.contractFrom.set i (old, []) }).setErrSt i 0 st

/-- A write of word 0 with V = 1 to an invalid entry: install (R331). -/
def contractInstall (s : State) (i : Nat) (v : W64) : State :=
  let w0 := v &&& contractMask 0
  match s.contractError i false w0 (s.contractWord i 1) (s.contractWord i 2) (s.contractWord i 3) with
  | 0 => s.startContract i 0 w0 [] 1
  | e => s.setErrSt i e 0
/-- A write of word 2 or 3 of a valid entry at rest: change. -/
def contractChange (s : State) (i j : Nat) (v : W64) : State :=
  let w := v &&& contractMask j
  let w2 := if j = 2 then w else s.contractWord i 2
  let w3 := if j = 3 then w else s.contractWord i 3
  match s.contractError i true (s.contractWord i 0) (s.contractWord i 1) w2 w3 with
  | 0 => s.startContract i j w [s.contractWord i 2, s.contractWord i 3] 1
  | e => s.setErrSt i e 0
/-- A write of word 0 with V = 0 to a valid entry at rest: removal. -/
def contractRemoval (s : State) (i : Nat) (v : W64) : State :=
  let (lo, hi) := s.contractRange i
  if (s.contractWord i 2).toNat % 4 = 2 && s.holdsTree lo hi then s.setErrSt i 6 0
  else s.startContract i 0 (v &&& contractMask 0) [s.contractWord i 2, s.contractWord i 3] 2

/-- A write of word j of entry i (R331). -/
def contractWrite (s : State) (i j : Nat) (v : W64) : State :=
  if s.contractSt i != 0 then s.setErrSt i 1 (s.contractSt i)
  else if !(s.contractWord i 0).getLsbD 0 then
    if j = 0 && v.getLsbD 0 then s.contractInstall i v
    else
      let err := s.contractWord i 2 &&& 0xF0000000#64
      s.setCtl (0x400 + 4 * i + j) ((v &&& contractMask j) ||| (if j = 2 then err else 0#64))
  else if j = 2 || j = 3 then s.contractChange i j v
  else if j = 1 || (v ^^^ s.contractWord i 0) &&& 0x000FFFFFFFE00000#64 != 0#64 then s.setErrSt i 5 0
  else if v.getLsbD 0 then s
  else s.contractRemoval i v

/-- USED of an entry (R328). -/
def contractUsed (s : State) (i : Nat) : Nat :=
  let (lo, hi) := s.contractRange i
  if (s.contractWord i 0).getLsbD 0 || s.contractSt i != 0 then
    ((s.lines.filter fun p => lo ≤ p.1 * 128 && p.1 * 128 < hi).length * 128 + 65535) / 65536
  else 0
/-- A read of word j of entry i. -/
def contractRead (s : State) (i j : Nat) : W64 :=
  if j = 3 then (s.contractWord i 3 &&& 0xFFFF#64) ||| BitVec.ofNat 64 (s.contractUsed i % 2 ^ 16 * 2 ^ 32)
  else s.contractWord i j

/-! Lines that move (R333). -/
/-- The data of a line passes, is written to HBM and dropped, or is discarded. -/
def leaveOld (s : State) (line : Nat) (new : Arrangement) (oldHome newHome : Nat) : State :=
  match s.lines.get? line with
  | none => s
  | some L =>
    if regionOf (line * 128) = .storeOnly && new.cls != 1 then
      (s.memWrite (line * 128) (List.replicate 128 0#8) 32 0 .dflt).1.dropLine line
    else if oldHome != newHome then (if new.cls = 1 || new.cls = 2 then s else s.dropLine line)
    else if L.dirty then s.dropLine line else s
/-- One line of a range in transition moves as one step. -/
def moveLine (s : State) (i line : Nat) : State :=
  match s.contractFrom.get? i with
  | none => s
  | some (from', moved) =>
    let (lo, hi) := s.contractRange i
    let pa := line * 128
    if pa < lo || hi ≤ pa || moved.contains line then s
    else if s.dirConflict noAgentId false pa 128 then s.recallFor noAgentId false pa 128
    else
      let after : State := { s with contractFrom := s.contractFrom.set i (from', NatSet.insert moved line) }
      let old := s.arrAt pa
      let new := after.arrAt pa
      let oldHome := s.homeOf pa
      let newHome := after.homeOf pa
      let s := if old.cls != new.cls || oldHome != newHome then
          s.dropWatches fun w => w.grain < pa + 128 && pa < w.grain + w.size else s
      let s := s.leaveOld line new oldHome newHome
      let top := max (s.mts.getD newHome 0) (s.mts.getD oldHome 0)
      let s := if oldHome != newHome then { s with mts := s.mts.put 0 newHome top } else s
      let s := { s with contractFrom := s.contractFrom.set i (from', NatSet.insert moved line) }
      let s := if new.cls = 1 && (s.lines.get? line).isNone then s.touchLine line false .dflt else s
      if (hi - lo) / 128 ≤ moved.length + 1 then
        ({ s with contractFrom := s.contractFrom.erase i }).setErrSt i 0 0
      else s
end State

/-- CONTRACT_INSTALL (R331). -/
def execContractInstall (entry : Nat) (v : W64) (s : State) : Host.Outcome State Fault Refusal :=
  .next (if entry < 256 && v.getLsbD 0 && !(s.contractWord entry 0).getLsbD 0 then s.contractWrite entry 0 v else s)
/-- CONTRACT_CHANGE (R331). -/
def execContractChange (entry word : Nat) (v : W64) (s : State) : Host.Outcome State Fault Refusal :=
  .next (if entry < 256 && (word = 2 || word = 3) && (s.contractWord entry 0).getLsbD 0 then s.contractWrite entry word v else s)
/-- CONTRACT_REMOVAL (R331). -/
def execContractRemoval (entry : Nat) (v : W64) (s : State) : Host.Outcome State Fault Refusal :=
  .next (if entry < 256 && !v.getLsbD 0 && (s.contractWord entry 0).getLsbD 0 then s.contractWrite entry 0 v else s)
/-- CONTRACT_LINE_MOVE (R333). -/
def execContractLineMove (entry line : Nat) (s : State) : Host.Outcome State Fault Refusal := .next (s.moveLine entry line)

/-- FREQUENCY_AGE_HALVING (R330). -/
def execFrequencyAgeHalving (slice : Nat) (s : State) : Host.Outcome State Fault Refusal :=
  .next { s with lines := s.lines.mapVal fun l L => if s.homeOf (l * 128) = slice then { L with freq := L.freq / 2 } else L }

/-! Traffic windows (R336, R337). -/
/-- The injection ports of a die for a class: its cores, slices or clusters. -/
def portsOf (die cls : Nat) : List Nat :=
  match cls with
  | 0 => (List.range 48).map (48 * die + ·)
  | 1 => (List.range 64).map (64 * die + ·)
  | 2 => (List.range 12).map (12 * die + ·)
  | _ => []
/-- The store clocks of a traffic window as a register gives them (R337): values below 16 act as 16. -/
def winOf (v : W64) : Nat := max 16 (v.toNat / 2 ^ 32 % 2 ^ 16)
/-- The length of the windows of a die's ports for a class. -/
def State.windowLength (s : State) (die cls : Nat) : Nat := s.trafficWin.getD (die * 4 + cls) 0x100
/-- TRAFFIC_WINDOW_START (R337): the limit and the length of the register hold from here, and nothing is injected yet. -/
def execTrafficWindowStart (die cls : Nat) (s : State) : Host.Outcome State Fault Refusal :=
  .next (
    let limit := (s.mmioReg (0x10000 + 0x100 * die + 8 * cls)).toNat % 2 ^ 32
    { s with
      trafficWin := s.trafficWin.put 0x100 (die * 4 + cls) (winOf (s.mmioReg (0x10000 + 0x100 * die + 8 * cls)))
      trafficUse := (portsOf die cls).foldl (fun m p =>
        if limit = 0 then Assoc.erase m (cls * 1000 + p) else Assoc.set m (cls * 1000 + p) (limit, 0)) s.trafficUse })

end Sys2Proof.Machine
end

