-- ==== Sys2Proof/Machine/System.lean ====
section
/-! DEFINITION. Class 0xE (R227-R243): control registers and their writes, the control and MMIO window (R337, R419, R426),
sys.rfe, sys.tlbi, sys.halt, masking, semaphore signals, directory query and reclaim, and watches. -/
namespace Sys2Proof.Machine

/-! Control registers (R229-R234). -/
/-- Extents of a register. -/
inductive Extent | group | core | die | package
  deriving DecidableEq, Repr
/-- Access at a privilege. -/
inductive RegAccess | none | ro | rw
  deriving DecidableEq, Repr
/-- A row of the register table: access at user and at supervisor privilege, extent, the bits that a write sets and those
that a write of 1 clears (R11, R229). -/
structure CtlRow where
  user : RegAccess
  sup : RegAccess
  ext : Extent
  rw' : W64
  w1c : W64
  deriving DecidableEq, Repr

/-- The register table (R229) with the writable fields of each layout. -/
def ctlRow (n : Nat) : Option CtlRow :=
  let all := 0xFFFFFFFFFFFFFFFF#64
  let ring : CtlRow := { user := .none, sup := .rw, ext := .die, rw' := 0x000FFFFFFFFFF81F#64, w1c := 0x400#64 }
  let ptr : CtlRow := { user := .none, sup := .rw, ext := .die, rw' := 0xFFFFFFFF00000000#64, w1c := 0#64 }
  let pkg := fun (u : RegAccess) (m : W64) => some { user := u, sup := .rw, ext := .package, rw' := m, w1c := 0#64 : CtlRow }
  if n = 0x000 then some { user := .rw, sup := .rw, ext := .group, rw' := 0xF837#64, w1c := 0x7C0#64 }
  else if n = 0x001 then some { user := .rw, sup := .rw, ext := .group, rw' := 0xFFFF1FFF#64, w1c := 0#64 }
  else if n = 0x008 then some { user := .none, sup := .rw, ext := .group, rw' := all, w1c := 0#64 }
  else if n = 0x009 then some { user := .none, sup := .rw, ext := .group, rw' := 0x33F#64, w1c := 0#64 }
  else if n = 0x00A then pkg .none (~~~0xF#64)
  else if n = 0x010 then pkg .ro 0xFFFFFF#64
  else if 0x018 ≤ n && n ≤ 0x01B then pkg .ro all
  else if n = 0x020 || n = 0x024 then some ring
  else if n = 0x021 || n = 0x025 then some ptr
  else if n = 0x030 then pkg .none 0x000FFFFFFFFFF01F#64
  else if n = 0x038 then pkg .none 0x000FFFFFFFE0FF01#64
  else if n = 0x040 then pkg .none 0xFFFFFFFF#64
  else if n = 0x048 then pkg .none 0xFFFFF#64
  else if n = 0x050 then some { user := .none, sup := .ro, ext := .core, rw' := 0#64, w1c := 0#64 }
  else if n = 0x060 then some { user := .ro, sup := .ro, ext := .package, rw' := 0#64, w1c := 0#64 }
  else if 0x400 ≤ n && n < 0x800 then pkg .none all
  else none

/-- Registers of 64 bits (R229). -/
def ctlWide (n : Nat) : Bool :=
  n == 0x008 || n == 0x00A || (0x018 ≤ n && n ≤ 0x01B) || n == 0x020 || n == 0x021 || n == 0x024 || n == 0x025 ||
    n == 0x030 || n == 0x038 || (0x400 ≤ n && n < 0x800)

/-- A write into a register's fields (R11). -/
def mergeReg (r : CtlRow) (old v : W64) : W64 := ((old &&& ~~~r.rw') ||| (v &&& r.rw')) &&& ~~~(v &&& r.w1c)

/-- The fault of naming a register: cause and sub-cause (R229). -/
def ctlFault (r : Option CtlRow) (ks sup write : Bool) : Option (Nat × Nat) :=
  match r with
  | none => some (2, 3)
  | some r =>
    let acc := if sup then r.sup else r.user
    if ks && (r.ext == .group || r.ext == .core) then some (2, 3)
    else if acc == .none then some (3, 0)
    else if write && acc == .ro then some (2, 3)
    else none

namespace State
/-- HEALTH (R429). -/
def healthWord (s : State) : W64 :=
  let down := (s.links.filter fun p => !p.2.up || p.2.lanes < 8).length
  let iso := (s.cores.filter fun p => p.2.isolated).length
  BitVec.ofNat 64 (s.health.repl.toNat * 2 ^ 31 + s.health.retired.length % 256 * 2 ^ 16 + iso % 256 * 2 ^ 8 +
    down % 32 * 2 ^ 3 + s.health.st % 4)
/-- WATCH of a core (R243). -/
def watchWord (s : State) (core : Nat) : W64 :=
  BitVec.ofNat 64 ((List.range 4).foldl (fun n k => n + (if ((s.core core).watch.get? k).isSome then 2 ^ k else 0)) 0)

/-- A group's register (R229). -/
def groupReg (G : Group) (n : Nat) : W64 :=
  if n = 0x000 then G.fpctl.setWidth 64
  else if n = 0x001 then G.leasectl.setWidth 64
  else if n = 0x008 then G.trappc
  else G.trapst.setWidth 64
/-- A write of TRAPST moves INH: with INH = 1 the writer runs the handler and the other fragments are kept out; with INH = 0
they go on (R232). -/
def setTrapst (G : Group) (e : Nat) (v : W32) : Group :=
  let G1 := { G with trapst := v }
  if v.getLsbD 9 then
    { G1 with frags := G.frags.mapVal fun j X =>
        if j = e then { X with handler := true } else X.trapOut }
  else { G1 with frags := G.frags.mapVal fun _ X => X.trapIn }
def setGroupReg (G : Group) (e n : Nat) (v : W64) : Group :=
  if n = 0x000 then { G with fpctl := lo32 v }
  else if n = 0x001 then { G with leasectl := lo32 v }
  else if n = 0x008 then { G with trappc := v }
  else setTrapst G e (lo32 v)

/-- A register that no group holds, as a core sees it. -/
def readCtl (s : State) (core n : Nat) : W64 :=
  if n = 0x050 then s.watchWord core
  else if n = 0x060 then s.healthWord
  else if 0x400 ≤ n && n < 0x800 then s.contractRead ((n - 0x400) / 4) ((n - 0x400) % 4)
  else
    match ctlRow n with
    | some r => if r.ext == .die then s.ctlReg (dieReg (dieOfCore core) n) else s.ctlReg n
    | none => 0#64
/-- A write to a register that no group holds, from a die (R233): a contract word follows R331, and FPGATE sets every
core's F (R267). -/
def writeCtl (s : State) (die n : Nat) (v : W64) : State :=
  if 0x400 ≤ n && n < 0x800 then s.contractWrite ((n - 0x400) / 4) ((n - 0x400) % 4) v
  else
    match ctlRow n with
    | none => s
    | some r =>
      match r.ext with
      | .group | .core => s
      | .die => s.setCtl (dieReg die n) (mergeReg r (s.ctlReg (dieReg die n)) v)
      | .package =>
        let s := s.setCtl n (mergeReg r (s.ctlReg n) v)
        if n = 0x040 then (List.range 192).foldl (fun (s : State) c => s.modCore c fun C => { C with f := s.fdef }) s else s

/-- sys.rd and sys.wr for an agent. -/
def readCtlFor (s : State) (a : Agent) (n : Nat) : W64 :=
  match a with
  | .frag g _ =>
    match ctlRow n, s.grps.get? g with
    | some r, some G => if r.ext == .group then groupReg G n else s.readCtl (s.coreOf a) n
    | _, _ => s.readCtl (s.coreOf a) n
  | .ks _ => s.readCtl (s.coreOf a) n
def writeCtlFor (s : State) (a : Agent) (n : Nat) (v : W64) : State :=
  match a, ctlRow n with
  | .frag g e, some r =>
    if r.ext == .group then s.modGrp g fun G => setGroupReg G e n (mergeReg r (groupReg G n) v)
    else s.writeCtl (s.dieOf a) n v
  | _, _ => s.writeCtl (s.dieOf a) n v
end State

namespace State
/-- The records that TAIL releases are passed on with a read of it (R349). -/
def seeTail (s : State) (a : Agent) (n : Nat) : State :=
  if n = 0x021 || n = 0x025 then s.noteSeen a (s.maskOfAgent a) (s.tailTs.getD (dieReg (s.dieOf a) n) 0) else s
end State

/-- Whether an agent is a Keystone context. -/
def onKeystone : Agent → Bool
  | .frag _ _ => false
  | .ks _ => true

/-- sys.rd (R229, R234). -/
def execSysRd (h : Hdr) (f : IForm) (s : State) : Host.Outcome State Fault Refusal :=
  withAgent s fun a =>
    if !s.guardOnce a h then s.retire a h
    else
      let n := f.imm.toNat % 2 ^ 12
      match ctlFault (ctlRow n) (onKeystone a) (s.supOf a) false with
      | some (c, sub) => s.raisePlain a c sub
      | none =>
        let d := f.d.idx.toNat
        let ds := if ctlWide n then [(1, d), (1, d + 1)] else [(1, d)]
        (((s.seeTail a n).writeScl a d (ctlWide n) (s.readCtlFor a n)).addBusy a ds 1).retire a h
/-- sys.wr (R229, R233, R234). -/
def execSysWr (h : Hdr) (f : IForm) (s : State) : Host.Outcome State Fault Refusal :=
  withAgent s fun a =>
    if !s.guardOnce a h then s.retire a h
    else
      let n := f.imm.toNat % 2 ^ 12
      match ctlFault (ctlRow n) (onKeystone a) (s.supOf a) true with
      | some (c, sub) => s.raisePlain a c sub
      | none => (s.writeCtlFor a n (readScl s a f.a (ctlWide n))).retire a h

/-- FPGATE_WRITE (R267): a write of FPGATE sets every core's F. -/
def execFpgateWrite (v : W32) (s : State) : Host.Outcome State Fault Refusal := .next (s.writeCtl 0 0x040 (v.setWidth 64))
/-- TSLEASE_WRITE (R295). -/
def execTsleaseWrite (v : W32) (s : State) : Host.Outcome State Fault Refusal := .next (s.writeCtl 0 0x048 (v.setWidth 64))
/-- LOGICAL_TIME_TICK (R294). -/
def execLogicalTimeTick (core : Nat) (s : State) : Host.Outcome State Fault Refusal :=
  .next (s.modCore core fun C => { C with ct := C.ct + 1 })

/-! The control and MMIO window (R337, R352, R355, R375, R419, R426). -/
namespace State
/-- The bits of a word 0 to 5 of a prefix tree's descriptor that a write sets; the others are reserved (R375). -/
def treeMask (j : Nat) : W64 :=
  match j with
  | 0 => 0x000FFFFFFFE0001F#64
  | 1 => 0x1FFFFFF#64
  | 3 => 0x000FFFFFFFFFF000#64
  | 4 => 0xF00FFFFFF#64
  | _ => 0xFFFFFFFFFFFFFFFF#64
/-- A word of a prefix tree's descriptor (R375, R376). -/
def treeWrite (s : State) (n j : Nat) (v : W64) : State :=
  if j = 7 then s
  else if j = 6 then
    if v.getLsbD 0 then s.enableTree n v
    else if (s.treeWord n 6).getLsbD 0 then s.disableTree n
    else if (s.treeWord n 6).getLsbD 1 then s
    else s.setTreeCtl n false false ((s.treeWord n 6).toNat / 16 % 16) (v.toNat / 2 ^ 32 % 2 ^ 16)
  else if s.treeHeld n then s
  else s.setMmio (0x30000 + 64 * n + 8 * j) (v &&& treeMask j)
/-- A write of PUBREQ with BUSY = 0 starts a publication (R419). -/
def pubWrite (s : State) (v : W64) : State :=
  if s.pubBusy.isSome then s
  else
    { (s.setMmio 0x40000 (v &&& 0x000FFFFFFFFFFFFF#64)) with
      pubBusy := some (v.toNat / 2 ^ 12 % 2 ^ 40 * 2 ^ 12, v.toNat % 2 ^ 12 + 1) }
/-- A supervisor or host write of eight bytes at an offset of the window. -/
def mmioWrite (s : State) (off : Nat) (v : W64) : State :=
  if off % 8 != 0 then s
  else if 0x10000 ≤ off && off < 0x10400 then
    if off % 0x100 < 0x20 then s.setMmio off (v &&& 0x0000FFFFFFFFFFFF#64) else s
  else if 0x20000 ≤ off && off < 0x20400 then
    if off % 0x100 = 0 then s.preqWrite ((off - 0x20000) / 0x100) v
    else if off % 0x100 = 8 then s.setMmio off (v &&& 0x000FFFFFFFE0FFFF#64)
    else s
  else if 0x30000 ≤ off && off < 0x34000 then s.treeWrite ((off - 0x30000) / 64) ((off - 0x30000) / 8 % 8) v
  else if off = 0x40000 then s.pubWrite v
  else if 0x50000 ≤ off && off < 0x50800 then
    let o := off - 0x50000
    if ((s.queueHead (o / 0x200) (o % 0x200 / 8)).map QHead.en) == some true then s
    else s.setMmio off (v &&& 0x000FFFFFFFFFFFC0#64)
  else s

/-- The sectors of a range of frames that publication reaches (R420): those of executable-capable frames. -/
def rangeSectors (s : State) (base n : Nat) : List Nat :=
  ((List.range n).filter fun k => s.exc (base + 4096 * k)).flatMap fun k => (List.range 128).map fun j => (base + 4096 * k) / 32 + j
/-- The publication in progress takes effect and BUSY clears (R420): its time is the largest wts among the sectors. -/
def publishDone (s : State) : State :=
  match s.pubBusy with
  | none => s
  | some (base, n) =>
    let (s, p) := s.publish ((s.rangeSectors base n).map fun x => (x, (s.tsOf (x * 32) (s.ftGrain (x * 32))).1))
    { (s.raiseKt 0 .pkg p) with pubBusy := none }
end State

/-- CONTROL_REGISTER_WRITE (R233, R337): a write reaches the register it names. -/
def execControlRegisterWrite (r : RegLoc) (v : W64) (s : State) : Host.Outcome State Fault Refusal :=
  .next (match r with
    | .ctl die n => s.writeCtl die n v
    | .mmio off => s.mmioWrite off v)
/-- PUBREQ_WRITE (R419). -/
def execPubreqWrite (v : W64) (s : State) : Host.Outcome State Fault Refusal := .next (s.pubWrite v)
/-- PUBLICATION_COMPLETE (R420). -/
def execPublicationComplete (s : State) : Host.Outcome State Fault Refusal := .next s.publishDone

/-! sys.rfe, sys.tlbi, sys.halt. -/
/-- sys.rfe (R234): PC, privilege and INH as the entry saved them; the others are ready again. A TRAPPC whose bits 1:0 are
not zero raises misaligned (R12). -/
def execSysRfe (h : Hdr) (_f : NForm) (s : State) : Host.Outcome State Fault Refusal :=
  withAgent s fun a =>
    match a with
    | .ks _ => s.retire a h
    | .frag g e =>
      if !s.guardOnce a h then s.retire a h
      else
        let pc := ((s.grps.get? g).map (·.trappc)).getD 0#64
        if pc.toNat % 4 != 0 then s.raise a [s.mkRec a 4 0#32 pc (s.maskOfAgent a) 0]
        else
          let s := s.modGrp g fun G => G.rfe e
          s.goTo a h (s.pcOf a)

namespace State
/-- Cached entries are dropped: all, those of an address space, or those of one that cover an address (R235). A global leaf
belongs to address space 0 (R364). -/
def dropEntries (s : State) (asid va : Option Nat) : State :=
  match asid with
  | none => { s with ptes := [], xhist := [] }
  | some b =>
    { s with ptes := s.ptes.filter fun x => !(b == 0 && va.all fun v => x.lo ≤ v && v < x.lo + x.size)
             xhist := .drop b va :: s.xhist }
/-- Drop the entries that an invalidation names, then wait for what may hold one (R235). -/
def tlbi (s : State) (a : Agent) (h : Hdr) (asid va : Option Nat) : State :=
  match s.stOf a with
  | .waiting (.tlbi n ms cs) => if s.tlbiOver n ms cs then s.retire a h else s
  | _ =>
    if !s.guardOnce a h then s.retire a h
    else s.releaseThen a .pkg fun s =>
      let s := s.dropEntries asid va
      let ms := s.ks.flatMap fun k => (k.2.mq.filter (·.started)).map fun q => (k.1, q.value)
      let cs := s.allChans.flatMap fun ch => (s.getChan ch).cmds.flatMap fun c =>
        (c.chunks.zipIdx.filter fun x => match x.1 with
          | .executing _ _ _ => true
          | _ => false).map fun x => (ch, c.value, x.2)
      let n := s.nextId
      if s.tlbiOver n ms cs then s.retire a h else s.wait a (.tlbi n ms cs)
end State

/-- sys.tlbi.va (R235): entries of address space B that cover A. -/
def execSysTlbiVa (h : Hdr) (f : NForm) (s : State) : Host.Outcome State Fault Refusal :=
  withAgent s fun a =>
    let va := (readScl s a f.a true).toNat
    let asid := (lo32 (readScl s a f.b false)).toNat
    s.tlbi a h (some asid) (some va)
/-- sys.tlbi.as (R235): every entry of address space B. -/
def execSysTlbiAs (h : Hdr) (f : NForm) (s : State) : Host.Outcome State Fault Refusal :=
  withAgent s fun a =>
    let asid := (lo32 (readScl s a f.b false)).toNat
    s.tlbi a h (some asid) none
/-- sys.tlbi.all (R235). -/
def execSysTlbiAll (h : Hdr) (_f : NForm) (s : State) : Host.Outcome State Fault Refusal :=
  withAgent s fun a => s.tlbi a h none none

/-- An instruction that executes once and gives a status in one scalar register. -/
def statusOp (h : Hdr) (d : BitVec 8) (s : State) (k : Agent → State × Nat) : Host.Outcome State Fault Refusal :=
  withAgent s fun a =>
    if !s.guardOnce a h then s.retire a h
    else
      let (s, n) := k a
      ((s.writeScl a d.toNat false (BitVec.ofNat 64 n)).addBusy a [(1, d.toNat)] 1).retire a h

/-- sys.halt.core (R236). -/
def execSysHaltCore (h : Hdr) (f : NForm) (s : State) : Host.Outcome State Fault Refusal :=
  statusOp h f.d.idx s fun a =>
    let c := (lo32 (readScl s a f.a false)).toNat
    if 191 < c then (s, 3)
    else if (s.core c).removed then (s, 1)
    else (s.modCore c fun C => { C with removed := true }, 0)
/-- sys.halt.resume (R236). -/
def execSysHaltResume (h : Hdr) (f : NForm) (s : State) : Host.Outcome State Fault Refusal :=
  statusOp h f.d.idx s fun a =>
    let c := (lo32 (readScl s a f.a false)).toNat
    if 191 < c then (s, 3)
    else if (s.core c).isolated then (s, 2)
    else if !(s.core c).removed then (s, 1)
    else (s.modCore c fun C => { C with removed := false }, 0)

/-! Pre-emption masking (R237). -/
/-- D of pre.mask and pre.unmask. -/
def maskWord (T : Task) : Nat := T.mc + T.forced.toNat * 2 ^ 31
/-- pre.mask: MC rises, and from 0 it clears FORCED. -/
def Task.mask (T : Task) : Task := { T with mc := min (T.mc + 1) 255, forced := T.forced && T.mc != 0 }
/-- pre.unmask: MC falls. -/
def Task.unmask (T : Task) : Task := { T with mc := T.mc - 1 }
/-- A pre.mask in the clock in which a request arrives takes effect first: the request then meets MC above 0, and its timer
starts. -/
def State.maskFirst (s : State) (t : Nat) : State :=
  if s.preqNow t true then
    s.modTask t fun T => if T.mc != 0 && T.budget.isNone then { T with budget := some (s.clk + s.budgetClocks) } else T
  else s
/-- Masking for an agent's task; a task whose class is not maskable gives 0. -/
def State.maskBy (s : State) (a : Agent) (k : Task → Task) : State × Nat :=
  match s.taskIdOf a, s.taskOf a with
  | some t, some T =>
    if ((s.launchOf T).map (·.pcls)).getD 0 = 2 then ((s.modTask t k).maskFirst t, maskWord (k T)) else (s, 0)
  | _, _ => (s, 0)
/-- pre.mask (R237). -/
def execPreMask (h : Hdr) (f : NForm) (s : State) : Host.Outcome State Fault Refusal :=
  statusOp h f.d.idx s fun a => s.maskBy a Task.mask
/-- pre.unmask (R237). -/
def execPreUnmask (h : Hdr) (f : NForm) (s : State) : Host.Outcome State Fault Refusal :=
  statusOp h f.d.idx s fun a => s.maskBy a Task.unmask

/-! Semaphore signals (R238). -/
/-- The atomic of a signal's kind: set, add or max. -/
def sigOp (n : Nat) : Nat :=
  match n with
  | 0 => 0x07
  | 1 => 0x01
  | _ => 0x03
/-- sys.sig (R238): a released update of a 64-bit semaphore at its home, counted in ST. -/
def execSysSig (h : Hdr) (f : NForm) (s : State) : Host.Outcome State Fault Refusal :=
  withAgent s fun a =>
    if !s.guardOnce a h then s.retire a h
    else
      let va := readScl s a f.a true
      let spec : MemSpec :=
        { op := .atom (sigOp (f.op.toNat % 4)) .n64 false, space := .global, size := 8, order := .rel,
          scope := scopeOf (f.op.toNat / 4), pol := .dflt,
          lanes := [{ lane := 0, off := 0, addr := va.toNat, data := Memory.leBytes 8 (readScl s a f.b true).toNat, cmp := [] }],
          dst := none, regs := 2, part := 1#64, one := true, single := some (s.maskOfAgent a), counted := true,
          noted := false }
      s.memIssue a h spec []

/-! Directory query and reclaim (R240, R241). -/
namespace State
/-- The four words of sys.dirq for an address that this package homes (R240, R401). -/
def dirqWords (s : State) (pa : Nat) : State × List Nat :=
  let none' := noAgentId.toNat
  match s.dir.get? (pa / 64) with
  | none => (s, [0, none', 0, 64 + (s.poisonAt pa 1).toNat * 2 ^ 16])
  | some e =>
    let bytes := if e.whole then 128 else 64
    let marks := (if e.st = 6 || s.poisonAt pa 1 then 2 ^ 16 else 0) + (if e.st = 6 then 2 ^ 17 else 0) +
      (if e.st = 4 then 2 ^ 18 else 0)
    let (owner, s) := match e.st, e.owner with
      | 2, some o | 3, some o | 5, some o | 6, some o => (o.toNat, s)
      | 5, none => pickFrom s (e.asked.map (·.toNat) ++ if e.whole || e.asked.isEmpty then [none'] else []) none'
      | _, _ => (none', s)
    let n := match e.st with
      | 1 => e.sharers.length
      | 5 => e.asked.length
      | _ => 0
    (s, [e.st, owner, n, bytes + marks])

/-- The unit of an address that a loss may have marked: its first byte and length (R241, R406). -/
def lostUnit (s : State) (pa : Nat) : Nat × Nat :=
  match s.dir.get? (pa / 64) with
  | some e => if e.whole then (pa / 128 * 128, 128) else (pa / 64 * 64, 64)
  | none => (pa / 64 * 64, 64)
/-- The reclaiming step at the home: bytes set, marks cleared, no holder (R241). -/
def reclaim (s : State) (a : Agent) (pa : Nat) (bs : List Byte) : State :=
  let (base, n) := s.lostUnit pa
  let keep := fun (p : Nat) => p != base / 64 && !(n == 128 && p == base / 64 + 1)
  let s := ({ s with dir := s.dir.filter fun p => keep p.1 }).clearPoison base n
  let (s, v) := s.homeWrite base bs (s.ftGrain base) 0 .dflt (s.agentId a)
  s.noteVis a (s.maskOfAgent a) v
/-- sys.dirrc for an agent: status 2 for an address homed elsewhere, 1 for a unit that is not owner-lost, else the step
with the bytes given. -/
def dirrc (s : State) (a : Agent) (h : Hdr) (f : NForm) (bytes : State → Nat → Nat → State × List Byte) : State :=
  let pa := (readScl s a f.a true).toNat
  let d := f.d.idx.toNat
  let done := fun (s : State) (n : Nat) => ((s.writeScl a d false (BitVec.ofNat 64 n)).addBusy a [(1, d)] 1).retire a h
  if !s.homedHere pa then done s 2
  else
    let (base, n) := s.lostUnit pa
    if !(s.lostAt pa 1) then done s 1
    else
      let (s, bs) := bytes s base n
      done (s.reclaim a pa bs) 0
end State

/-- sys.dirq (R240). -/
def execSysDirq (h : Hdr) (f : NForm) (s : State) : Host.Outcome State Fault Refusal :=
  withAgent s fun a =>
    if !s.guardOnce a h then s.retire a h
    else
      let pa := (readScl s a f.a true).toNat
      let d := f.d.idx.toNat
      let (s, ws) := if s.homedHere pa then s.dirqWords pa else (s, [noAgentId.toNat, noAgentId.toNat, 0, 0])
      let s := (ws.zipIdx).foldl (fun (s : State) w => s.writeScl a (d + w.2) false (BitVec.ofNat 64 w.1)) s
      (s.addBusy a [(1, d), (1, d + 1), (1, d + 2), (1, d + 3)] 1).retire a h
/-- sys.dirrc.zero (R241). -/
def execSysDirrcZero (h : Hdr) (f : NForm) (s : State) : Host.Outcome State Fault Refusal :=
  withAgent s fun a =>
    if !s.guardOnce a h then s.retire a h else s.dirrc a h f fun s _ n => (s, List.replicate n 0#8)
/-- sys.dirrc.keep (R241). -/
def execSysDirrcKeep (h : Hdr) (f : NForm) (s : State) : Host.Outcome State Fault Refusal :=
  withAgent s fun a =>
    if !s.guardOnce a h then s.retire a h else s.dirrc a h f fun s base n => (s, s.mem.readBytes base n)
/-- sys.dirrc.copy (R241): B is aligned to the unit's length and readable; its faults are precise and change nothing. The
fragment's earlier writes take effect first, so that it reads them (R153, R289). -/
def execSysDirrcCopy (h : Hdr) (f : NForm) (s : State) : Host.Outcome State Fault Refusal :=
  withAgent s fun a =>
    if !s.guardOnce a h then s.retire a h
    else
      let pa := (readScl s a f.a true).toNat
      if !s.homedHere pa then s.dirrc a h f fun s _ n => (s, List.replicate n 0#8)
      else
        let va := readScl s a f.b true
        let n := (s.lostUnit pa).2
        if va.toNat % n != 0 then s.raiseAt a .read { cause := 4, code := 0, psize := 4096 } va
        else if !s.quiet a then s.wait a .release
        else
          match s.translate (s.asidOf a) (s.supOf a) va .read with
          | (s1, .error x) => s1.raiseAt a .read x va
          | (s1, .ok x) =>
            if s1.dirConflict (s.agentId a) false x.pa n then (s1.recallFor (s.agentId a) false x.pa n).wait a (.home x.pa n false)
            else
              match s1.homeError x.pa n .read with
              | some c => s1.raiseAt a .read { cause := c, code := 0, psize := x.size } va
              | none => s1.dirrc a h f fun s _ n =>
                  let (s, _, _, _) := s.homeRead x.pa n x.grain none x.pol (s.agentId a)
                  (s, s.seenBytes a x.pa n)

/-! Watches (R242, R243). -/
/-- Statuses of sys.watch that apply (R242). -/
def watchBad (va desc : Nat) : List Nat :=
  let n := desc / 2 ^ 8 % 2 ^ 5
  let core := desc / 2 ^ 16 % 2 ^ 8
  let rsv := desc / 2 ^ 24 != 0 || desc / 2 ^ 13 % 8 != 0 || desc / 2 ^ 5 % 8 != 0 || 12 < n
  (if va % 2 ^ n != 0 then [1] else []) ++ (if 191 < core && core != 255 then [2] else []) ++ (if rsv then [3] else [])
/-- sys.watch (R242): every target core arms or disarms the slot. -/
def execSysWatch (h : Hdr) (f : NForm) (s : State) : Host.Outcome State Fault Refusal :=
  statusOp h f.d.idx s fun a =>
    let va := readScl s a f.a true
    let desc := (lo32 (readScl s a f.b false)).toNat
    match watchBad va.toNat desc with
    | x :: xs =>
      let (n, s) := pickFrom s (x :: xs) x
      (s, n)
    | [] =>
      let slot := desc % 4
      let w : CWatch := { va := va, asid := (lo32 (readScl s a f.c false)).toNat, len := 2 ^ (desc / 2 ^ 8 % 2 ^ 5),
                          w := desc / 8 % 2 == 1, r := desc / 4 % 2 == 1 }
      let core := desc / 2 ^ 16 % 2 ^ 8
      let set := fun (C : Core) => { C with watch := if desc / 16 % 2 = 1 then C.watch.set slot w else C.watch.erase slot }
      ((if core = 255 then List.range 192 else [core]).foldl (fun (s : State) c => s.modCore c set) s, 0)
/-- Statuses of sys.swatch that apply (R243). -/
def swatchBad (s : State) (pa desc : Nat) : List Nat :=
  let k := desc / 2 ^ 4 % 4
  let len := 32 * 4 ^ k
  (if pa % len != 0 then [1] else []) ++ (if !s.homedHere pa then [2] else []) ++
    (if desc / 2 ^ 8 != 0 || k = 3 then [3] else [])
/-- sys.swatch (R243): the home slice of A arms or disarms the slot. -/
def execSysSwatch (h : Hdr) (f : NForm) (s : State) : Host.Outcome State Fault Refusal :=
  statusOp h f.d.idx s fun a =>
    let pa := (readScl s a f.a true).toNat
    let desc := (lo32 (readScl s a f.b false)).toNat
    match swatchBad s pa desc with
    | x :: xs =>
      let (n, s) := pickFrom s (x :: xs) x
      (s, n)
    | [] =>
      let key := s.homeOf pa * 16 + desc % 16
      let w : SWatch := { pa := pa, len := 32 * 4 ^ (desc / 2 ^ 4 % 4), rd := desc / 2 ^ 6 % 2 == 1 }
      ({ s with swatches := if desc / 2 ^ 7 % 2 = 1 then s.swatches.set key w else s.swatches.erase key }, 0)

end Sys2Proof.Machine
end

