-- ==== Sys2Proof/Machine/Fabric.lean ====
section
/-! DEFINITION. The directory's events (R403-R406), the Ashlar fabric (R408-R415), the CXL host (R416-R418) and writes
to remote homes that are answered or lost (R413, R414). -/
namespace Sys2Proof.Machine

/-! Recalls (R403-R407). A line of these steps is named by its 64-byte unit. -/
namespace State
/-- A holder returns its hold of a half: a port or a peer at once, a group that took the line for near atomics with what
they wrote, and one that leased it only once it holds the line no more (R405). -/
def holderReturns (s : State) (unit : Nat) (who : W32) : State :=
  if remoteId who || s.holderId (unit / 2) != some who then s.dirReturn unit who
  else match s.leaseHolder (unit / 2) with
    | some g => if s.leases g (unit / 2) then s else s.returnLease g (unit / 2)
    | none => s
/-- A recalled holder answers (R405); a late answer is discarded (R407). -/
def recallAnswer (s : State) (unit : Nat) (who : W32) : State :=
  match s.dir.get? unit with
  | some e => if e.st != 5 || who == noAgentId then s else s.holderReturns unit who
  | none => s
/-- A holder returns a line unasked: a port, a peer, or a group whose near atomics are over. -/
def voluntaryReturn (s : State) (unit : Nat) (who : W32) : State :=
  if who == noAgentId then s else s.holderReturns unit who
/-- The timer of a recall runs out with a holder unanswered (R406). -/
def recallExpiry (s : State) (unit : Nat) : State :=
  match s.dir.get? unit with
  | some e => if e.st = 5 && e.deadline ≤ s.clk && !e.asked.isEmpty then s.markLost unit else s
  | none => s
end State
/-- RECALL_ANSWER (R403). -/
def execRecallAnswer (line : Nat) (holder : W32) (s : State) : Host.Outcome State Fault Refusal :=
  .next (s.recallAnswer line holder)
/-- VOLUNTARY_RETURN (R403). -/
def execVoluntaryReturn (line : Nat) (holder : W32) (s : State) : Host.Outcome State Fault Refusal :=
  .next (s.voluntaryReturn line holder)
/-- RECALL_TIMER_EXPIRY (R406). -/
def execRecallTimerExpiry (line : Nat) (s : State) : Host.Outcome State Fault Refusal := .next (s.recallExpiry line)

/-! Requests from outside (R408, R411, R417). -/
/-- What a request from outside does at its home. -/
inductive Outside
  | read (n : Nat)
  | shared
  | exclusive
  | write (data : List Byte)
  | add (n : Nat) (v : W64)
  deriving DecidableEq, Repr
/-- How such a request ends: it waits for a holder, or its bytes, visibility time and whether the home refused it. -/
inductive OutsideEnd
  | held
  | done (bytes : List Byte) (vis : Nat) (refused : Bool)

def Outside.writes : Outside → Bool
  | .write _ | .add _ _ | .exclusive => true
  | _ => false
/-- The bytes that it touches. -/
def Outside.len : Outside → Nat
  | .read n => n
  | .shared | .exclusive => 64
  | .write d => d.length
  | .add n _ => n
def Outside.want : Outside → Want
  | .read _ | .shared => .read
  | .write _ => .write
  | _ => .atomic

namespace State
/-- A line passes to a remote holder alone: its grains take the holder's time (R299, R403). -/
def grantRemote (s : State) (unit T : Nat) (who : W32) : State :=
  let pa := unit * 64
  let s := (grainsOf pa 64 (s.ftGrain pa)).foldl (fun (s : State) g =>
    let w := max ((s.tsOf g (s.ftGrain pa)).2 + 1) T
    s.setTs g (s.ftGrain pa) (w, w)) s
  (s.touchLine (pa / 128) false .dflt).setOwner unit who false

/-- A request from a port or a peer is served at its home, behind those that arrived before it and wait (R402, R408, R411,
R415, R417). -/
def outsideServe (s : State) (who : W32) (w : HomeWaiter) (T pa : Nat) (q : Outside) : State × OutsideEnd :=
  let n := q.len
  let base := match q with
    | .shared | .exclusive => pa / 64 * 64
    | _ => pa
  if n = 0 then (s, .done [] 0 false)
  else if s.dirConflict who q.writes base n || s.queuedAhead w base n then
    ((s.recallFor who q.writes base n).joinQueue w base n, .held)
  else
    match s.homeError base n q.want with
    | some _ => (s, .done [] 0 true)
    | none =>
      let read := fun (s : State) => match s.homeRead base n (s.ftGrain base) none .dflt who with
        | (s, bs, _, _) => (s, bs)
      match q with
      | .read _ => match read s with
        | (s, bs) => (s, .done bs 0 false)
      | .shared => match s.dirRoom (base / 64) with
        | (s, false) => (s, .held)
        | (s, true) => match read s with
          | (s, bs) => (s.addSharer (base / 64) who, .done bs 0 false)
      | .exclusive => match s.dirRoom (base / 64) with
        | (s, false) => (s, .held)
        | (s, true) => match read s with
          | (s, bs) => (s.grantRemote (base / 64) T who, .done bs 0 false)
      | .write d => match s.homeWrite base d (s.ftGrain base) T .dflt who with
        | (s, v) => (s, .done [] v false)
      | .add k v =>
        let old := s.mem.readBytes base k
        let (c, s) := pick s 2
        match s.dirRoom (base / 64) with
        | (s1, true) =>
          if c = 1 && base / 64 = (base + k - 1) / 64 then (s1.grantRemote (base / 64) T who, .done old 0 false)
          else match s.homeWrite base (Memory.leBytes k (natOfBytes old + v.toNat)) (s.ftGrain base) T .dflt who with
            | (s, w) => (s, .done old w false)
        | (_, false) => match s.homeWrite base (Memory.leBytes k (natOfBytes old + v.toNat)) (s.ftGrain base) T .dflt who with
          | (s, w) => (s, .done old w false)

/-! Ashlar (R408-R411). -/
/-- A peer's operation at an offset of this device's homes. -/
def peerOutside : PeerOp → Option Outside
  | .read n => some (.read n)
  | .readShared => some .shared
  | .readExclusive => some .exclusive
  | .write d => some (.write d)
  | .atomicAdd n v => some (.add n v)
  | .publish _ => none
/-- An answer to a peer, remembered for copies of its request (R409). -/
def answerPeer (s : State) (r : PeerReq) (m : OutMsg) : State :=
  let kept := s.performed.filter fun p => !(p.1.src == r.src && p.1.tag == r.tag)
  { s with out := s.out ++ [m], performed := kept ++ [(r, m)], peerQ := s.peerQ.filter (· != r) }
/-- A request for this device in its control and MMIO window reaches only PUBREQ (R408, R419). -/
def peerMmio (s : State) (r : PeerReq) : State :=
  let here := r.pa = 2 ^ 41 + 0x40000
  match r.op with
  | .publish v => (s.pubWrite v).answerPeer r (.peerAck r.src r.tag false)
  | .write d =>
    let s := if here && d.length = 8 then s.pubWrite (BitVec.ofNat 64 (natOfBytes d)) else s
    s.answerPeer r (.peerAck r.src r.tag false)
  | .read n =>
    let v := if here && n = 8 then (s.mmioRead 0x40000).toNat else 0
    s.answerPeer r (.peerReply r.src r.tag (Memory.leBytes n v) true)
  | .atomicAdd n _ => s.answerPeer r (.peerReply r.src r.tag (List.replicate n 0#8) true)
  | _ => s.answerPeer r (.peerReply r.src r.tag (List.replicate 64 0#8) true)
/-- A request at one of this device's homes. -/
def peerHome (s : State) (r : PeerReq) (q : Outside) : State :=
  let M := s.peerM.getD r.src 0
  match s.outsideServe (idPeer r.src) (.peer r) M r.pa q with
  | (s, .held) => if s.peerQ.contains r then s else { s with peerQ := s.peerQ ++ [r] }
  | (s, .done bs v refused) =>
    let s := { s with peerM := s.peerM.put 0 r.src (max M v) }
    s.answerPeer r (match q with
      | .write _ => .peerAck r.src r.tag refused
      | _ => .peerReply r.src r.tag bs (!refused))
/-- A request arrives over the fabric: forwarded, answered again, or performed (R408, R409). -/
def peerRequest (s : State) (r : PeerReq) : State :=
  if r.dst != s.selfId then
    match s.linksTo r.dst with
    | [] => s
    | l :: _ => { (s.sendFlit r.dst) with out := (s.sendFlit r.dst).out ++ [.forwarded l r.src r.tag r.dst] }
  else
    match s.performed.find? fun p => p.1 == r with
    | some p => { s with out := s.out ++ [p.2] }
    | none =>
      match regionOf r.pa, peerOutside r.op with
      | .mmio, _ | _, none => s.peerMmio r
      | .hbm, some q | .storeOnly, some q => s.peerHome r q
      | _, some _ => s

/-! Writes to remote homes (R307, R409, R413, R414, R418). -/
/-- A lost write of a lane of a request: the flag takes the first one's address, of the lowest lane among those of one
instruction; a group that has exited ends its task (R414). -/
def loseWrite (s : State) (g id lane : Nat) (va : W64) : State :=
  let s := s.modGrp g fun G =>
    if G.lost.isSome && !(G.lostBy.1 == id && lane < G.lostBy.2) then G else { G with lost := some va, lostBy := (id, lane) }
  match s.grps.get? g with
  | some G => if G.st == .exited then s.killTask G.task 0x0B else s
  | none => s
/-- The outstanding-acknowledgement count of a request's group falls. -/
def lessAcks (s : State) (r : Req) (n : Nat) : State :=
  match r.agent with
  | .frag g _ => s.modGrp g fun G => { G with offAcks := G.offAcks - n }
  | .ks _ => s
/-- A write of a request to a remote place is over: performed there, or lost. -/
def remoteWriteEnds (s : State) (id pa : Nat) (performed refused : Bool) : State :=
  match s.reqs.get? id with
  | none => s
  | some r =>
    let here := r.lanes.filter fun p => p.sent && p.got.isNone && (match p.loc with
      | .mem x _ _ => x == pa
      | _ => false)
    match here with
    | [] => s
    | p :: _ =>
      let s := if !performed then s
        else match r.op with
          | .atom op ty _ =>
            let (v, _) := atomRun op ty here (BitVec.ofNat 64 (s.mem.readNat pa p.size))
            ({ s with mem := s.mem.writeBytes pa (Memory.leBytes p.size v.toNat) }).markWatches pa p.size
          | _ => here.foldl (fun (s : State) q => ({ s with mem := s.mem.writeBytes pa q.data }).markWatches pa q.size) s
      let s := (s.answerAt id p.loc fun q => { q with got := some [] }).lessAcks r here.length
      let s := s.settleReq id
      match r.agent with
      | .frag g _ => if refused then s.loseWrite g id p.lane (p.va - BitVec.ofNat 64 p.off) else s
      | .ks _ => s

/-- An acknowledgement from a peer under a tag; one that is not outstanding is discarded (R409). -/
def peerAcked (s : State) (src tag : Nat) (refused : Bool) : State :=
  match s.peerTags.get? (src * 4096 + tag) with
  | none => s
  | some (id, pa, _) =>
    ({ s with peerTags := s.peerTags.erase (src * 4096 + tag) }).remoteWriteEnds id pa (!refused) refused
/-- The host grants global observation to a request's writes (R418). -/
def observed (s : State) (id : Nat) : State :=
  match s.reqs.get? id with
  | none => s
  | some r =>
    (r.lanes.filterMap fun p => match p.loc with
      | .mem pa _ _ => if p.sent && p.got.isNone && regionOf pa = .host then some pa else none
      | _ => none).eraseDups.foldl (fun (s : State) pa => s.remoteWriteEnds id pa true false) s

/-- Devices that leave requests unanswered may be unreachable: the watches registered there are then dropped (R413). -/
def dropWatchesAt (s : State) (pas : List Nat) : State :=
  let (k, s) := pick s 2
  if k = 0 then s
  else s.dropWatches fun w => isRemote w.grain && pas.any fun pa => regionOf pa == regionOf w.grain
/-- A fragment whose load, atomic or registration of a watch no remote home answered faults where it waits (R413). -/
def unansweredRead (s : State) (id : Nat) (r : Req) : State :=
  let read := match r.op with
    | .load | .watch _ _ => true
    | _ => false
  let fs := (r.lanes.filter fun p => p.got.isNone && p.loc.remote).map fun p =>
    laneFault p.lane { cause := if read then 0x0A else 0x0B, code := 0, psize := 4096 } p.va
  if s.stOf r.agent != .waiting (.request id) || fs.isEmpty then s
  else
    let s := if r.op.inLd then s.modLd r.agent (· - 1) else s
    let s := s.lessAcks r (if r.op.writes then fs.length else 0)
    let s := { s with reqs := s.reqs.erase id, peerTags := s.peerTags.filter fun t => t.2.1 != id }
    s.raiseLanes r.agent r.op.acc (if r.one then some r.fmask else none) fs
/-- A request that its remote homes leave unanswered: a blocking one faults; writes that were sent are lost, performed
there or not. -/
def unanswered (s : State) (id : Nat) (p : Nat → Bool) : State :=
  match s.reqs.get? id with
  | none => s
  | some r =>
    let open' := r.lanes.filterMap fun u => match u.loc with
      | .mem pa _ _ => if u.got.isNone && p pa && isRemote pa then some pa else none
      | _ => none
    let s := if open'.isEmpty then s else s.dropWatchesAt open'
    if r.blocking then if open'.isEmpty then s else s.unansweredRead id r
    else
      let pas := (r.lanes.filterMap fun u => match u.loc with
        | .mem pa _ _ => if u.sent && u.got.isNone && p pa then some pa else none
        | _ => none).eraseDups
      let s := pas.foldl (fun (s : State) pa =>
        let (k, s) := pick s 2
        s.remoteWriteEnds id pa (k == 1) true) s
      { s with peerTags := s.peerTags.filter fun t => !(t.2.1 == id && pas.contains t.2.2.1) }
/-- A request or a chunk that a remote home has not answered for 2 ms (R413). -/
def requestTimeout (s : State) (id : Nat) : State :=
  match s.reqs.get? id with
  | some r => if r.born + recallClocks true ≤ s.clk then s.unanswered id fun _ => true else s
  | none =>
    match s.chunkBy id with
    | some (r, slice, born) => if born + recallClocks true ≤ s.clk then s.remoteEnds r slice (some 0x32) else s
    | none => s

/-! Links (R410, R431). -/
/-- Requests outstanding towards peers are sent again with their tags. -/
def resendAll (s : State) : State :=
  s.peerTags.foldl (fun (s : State) p =>
    let s := s.sendFlit (p.1 / 4096)
    { s with out := s.out ++ [.peerRequest (p.1 / 4096) (p.1 % 4096) (p.2.2.1 % 2 ^ 44) true] }) s
/-- Watches at devices that no link reaches are dropped (R413). -/
def dropUnreachable (s : State) : State :=
  s.dropWatches fun w => match regionOf w.grain with
    | .peer d => (s.linksTo d).isEmpty
    | _ => false
/-- A failure of a link's retries; after 16 in a row it is retrained. -/
def linkRetry (s : State) (l : Nat) (L : Link) : State :=
  let s := { s with links := s.links.set l { L with retries := L.retries + 1 } }
  if L.retries + 1 = 16 then { s with agenda := s.agenda ++ [.linkRetrain l 4] } else s
/-- A flit arrives on a link (R410). -/
def flitReceive (s : State) (l seq : Nat) (good : Bool) (rs : List PeerReq) : State :=
  match s.links.get? l with
  | none => s
  | some L =>
    if !L.up then s
    else if good && seq = L.rxSeq then
      { s with links := s.links.set l { L with rxSeq := (L.rxSeq + 1) % 4096, retries := 0 }
               out := s.out ++ [.flitAck l seq]
               agenda := s.agenda ++ rs.map .ashlarRequest }
    else { (s.linkRetry l L) with out := s.out ++ [.flitRetry l L.rxSeq] }
/-- The other end asks for the flits from a sequence number on (R410). -/
def retryRequest (s : State) (l seq : Nat) : State :=
  match s.links.get? l with
  | none => s
  | some L =>
    if !L.up then s
    else
      let left := if L.unacked.contains seq then L.unacked.dropWhile (· != seq) else if seq = L.txSeq then [] else L.unacked
      let s := s.linkRetry l { L with unacked := left }
      { s with out := s.out ++ left.map fun q => .flitSend l q }
/-- A link is trained again, at full or half width, or fails (R410, R431). -/
def retrain (s : State) (l lanes : Nat) : State :=
  match s.links.get? l with
  | none => s
  | some _ =>
    let L : Link := { Link.trained with up := 4 ≤ lanes, lanes := if 8 ≤ lanes then 8 else if 4 ≤ lanes then 4 else 0 }
    ({ s with links := s.links.set l L }).resendAll.dropUnreachable
end State

/-- ASHLAR_REQUEST (R408, R409). -/
def execAshlarRequest (r : PeerReq) (s : State) : Host.Outcome State Fault Refusal := .next (s.peerRequest r)
/-- ASHLAR_ACKNOWLEDGEMENT (R409, R414). -/
def execAshlarAcknowledgement (src tag : Nat) (refused : Bool) (s : State) : Host.Outcome State Fault Refusal :=
  .next (s.peerAcked src tag refused)
/-- ASHLAR_FLIT_RECEIVE (R410). -/
def execAshlarFlitReceive (link seq : Nat) (crcOk : Bool) (payload : List PeerReq) (s : State) : Host.Outcome State Fault Refusal :=
  .next (s.flitReceive link seq crcOk payload)
/-- ASHLAR_RETRY_REQUEST (R410). -/
def execAshlarRetryRequest (link seq : Nat) (s : State) : Host.Outcome State Fault Refusal := .next (s.retryRequest link seq)
/-- LINK_RETRAIN (R410, R431). -/
def execLinkRetrain (link lanes : Nat) (s : State) : Host.Outcome State Fault Refusal := .next (s.retrain link lanes)
/-- REMOTE_REQUEST_TIMEOUT (R413, R414). -/
def execRemoteRequestTimeout (id : Nat) (s : State) : Host.Outcome State Fault Refusal := .next (s.requestTimeout id)

/-! The CXL host (R415-R418). -/
namespace State
def port (s : State) (p : Nat) : Option Port := (s.ports.get? p).filter fun (P : Port) => P.up
/-- An answer to a host; its request waits no more. -/
def answerHost (s : State) (p : Nat) (r : HostReq) (m : OutMsg) : State :=
  { s with out := s.out ++ [m], hostQ := s.hostQ.filter (· != (p, r)) }
/-- A CXL.mem request is served at its home, within the HDM range (R417). -/
def hostServe (s : State) (p : Nat) (r : HostReq) (pa : Nat) (q : Outside) : State :=
  if 2 ^ 39 < pa + q.len then s
  else
    let M := s.hostM.getD p 0
    match s.outsideServe (idHost p) (.host p r) M pa q with
    | (s, .held) => if s.hostQ.contains (p, r) then s else { s with hostQ := s.hostQ ++ [(p, r)] }
    | (s, .done bs v refused) =>
      let s := { s with hostM := s.hostM.put 0 p (max M v) }
      s.answerHost p r (match q with
        | .write _ => if refused then .hostReply p [] true else .hostAck p
        | _ => .hostReply p bs refused)
/-- A request of a host on a live port. BAR 0 is served once link protection is established (R417, R422). -/
def hostRequest (s : State) (p : Nat) (r : HostReq) : State :=
  match s.port p with
  | none => s
  | some P =>
    match r with
    | .read pa n => s.hostServe p r pa (.read n)
    | .readShared pa => s.hostServe p r pa .shared
    | .readExclusive pa => s.hostServe p r pa .exclusive
    | .write pa d => s.hostServe p r pa (.write d)
    | .bar0Write off v => if P.ioKey.isSome then (s.mmioWrite off v).answerHost p r (.hostAck p) else s
    | .bar0Read off =>
      if P.ioKey.isSome then
        let v := if off % 8 = 0 then s.mmioRead off else 0#64
        s.answerHost p r (.hostReply p (Memory.leBytes 8 v.toNat) false)
      else s
/-- A host's snoop takes effect at the proxy slice before its answer (R418). -/
def snoop (s : State) (p unit : Nat) (exclusive : Bool) : State :=
  match s.port p with
  | none => s
  | some _ =>
    let line := (2 ^ 44 + p % 2 * 2 ^ 43 + unit * 64 % 2 ^ 43) / 128
    let s := if exclusive && (s.lines.get? line).isSome then s.dropLine line else s
    { s with out := s.out ++ [.snoopAnswer p unit] }
end State
/-- CXL_MEM_REQUEST (R417). -/
def execCxlMemRequest (port : Nat) (r : HostReq) (s : State) : Host.Outcome State Fault Refusal := .next (s.hostRequest port r)
/-- HOST_SNOOP (R418). -/
def execHostSnoop (port line : Nat) (exclusive : Bool) (s : State) : Host.Outcome State Fault Refusal :=
  .next (s.snoop port line exclusive)
/-- GLOBAL_OBSERVATION (R418). -/
def execGlobalObservation (id : Nat) (s : State) : Host.Outcome State Fault Refusal := .next (s.observed id)

end Sys2Proof.Machine
end

