-- ==== Sys2Proof/Machine/Device.lean ====
section
/-! DEFINITION. Link protection and attestation (R421, R422), reset and bring-up (R423-R425), health (R429-R431), islands
and ring segments (R427, R428), and the sweeper (R368). -/
namespace Sys2Proof.Machine

/-! Health (R430, R431). -/
namespace State
/-- The replace request: HEALTH, an event record on each live port, and Berdun (R430). -/
def replaceRequest (s : State) : State :=
  let live := (s.ports.filter fun p => p.2.up).map fun p => OutMsg.memoryEvent p.1
  { s with health := { s.health with repl := true }, out := s.out ++ live ++ [.berdun] }
def toFailed (s : State) : State :=
  if s.health.st = 3 then s else ({ s with health := { s.health with st := 3 } }).replaceRequest
/-- A retirement or an isolation. -/
def toDegraded (s : State) : State :=
  if 2 ≤ s.health.st then s else ({ s with health := { s.health with st := 2 } }).replaceRequest

/-- A unit's error count. -/
def errorsOf (s : State) (u : UnitId) : Nat := ((s.health.counts.find? fun p => p.1 == u).map (·.2)).getD 0
def setErrors (s : State) (u : UnitId) (n : Nat) : State :=
  { s with health := { s.health with counts := s.health.counts.filter (fun p => p.1 != u) ++ if n = 0 then [] else [(u, n)] } }

/-- Bytes that PIN and KV contracts reserve at a slice (R329, R431). -/
def reservedTotal (s : State) (slice : Nat) : Nat := s.reservedBy 256 slice
/-- Chunks at a retiring unit, each of which may end with 0x33, its bytes old or new; its partner takes up the others. -/
def endChunks (s : State) (i : Nat) : State :=
  let s := (s.mortar.getD i []).foldl (fun (s : State) r =>
    let (fails, s) := pick s 2
    if fails = 1 then s.failChunk r i 0x33 else s) s
  let left := s.mortar.getD i []
  let s := { s with mortar := s.mortar.erase i }
  if left.isEmpty then s else { s with mortar := s.mortar.set (i ^^^ 1) (s.mortar.getD (i ^^^ 1) [] ++ left) }
/-- A run of a started command, cut where homes change; what lies at the retiring home is lost to it (R213). -/
def loseRun (s : State) (i : Nat) (r : MatRun) : List MatRun :=
  match r.loc with
  | .mem pa grain pol => (halfRuns pa r.n).map fun u =>
      { r with off := r.off + (u.1 - pa), n := u.2, loc := .mem u.1 grain pol, old := (r.old.drop (u.1 - pa)).take u.2
               lost := r.lost || s.homeOf u.1 == i }
  | _ => [r]
/-- Work at a retiring slice completes or fails with 0x33 (R431): chunks there, and the commands in progress that read or
write it. -/
def endWork (s : State) (i : Nat) : State :=
  let s := s.endChunks i
  let (gone, s) := pick s 2
  let s := if gone = 0 then s
    else { s with tasks := s.tasks.mapVal fun _ T => { T with kvq := match T.kvq with
      | c :: r => { c with lost := some i } :: r
      | [] => [] } }
  let (gone, s) := pick s 2
  if gone = 0 then s
  else
    let upd := fun (q : MatCmd) =>
      if q.started then { q with reads := q.reads.flatMap (s.loseRun i), dests := q.dests.flatMap (s.loseRun i) } else q
    { s with ks := s.ks.mapVal fun _ c => { c with mq := c.mq.map upd } }
/-- A slice with more lines than it has room for gives up victims until the rest fit (R330, R431). -/
def shrinkTo (s : State) (slice : Nat) : State :=
  (s.linesAt slice).foldl (fun (s : State) _ =>
    if sliceLines < (s.linesAt slice).length then
      match s.victim slice uncovered with
      | some v => s.dropLine v
      | none => s
    else s) s
/-- A slice leaves service: its lines, entries and timestamps are its partner's (R431). -/
def retireSlice (s : State) (i : Nat) : State :=
  if s.health.retired.contains i then s
  else if s.health.retired.contains (i ^^^ 1) || 9437184 < s.reservedTotal i + s.reservedTotal (i ^^^ 1) then s.toFailed
  else
    let s := (s.endWork i).dropWatches fun w => w.slice == i
    let top := max (s.mts.getD i 0) (s.mts.getD (i ^^^ 1) 0)
    let staged := s.staging.getD (i ^^^ 1) [] ++ s.staging.getD i []
    let tabs := (s.staging.erase i)
    let s := { s with mts := (s.mts.put 0 i 0).put 0 (i ^^^ 1) top
                      staging := if staged.isEmpty then tabs else tabs.set (i ^^^ 1) staged
                      health := { s.health with retired := NatSet.insert s.health.retired i } }
    (s.shrinkTo (i ^^^ 1)).toDegraded
/-- A core leaves service: it is removed from dispatch, the lines its groups hold stay with it, and its tasks are killed
(R406, R431). -/
def isolateCore (s : State) (c : Nat) : State :=
  if (s.core c).isolated then s
  else
    let s := s.modCore c fun C => { C with isolated := true, removed := true }
    let held := s.grps.flatMap fun p => if s.coreOfGrp p.1 = c then p.2.leases.map fun l => (p.1, l.line) else []
    let s := held.foldl (fun (s : State) x => s.loseLease x.1 x.2) s
    let ts := (s.tasks.filter fun p => (p.2.st == .resident || p.2.st == .draining) && p.2.core == c).map (·.1)
    (ts.foldl (fun (s : State) t => s.killTask t 0x0A) s).toDegraded

/-- A unit's count rises; at 64 the device watches, at 256 the unit leaves service (R430, R431). -/
def addErrors (s : State) (u : UnitId) (n : Nat) : State :=
  let k := s.errorsOf u + n
  let s := s.setErrors u k
  let s := if 64 ≤ k && s.health.st = 0 then { s with health := { s.health with st := 1 } } else s
  if k < 256 then s
  else
    match u with
    | .slice i | .channel i => s.retireSlice i
    | .core c => s.isolateCore c
    | .link _ => s
/-- An uncorrected error: the line is poisoned, or the core is isolated. -/
def uncorrected (s : State) (u : UnitId) (line : Nat) : State :=
  match u with
  | .core c => (s.addErrors u 16).isolateCore c
  | .slice _ | .channel _ => ({ s with poisoned := NatSet.addAll s.poisoned [2 * line, 2 * line + 1] }).addErrors u 16
  | .link _ => s.addErrors u 16
/-- Every count halves; below 64 everywhere the device is NOMINAL again (R430). -/
def halveErrors (s : State) : State :=
  let cs := (s.health.counts.map fun p => (p.1, p.2 / 2)).filter fun p => p.2 != 0
  let st := if s.health.st = 1 && cs.all fun p => p.2 < 64 then 0 else s.health.st
  { s with health := { s.health with counts := cs, st := st } }

/-! Link protection (R422). -/
/-- A port goes down: its requests in flight are unanswered, and with both down the device has failed (R422, R430). -/
def portDown (s : State) (p : Nat) : State :=
  let s := { s with ports := s.ports.update p fun P => { P with up := false }
                    hostQ := s.hostQ.filter fun q => q.1 != p }
  let mine := fun pa => regionOf pa == .host && (pa - 2 ^ 44) / 2 ^ 43 == p
  let s := s.reqs.foldl (fun (s : State) r => s.unanswered r.1 mine) s
  if s.ports.all fun q => !q.2.up then s.toFailed else s
end State

/-- IDE_INTEGRITY_FAILURE (R422): with protection of CXL.cachemem established the link goes down. -/
def execIdeIntegrityFailure (port : Nat) (s : State) : Host.Outcome State Fault Refusal :=
  .next (match s.port port with
    | some P => if P.memKey.isSome then s.portDown port else s
    | none => s)
/-- IDE_KM (R422): keys are programmed inside an SPDM session. -/
def execIdeKm (port : Nat) (cachemem : Bool) (key : Nat) (s : State) : Host.Outcome State Fault Refusal :=
  .next (match s.port port with
    | some P =>
      if P.session.isNone then s
      else { s with ports := s.ports.set port (if cachemem then { P with memKey := some key } else { P with ioKey := some key }) }
    | none => s)

/-! Attestation (R421, R425): a response carries the numbers that the request asks for. -/
namespace State
/-- The identity key, from the device secret alone, and the alias key of the running image (R425). -/
def identityKey (_s : State) : Nat := Config.sha384 Config.deviceSecret
def aliasKey (s : State) : Nat := Config.sha384 (Config.deviceSecret * 2 ^ 384 + s.firmware.digest)
/-- Certificate slot 0: the root, the device identity certificate, the alias certificate that the identity key issues. -/
def certChain (s : State) : List Nat :=
  [Config.sha384 0, s.identityKey, s.aliasKey, Config.sign s.identityKey s.aliasKey]
def chainDigest (s : State) : Nat := Config.sha384 (s.certChain.foldl (fun n x => n * 2 ^ 384 + x) 0)
/-- A measurement: the image's digest, its two versions, the domain configuration's digest (R421). -/
def measurement (s : State) (i : Nat) : Option (List Nat) :=
  match i with
  | 1 => some [s.firmware.digest]
  | 2 => some [s.firmware.version, s.firmware.security]
  | 3 => some [s.firmware.domain]
  | _ => none
/-- A port answers a request: the transcript takes the request, the port changes, and the response leaves. -/
def spdmAnswer (s : State) (port code : Nat) (k : Port → Port × List Nat) : Host.Outcome State Fault Refusal :=
  .next (match s.port port with
    | none => s
    | some P =>
      let (Q, fields) := k P
      { s with ports := s.ports.set port { Q with transcript := Q.transcript ++ [code] }, out := s.out ++ [.spdm port code fields] })
/-- What a signature of the port's transcript covers. -/
def transcriptHash (P : Port) (xs : List Nat) : Nat := Config.sha384 ((P.transcript ++ xs).foldl (fun n x => n * 2 ^ 384 + x + 1) 0)
end State

/-- GET_VERSION (R421): 1.3; negotiation starts anew. -/
def execGetVersion (port : Nat) (s : State) : Host.Outcome State Fault Refusal :=
  s.spdmAnswer port 1 fun P => ({ P with spdm := 1, transcript := [] }, [0x13])
/-- GET_CAPABILITIES (R421). -/
def execGetCapabilities (port : Nat) (s : State) : Host.Outcome State Fault Refusal :=
  s.spdmAnswer port 2 fun P => ({ P with spdm := max 2 P.spdm }, [])
/-- NEGOTIATE_ALGORITHMS (R421): P-384 for signing and exchange, SHA-384, AES-256-GCM. -/
def execNegotiateAlgorithms (port : Nat) (s : State) : Host.Outcome State Fault Refusal :=
  s.spdmAnswer port 3 fun P => ({ P with spdm := 3 }, [384, 384, 384, 256])
/-- GET_DIGESTS (R421): slot 0. -/
def execGetDigests (port : Nat) (s : State) : Host.Outcome State Fault Refusal :=
  s.spdmAnswer port 4 fun P => (P, [s.chainDigest])
/-- GET_CERTIFICATE (R421): slot 0 only; another slot is not supported. -/
def execGetCertificate (port slot : Nat) (s : State) : Host.Outcome State Fault Refusal :=
  s.spdmAnswer port (if slot = 0 then 5 else 12) fun P => (P, if slot = 0 then s.certChain else [])
/-- CHALLENGE (R421, R425): signed with the alias key. -/
def execChallenge (port nonce : Nat) (s : State) : Host.Outcome State Fault Refusal :=
  s.spdmAnswer port 6 fun P => (P, [s.chainDigest, Config.sign s.aliasKey (State.transcriptHash P [nonce, s.chainDigest])])
/-- GET_MEASUREMENTS (R421): one of the three, signed; no other index is measured. -/
def execGetMeasurements (port index nonce : Nat) (s : State) : Host.Outcome State Fault Refusal :=
  match s.measurement index with
  | some m => s.spdmAnswer port 7 fun P => (P, m ++ [Config.sign s.aliasKey (State.transcriptHash P ([index, nonce] ++ m))])
  | none => s.spdmAnswer port 12 fun P => (P, [])
/-- KEY_EXCHANGE (R421): the shared key of the exchange, the response signed. -/
def execKeyExchange (port share : Nat) (s : State) : Host.Outcome State Fault Refusal :=
  s.spdmAnswer port 8 fun P =>
    let own := Config.sha384 (s.aliasKey + P.transcript.length)
    ({ P with handshake := some (Config.ecdhe own share) },
      [own, Config.sign s.aliasKey (State.transcriptHash P [share, own])])
/-- FINISH (R421): the session begins when the requester proves that it holds the key. -/
def execFinish (port mac : Nat) (s : State) : Host.Outcome State Fault Refusal :=
  s.spdmAnswer port 9 fun P =>
    match P.handshake with
    | some k => if mac = Config.sha384 k then ({ P with session := some k, handshake := none }, [1]) else ({ P with handshake := none }, [0])
    | none => (P, [0])
/-- HEARTBEAT (R421). -/
def execHeartbeat (port : Nat) (s : State) : Host.Outcome State Fault Refusal :=
  s.spdmAnswer port 10 fun P => (P, [if P.session.isSome then 1 else 0])
/-- END_SESSION (R421). -/
def execEndSession (port : Nat) (s : State) : Host.Outcome State Fault Refusal :=
  s.spdmAnswer port 11 fun P => ({ P with session := none }, [])
/-- Any other request receives ERROR UnsupportedRequest (R421). -/
def execUnsupportedRequest (port code : Nat) (s : State) : Host.Outcome State Fault Refusal :=
  s.spdmAnswer port 12 fun P => (P, [code])

/-! Reset and bring-up (R423, R424). -/
namespace State
/-- A bring-up that ends in FAILED at a step. -/
def bringUpFails (s : State) (step cause : Nat) : State :=
  let s := { s with
    health := { s.health with step := step, cause := cause }
    ports := s.ports.mapVal fun _ P => { P with up := false }
    links := s.links.mapVal fun _ L => { L with up := false } }
  s.toFailed
/-- The package as reset leaves it before bring-up; the fused minimum and the model's own numbers go on. -/
def afterReset (s : State) : State :=
  { State.reset with free := s.free, nextId := s.nextId, out := s.out
                     firmware := { Firmware.first with fused := s.firmware.fused } }
/-- Bring-up in the order of R423 with what the environment reports. -/
def bringUp (s : State) (r : BringUpReport) : State :=
  let s := s.afterReset
  if !r.railsOk then s.bringUpFails 1 1
  else if !r.ecdsaOk || !r.lmsOk || r.securityVersion < s.firmware.fused then s.bringUpFails 2 2
  else
    let s := { s with firmware := { digest := r.imageDigest, version := r.imageVersion, security := r.securityVersion, fused := r.securityVersion,
                                    domain := Config.sha384 (r.routing.foldl (fun n (x : Nat × List Nat) => n * 64 + x.1) r.ashlarId) } }
    if !r.trainOk || r.retiredSlices.any (fun i => r.retiredSlices.contains (i ^^^ 1)) then s.bringUpFails 3 3
    else
      let s := { s with
        health := { s.health with retired := NatSet.addAll [] (r.retiredSlices.filter (· < 256))
                                  routing := r.routing.foldl (fun m (x : Nat × List Nat) => Assoc.set m x.1 x.2) [] }
        cores := (r.isolatedCores.filter (· < 192)).foldl (fun m c =>
          Assoc.set m c { emptyCore with isolated := true, removed := true }) s.cores
        ports := s.ports.mapVal fun p P => { P with up := r.portsUp.contains p }
        links := s.links.mapVal fun l L => if r.failedLinks.contains l then { L with up := false, lanes := 0 } else L
        mmio := s.mmio.put 0#64 0x60000 (BitVec.ofNat 64 (r.ashlarId % 64)) }
      let s := if r.retiredSlices.isEmpty && r.isolatedCores.isEmpty then s else s.toDegraded
      if s.ports.all fun p => !p.2.up then s.toFailed else s
end State
/-- PACKAGE_RESET (R423, R424). -/
def execPackageReset (r : BringUpReport) (s : State) : Host.Outcome State Fault Refusal := .next (s.bringUp r)
/-- CORRECTED_ERROR (R430). -/
def execCorrectedError (u : UnitId) (s : State) : Host.Outcome State Fault Refusal := .next (s.addErrors u 1)
/-- UNCORRECTED_ERROR (R430, R431). -/
def execUncorrectedError (u : UnitId) (line : Nat) (s : State) : Host.Outcome State Fault Refusal := .next (s.uncorrected u line)
/-- ERROR_COUNT_HALVING (R430). -/
def execErrorCountHalving (s : State) : Host.Outcome State Fault Refusal := .next s.halveErrors

/-! Islands and ring segments (R427, R428). -/
/-- ISLAND_POWER_CHANGE (R427): no architectural value changes. -/
def execIslandPowerChange (island level : Nat) (s : State) : Host.Outcome State Fault Refusal :=
  .next (if island < 512 then { s with health := { s.health with islands := s.health.islands.set island level } } else s)
namespace State
def segment (s : State) (i : Nat) : Segment := s.health.segments.getD i (.powered 0)
def setSegment (s : State) (i : Nat) (x : Segment) : State :=
  { s with health := { s.health with segments := s.health.segments.set i x } }
end State
/-- RING_GATE_DECISION (R428): a segment that has carried nothing for 64 store clocks decides, provisionally for 2. -/
def execRingGateDecision (seg : Nat) (s : State) : Host.Outcome State Fault Refusal :=
  .next (match s.segment seg with
    | .powered last => if seg < 64 && last + 64 ≤ s.storeClk then s.setSegment seg (.deciding (s.storeClk + 2)) else s
    | _ => s)
/-- RING_SEGMENT_GATE (R428): the window has passed. -/
def execRingSegmentGate (seg : Nat) (s : State) : Host.Outcome State Fault Refusal :=
  .next (match s.segment seg with
    | .deciding till => if till ≤ s.storeClk then s.setSegment seg .gated else s
    | _ => s)
/-- RING_SEGMENT_WAKE (R428): a packet cancels a decision; a gated segment wakes in 40 store clocks. -/
def execRingSegmentWake (seg : Nat) (s : State) : Host.Outcome State Fault Refusal :=
  .next (if 64 ≤ seg then s else match s.segment seg with
    | .powered _ | .deciding _ => s.setSegment seg (.powered s.storeClk)
    | .gated => s.setSegment seg (.waking (s.storeClk + 40))
    | .waking till => if till ≤ s.storeClk then s.setSegment seg (.powered s.storeClk) else s)

/-! The sweeper (R366-R368). -/
/-- Frames that it visits: those of HBM, then those of the store-only window. -/
def sweptFrames : Nat := 2 ^ 27 + 655360
/-- The physical address of a visited frame. -/
def sweptAddr (i : Nat) : Nat := if i < 2 ^ 27 then i * 4096 else 2 ^ 40 + (i - 2 ^ 27) * 4096
namespace State
/-- A frame in a PIN or KV range. -/
def keptFrame (s : State) (pa : Nat) : Bool := (s.arrAt pa).cls == 1 || (s.arrAt pa).cls == 2
/-- Where the next cold frame's address goes. -/
def coldSlot (s : State) : Nat :=
  let logn := max 1 (min 16 (s.mem.readNat (s.ftBase + 8) 4))
  s.mem.readNat s.ftBase 8 + 8 * (s.mem.readNat (s.ftBase + 64) 8 % 2 ^ logn)
/-- A frame becomes cold: queued, its address written, and TAIL, which releases it at .sys, advanced. -/
def queueCold (s : State) (pa : Nat) : State :=
  let tail := s.mem.readNat (s.ftBase + 64) 8
  let slot := s.coldSlot
  let s := s.ftUpdate pa 0x80#8 0#8
  let (s, v) := s.memWrite slot (Memory.leBytes 8 pa) (s.ftGrain slot) 0 .dflt
  (s.memWrite (s.ftBase + 64) (Memory.leBytes 8 (tail + 1)) (s.ftGrain s.ftBase) v .dflt).1
/-- What a visit of a frame may touch: the queue's header, the next slot and the frame's entry. -/
def sweepSpots (s : State) (pa : Nat) : List (Nat × Nat) :=
  [(s.ftBase, 24), (s.ftBase + 64, 8), (s.coldSlot, 8)] ++ ((s.ftAddr pa).map fun e => (e, 1)).toList
/-- One visit; while another agent holds what it needs, the visit waits (R402). -/
def sweep' (s : State) : State :=
  let hdr := s.ftBase
  let head := s.mem.readNat (hdr + 16) 8
  let tail := s.mem.readNat (hdr + 64) 8
  let held := (s.sweepSpots (sweptAddr s.sweep)).filter fun x => s.dirConflict noAgentId true x.1 x.2
  if !(s.ctlReg 0x038).getLsbD 0 then s
  else if !held.isEmpty then held.foldl (fun (s : State) x => s.recallFor noAgentId true x.1 x.2) s
  else if s.mem.readNat (hdr + 12) 4 ≤ (tail + 2 ^ 64 - head) % 2 ^ 64 then s
  else
    let pa := sweptAddr s.sweep
    let e := s.ftByte pa
    let s := { s with sweep := (s.sweep + 1) % sweptFrames }
    if e.getLsbD 6 then s.ftUpdate pa 0#8 0x40#8
    else if !e.getLsbD 7 && !s.keptFrame pa then s.queueCold pa
    else s
end State
/-- SWEEPER_VISIT (R368). -/
def execSweeperVisit (s : State) : Host.Outcome State Fault Refusal := .next s.sweep'

end Sys2Proof.Machine
end

