-- ==== Sys2Proof/Machine/HashString.lean ====
section
/-! DEFINITION. Class 0x6: hashing, partitioning and string instructions (R119-R129), but for v.sld. -/
namespace Sys2Proof.Machine

/-- Sources A, B and C with a width each. -/
def srcs3 (h : Hdr) (f : NForm) (wa wb wc : Bool) (n : Nat) : List Opnd :=
  [{ src := f.a, wide := wa, lr := h.lra : Opnd }, { src := f.b, wide := wb, lr := h.lrb },
    { src := f.c, wide := wc, lr := h.lrc }].take n

/-- v.crc (R119). -/
def execVCrc (h : Hdr) (f : NForm) (s : State) : Host.Outcome State Fault Refusal :=
  withAgent s fun a =>
    let n := 2 ^ (f.op.toNat % 4)
    vecOp s a h f.d.idx.toNat false (srcs3 h f (wideTy f.ty) false false 2) f.aux (if n = 8 then 8 else 6) fun part vs =>
      eachLane part fun l =>
        (crcLane n (f.op.getLsbD 2) (f.op.getLsbD 3) (srcLane vs 0 l) (lo32 (srcLane vs 1 l))).setWidth 64

/-- v.mix (R120): the pair, or its high half. -/
def execVMix (h : Hdr) (f : NForm) (s : State) : Host.Outcome State Fault Refusal :=
  withAgent s fun a =>
    vecOp s a h f.d.idx.toNat (f.op == 0#5) (srcs3 h f true true false 2) f.aux 8 fun part vs =>
      eachLane part fun l =>
        let m := mix64 (srcLane vs 0 l ^^^ srcLane vs 1 l)
        if f.op = 0#5 then m else m >>> 32

/-- v.hmul (R121): k in aux. -/
def execVHmul (h : Hdr) (f : NForm) (s : State) : Host.Outcome State Fault Refusal :=
  withAgent s fun a =>
    let w := wideTy f.ty
    vecOp s a h f.d.idx.toNat w (nSrcs h f w 2) 0#6 6 fun part vs =>
      eachLane part fun l => hmulLane (Ty.width f.ty) f.aux.toNat (srcLane vs 0 l) (srcLane vs 1 l)

/-- v.hmul by imm32 (R121). -/
def execVHmulImm (h : Hdr) (f : IForm) (s : State) : Host.Outcome State Fault Refusal :=
  withAgent s fun a =>
    let w := wideTy f.ty
    vecOp s a h f.d.idx.toNat w [{ src := f.a, wide := w, lr := h.lra }] 0#6 6 fun part vs =>
      eachLane part fun l => hmulLane (Ty.width f.ty) f.aux.toNat (srcLane vs 0 l) (immOf f.ty f.imm)

/-- v.part (R122). -/
def execVPart (h : Hdr) (f : NForm) (s : State) : Host.Outcome State Fault Refusal :=
  withAgent s fun a =>
    let w := wideTy f.ty
    vecOp s a h f.d.idx.toNat w (nSrcs h f w 2) f.aux 6 fun part vs =>
      eachLane part fun l => partLane (Ty.width f.ty) (srcLane vs 0 l) (srcLane vs 1 l)

/-- v.bkt (R123): n splitters from the scalar register that B names. -/
def execVBkt (h : Hdr) (f : NForm) (s : State) : Host.Outcome State Fault Refusal :=
  withAgent s fun a =>
    let sp := (List.range f.aux.toNat).map fun i => s.sread a (f.b.idx.toNat + i)
    vecOp s a h f.d.idx.toNat false (nSrcs h f false 1) 0#6 4 fun part vs =>
      eachLane part fun l => BitVec.ofNat 64 (bktLane f.ty sp (srcLane vs 0 l))

/-- v.scmp (R125). -/
def execVScmp (h : Hdr) (f : NForm) (s : State) : Host.Outcome State Fault Refusal :=
  withAgent s fun a =>
    let w := wideTy f.ty
    vecOp s a h f.d.idx.toNat false (srcs3 h f w w false 3) f.aux 4 fun part vs =>
      eachLane part fun l =>
        (scmpLane (Ty.width f.ty) f.op.toNat (srcLane vs 0 l) (srcLane vs 1 l) (lo32 (srcLane vs 2 l))).setWidth 64

/-- v.bfind (R126). -/
def execVBfind (h : Hdr) (f : NForm) (s : State) : Host.Outcome State Fault Refusal :=
  withAgent s fun a =>
    vecOp s a h f.d.idx.toNat false (srcs3 h f (wideTy f.ty) false false 2) f.aux 4 fun part vs =>
      eachLane part fun l =>
        BitVec.ofNat 64 (bfindLane (Ty.width f.ty) f.op.toNat (srcLane vs 0 l) ((srcLane vs 1 l).setWidth 8))

/-- v.bfind of an immediate byte (R126). -/
def execVBfindImm (h : Hdr) (f : IForm) (s : State) : Host.Outcome State Fault Refusal :=
  withAgent s fun a =>
    vecOp s a h f.d.idx.toNat false [{ src := f.a, wide := wideTy f.ty, lr := h.lra }] f.aux 4 fun part vs =>
      eachLane part fun l =>
        BitVec.ofNat 64 (bfindLane (Ty.width f.ty) f.op.toNat (srcLane vs 0 l) (f.imm.setWidth 8))

/-- v.bmask (R127): B is read only by .eq and .rng; a b64 result fills the pair. -/
def execVBmask (h : Hdr) (f : NForm) (s : State) : Host.Outcome State Fault Refusal :=
  withAgent s fun a =>
    let w := wideTy f.ty
    vecOp s a h f.d.idx.toNat w (srcs3 h f w false false (if 8 ≤ f.op.toNat then 2 else 1)) f.aux 4 fun part vs =>
      eachLane part fun l => bmaskLane (Ty.width f.ty) f.op.toNat (srcLane vs 0 l) (lo32 (srcLane vs 1 l))

/-- v.ulen (R128): B is read only by .cnt. -/
def execVUlen (h : Hdr) (f : NForm) (s : State) : Host.Outcome State Fault Refusal :=
  withAgent s fun a =>
    vecOp s a h f.d.idx.toNat false (srcs3 h f (wideTy f.ty) false false (if f.op = 0#5 then 2 else 1)) f.aux 4
      fun part vs =>
        eachLane part fun l =>
          BitVec.ofNat 64 (ulenLane (Ty.width f.ty) f.op.toNat (srcLane vs 0 l) (lo32 (srcLane vs 1 l)))

/-- v.fold (R129). -/
def execVFold (h : Hdr) (f : NForm) (s : State) : Host.Outcome State Fault Refusal :=
  withAgent s fun a =>
    let w := wideTy f.ty
    vecOp s a h f.d.idx.toNat w (nSrcs h f w 1) f.aux 4 fun part vs =>
      eachLane part fun l => foldLane (Ty.width f.ty) f.op.toNat (srcLane vs 0 l)

end Sys2Proof.Machine
end

