-- ==== Sys2Proof/Machine/LaneOps.lean ====
section
/-! DEFINITION. Class 0x5: instructions that move and combine values between lanes (R110-R118). -/
namespace Sys2Proof.Machine

/-- v.shfl (R111). -/
def execVShfl (h : Hdr) (f : NForm) (s : State) : Host.Outcome State Fault Refusal :=
  withAgent s fun a =>
    let w := wideTy f.ty
    let M := s.maskOfAgent a &&& s.predOf a f.c.idx.toNat
    vecOp s a h f.d.idx.toNat w
      [{ src := f.a, wide := w, lr := h.lra }, { src := f.b, wide := false, lr := h.lrb }] f.aux 4 fun part vs =>
      eachLane part fun l => memberRead M (vs.getD 0 []) l (shflIndex (f.op.toNat % 4) l (lo32 (srcLane vs 1 l)))

/-- v.bcast (R112): lane B of the fragment, or its lowest participating lane. -/
def execVBcast (h : Hdr) (f : NForm) (s : State) : Host.Outcome State Fault Refusal :=
  withAgent s fun a =>
    let w := wideTy f.ty
    let M := s.maskOfAgent a
    let b := (readScl s a f.b false).toNat % 2 ^ 32
    vecOp s a h f.d.idx.toNat w (nSrcs h f w 1) f.aux 4 fun part vs =>
      let j := if f.op = 0#5 then b else lowLane part
      eachLane part fun l => memberRead M (vs.getD 0 []) l (some j)

/-- The same truth value in every participating lane of a predicate (R114). -/
def voteAll (part : Mask) (b : Bool) : Mask := if b then part else 0#64

/-- v.vote.any (R114). -/
def execVVoteAny (h : Hdr) (f : NForm) (s : State) : Host.Outcome State Fault Refusal :=
  withAgent s fun a =>
    predOp s a h f.d.idx.toNat [] f.aux 4 fun part _ => voteAll part (part &&& s.predOf a f.a.idx.toNat != 0#64)

/-- v.vote.all (R114). -/
def execVVoteAll (h : Hdr) (f : NForm) (s : State) : Host.Outcome State Fault Refusal :=
  withAgent s fun a =>
    predOp s a h f.d.idx.toNat [] f.aux 4 fun part _ => voteAll part (part &&& ~~~(s.predOf a f.a.idx.toNat) == 0#64)

/-- v.vote.uni (R114). -/
def execVVoteUni (h : Hdr) (f : NForm) (s : State) : Host.Outcome State Fault Refusal :=
  withAgent s fun a =>
    predOp s a h f.d.idx.toNat (nSrcs h f (wideTy f.ty) 1) f.aux 4 fun part vs =>
      voteAll part ((lanesOf part).all fun l => srcLane vs 0 l == srcLane vs 0 (lowLane part))

/-- v.vote.ballot (R114). -/
def execVVoteBallot (h : Hdr) (f : NForm) (s : State) : Host.Outcome State Fault Refusal :=
  withAgent s fun a =>
    sclOp s a h f.d.idx.toNat true 4 fun s => s.guardMask a h &&& s.predOf a f.a.idx.toNat

/-- v.match (R115): D is a pair. -/
def execVMatch (h : Hdr) (f : NForm) (s : State) : Host.Outcome State Fault Refusal :=
  withAgent s fun a =>
    vecOp s a h f.d.idx.toNat true (nSrcs h f (wideTy f.ty) 1) f.aux 8 fun part vs =>
      eachLane part fun l => matchLane part (vs.getD 0 []) l

/-- v.rank (R115): A is a pair. -/
def execVRank (h : Hdr) (f : NForm) (s : State) : Host.Outcome State Fault Refusal :=
  withAgent s fun a =>
    vecOp s a h f.d.idx.toNat false (nSrcs h f true 1) f.aux 4 fun part vs =>
      eachLane part fun l => BitVec.ofNat 64 (rankLane f.op.toNat l (srcLane vs 0 l))

/-- Latency of v.scan and v.red (R130). -/
def scanLat (t : Ty) : Nat :=
  match t with
  | .f32 => 16
  | .f64 => 32
  | _ => 8

/-- v.scan (R116, R118): op [2:0] the operator, [3] exclusive, [4] segmented by the predicate that C names. -/
def execVScan (h : Hdr) (f : NForm) (s : State) : Host.Outcome State Fault Refusal :=
  withAgent s fun a =>
    let w := wideTy f.ty
    let heads := if f.op.getLsbD 4 then s.predOf a f.c.idx.toNat else 0#64
    fpOp s a h f.d.idx.toNat w (nSrcs h f w 1) f.aux f.rnd (scanLat f.ty) fun env part vs =>
      let r := scanLanes f.ty (f.op.toNat % 8) (f.op.getLsbD 3) heads (fun l => env l 0 f.sat) (vs.getD 0 []) part
      { writes := r.out, flags := r.fl }

/-- v.red (R117, R118): the tree's result and conditions belong to every participating lane. -/
def execVRed (h : Hdr) (f : NForm) (s : State) : Host.Outcome State Fault Refusal :=
  withAgent s fun a =>
    let w := wideTy f.ty
    fpOp s a h f.d.idx.toNat w (nSrcs h f w 1) f.aux f.rnd (scanLat f.ty) fun env part vs =>
      let r := redTree f.ty (f.op.toNat % 8) (fun i => env i 0 f.sat) (vs.getD 0 []) part
      { writes := eachLane part fun _ => r.1.getD 0#64, flags := (lanesOf part).map fun l => (l, r.2) }

/-- v.compact (R113). -/
def execVCompact (h : Hdr) (f : NForm) (s : State) : Host.Outcome State Fault Refusal :=
  withAgent s fun a =>
    let w := wideTy f.ty
    let p := s.predOf a f.b.idx.toNat
    vecOp s a h f.d.idx.toNat w (nSrcs h f w 1) f.aux 6 fun part vs => compactWrites part p (vs.getD 0 [])

/-- v.expand (R113). -/
def execVExpand (h : Hdr) (f : NForm) (s : State) : Host.Outcome State Fault Refusal :=
  withAgent s fun a =>
    let w := wideTy f.ty
    let p := s.predOf a f.b.idx.toNat
    vecOp s a h f.d.idx.toNat w (nSrcs h f w 1) f.aux 6 fun part vs => expandWrites part p (vs.getD 0 [])

end Sys2Proof.Machine
end

