-- ==== Sys2Proof/Machine/Pred.lean ====
section
/-! DEFINITION. Class 0x2: compares, predicates and selection (R81-R86). -/
namespace Sys2Proof.Machine

/-- v.cmp (R81, R82). -/
def execVCmp (h : Hdr) (f : NForm) (s : State) : Host.Outcome State Fault Refusal :=
  withAgent s fun a =>
    let w := wideTy f.ty
    predOp s a h f.d.idx.toNat (nSrcs h f w 2) f.aux 4 fun part vs =>
      lanesWhere part fun l =>
        condHolds (Ty.width f.ty) (Ty.signed f.ty) f.op.toNat (srcLane vs 0 l).toNat (srcLane vs 1 l).toNat

/-- v.cmp with imm32 (R81, R82). -/
def execVCmpImm (h : Hdr) (f : IForm) (s : State) : Host.Outcome State Fault Refusal :=
  withAgent s fun a =>
    let w := wideTy f.ty
    predOp s a h f.d.idx.toNat [{ src := f.a, wide := w, lr := h.lra }] f.aux 4 fun part vs =>
      lanesWhere part fun l =>
        condHolds (Ty.width f.ty) (Ty.signed f.ty) f.op.toNat (srcLane vs 0 l).toNat (immOf f.ty f.imm).toNat

/-- v.fcmp (R83). -/
def execVFcmp (h : Hdr) (f : NForm) (s : State) : Host.Outcome State Fault Refusal :=
  withAgent s fun a =>
    fpPredOp s a h f.d.idx.toNat (nSrcs h f (wideTy f.ty) 2) f.aux 4 fun env l vs =>
      opFcmp (Ty.ff f.ty) env.daz f.op.toNat (srcLane vs 0 l).toNat (srcLane vs 1 l).toNat

/-- v.fcmp with imm32 (R83). -/
def execVFcmpImm (h : Hdr) (f : IForm) (s : State) : Host.Outcome State Fault Refusal :=
  withAgent s fun a =>
    fpPredOp s a h f.d.idx.toNat [{ src := f.a, wide := wideTy f.ty, lr := h.lra }] f.aux 4 fun env l vs =>
      opFcmp (Ty.ff f.ty) env.daz f.op.toNat (srcLane vs 0 l).toNat (immOf f.ty f.imm).toNat

/-- A predicate operation over the participating lanes (R84); a Keystone stream has none of them. -/
def predLogic (h : Hdr) (f : NForm) (g : Mask → Mask → Mask) (s : State) : Host.Outcome State Fault Refusal :=
  withAgent s fun a =>
    predOp s a h f.d.idx.toNat [] f.aux 4 fun _ _ => g (s.predOf a f.a.idx.toNat) (s.predOf a f.b.idx.toNat)

/-- A source predicate, inverted when its bit of op is 1 (R84). -/
def invIf (b : Bool) (x : Mask) : Mask := if b then ~~~x else x

/-- p.and (R84). -/
def execPAnd (h : Hdr) (f : NForm) (s : State) : Host.Outcome State Fault Refusal :=
  predLogic h f (fun x y => invIf (f.op.getLsbD 0) x &&& invIf (f.op.getLsbD 1) y) s

/-- p.or (R84). -/
def execPOr (h : Hdr) (f : NForm) (s : State) : Host.Outcome State Fault Refusal :=
  predLogic h f (fun x y => invIf (f.op.getLsbD 0) x ||| invIf (f.op.getLsbD 1) y) s

/-- p.xor (R84). -/
def execPXor (h : Hdr) (f : NForm) (s : State) : Host.Outcome State Fault Refusal :=
  predLogic h f (fun x y => invIf (f.op.getLsbD 0) x ^^^ invIf (f.op.getLsbD 1) y) s

/-- p.not (R84). -/
def execPNot (h : Hdr) (f : NForm) (s : State) : Host.Outcome State Fault Refusal := predLogic h f (fun x _ => ~~~x) s

/-- p.mov (R84). -/
def execPMov (h : Hdr) (f : NForm) (s : State) : Host.Outcome State Fault Refusal := predLogic h f (fun x _ => x) s

/-- v.sel (R85). -/
def execVSel (h : Hdr) (f : NForm) (s : State) : Host.Outcome State Fault Refusal :=
  withAgent s fun a =>
    let w := wideTy f.ty
    let c := s.predOf a f.c.idx.toNat
    vecOp s a h f.d.idx.toNat w (nSrcs h f w 2) f.aux 4 fun part vs =>
      eachLane part fun l => if c.getLsbD l then srcLane vs 0 l else srcLane vs 1 l

/-- p.tovec (R85). -/
def execPTovec (h : Hdr) (f : NForm) (s : State) : Host.Outcome State Fault Refusal :=
  withAgent s fun a =>
    let p := s.predOf a f.a.idx.toNat
    vecOp s a h f.d.idx.toNat false [] f.aux 4 fun part _ =>
      eachLane part fun l => if p.getLsbD l then (if f.op = 0#5 then 1#64 else 0xFFFFFFFF#64) else 0#64

/-- p.fromvec (R85). -/
def execPFromvec (h : Hdr) (f : NForm) (s : State) : Host.Outcome State Fault Refusal :=
  withAgent s fun a =>
    predOp s a h f.d.idx.toNat (nSrcs h f false 1) f.aux 4 fun part vs => lanesWhere part fun l => srcLane vs 0 l != 0#64

/-- The lanes that p.popc and p.first consider (R86). -/
def countedLanes (s : State) (a : Agent) (h : Hdr) (p : Nat) : List Nat := lanesOf (s.guardMask a h &&& s.predOf a p)

/-- p.popc (R86). -/
def execPPopc (h : Hdr) (f : NForm) (s : State) : Host.Outcome State Fault Refusal :=
  withAgent s fun a => sclOp s a h f.d.idx.toNat false 4 fun s =>
    BitVec.ofNat 64 (countedLanes s a h f.a.idx.toNat).length

/-- p.first (R86): 64 where there is none. -/
def execPFirst (h : Hdr) (f : NForm) (s : State) : Host.Outcome State Fault Refusal :=
  withAgent s fun a => sclOp s a h f.d.idx.toNat false 4 fun s =>
    BitVec.ofNat 64 ((countedLanes s a h f.a.idx.toNat).headD 64)

end Sys2Proof.Machine
end

