-- ==== Sys2Proof/Machine/Scalar.lean ====
section
/-! DEFINITION. Class 0x0: scalar instructions (R65-R72), but for s.ld and s.st. -/
namespace Sys2Proof.Machine

/-- A scalar result of an element operation on A, B and C, of 32 or 64 bits (R66, R67). -/
def sclN (w : Nat) (e : ElemFn) (lat : Nat) (h : Hdr) (f : NForm) (s : State) : Host.Outcome State Fault Refusal :=
  withAgent s fun a =>
    sclOp s a h f.d.idx.toNat (w == 64) lat fun s =>
      let v := fun (x : Src) => (readScl s a x (w == 64)).toNat
      BitVec.ofNat 64 (e w (Ty.signed f.ty) false (v f.a) (v f.b) (v f.c))

/-- The same with imm32 as B: as written, or extended as the type gives (R22, R66, R67). -/
def sclI (w : Nat) (e : ElemFn) (lat : Nat) (h : Hdr) (f : IForm) (s : State) : Host.Outcome State Fault Refusal :=
  withAgent s fun a =>
    sclOp s a h f.d.idx.toNat (w == 64) lat fun s =>
      let b := if w = 64 then (immOf f.ty f.imm).toNat else f.imm.toNat
      BitVec.ofNat 64 (e w (Ty.signed f.ty) false (readScl s a f.a (w == 64)).toNat b 0)

/-- A truth value to a scalar register or to a predicate over the fragment's lanes (R69). -/
def sclTruth (s : State) (a : Agent) (h : Hdr) (d : Dst) (lat : Nat) (b : State → Bool) : State :=
  if d.cls = .spec then
    if s.guardOnce a h then ((s.pset a d.idx.toNat (b s)).addBusy a [(2, d.idx.toNat)] lat).retire a h
    else s.retire a h
  else sclOp s a h d.idx.toNat false lat fun s => if b s then 1#64 else 0#64

/-- Quotient (op 0) or remainder (op 1) of R68. -/
def sclDiv (signed : Bool) (op a b : Nat) : W64 :=
  let qr := divRem 32 signed a b
  BitVec.ofNat 64 (if op = 0 then qr.1 else qr.2)

/-- s.add (R66). -/
def execSAdd (h : Hdr) (f : NForm) (s : State) : Host.Outcome State Fault Refusal :=
  sclN 32 elAdd 2 h f s

/-- s.add with imm32 (R66). -/
def execSAddImm (h : Hdr) (f : IForm) (s : State) : Host.Outcome State Fault Refusal :=
  sclI 32 elAdd 2 h f s

/-- s.sub (R66). -/
def execSSub (h : Hdr) (f : NForm) (s : State) : Host.Outcome State Fault Refusal :=
  sclN 32 elSub 2 h f s

/-- s.sub with imm32 (R66). -/
def execSSubImm (h : Hdr) (f : IForm) (s : State) : Host.Outcome State Fault Refusal :=
  sclI 32 elSub 2 h f s

/-- s.mul (R66). -/
def execSMul (h : Hdr) (f : NForm) (s : State) : Host.Outcome State Fault Refusal :=
  sclN 32 elMul 4 h f s

/-- s.mul with imm32 (R66). -/
def execSMulImm (h : Hdr) (f : IForm) (s : State) : Host.Outcome State Fault Refusal :=
  sclI 32 elMul 4 h f s

/-- s.mulhi (R66). -/
def execSMulhi (h : Hdr) (f : NForm) (s : State) : Host.Outcome State Fault Refusal :=
  sclN 32 elMulhi 4 h f s

/-- s.mulhi with imm32 (R66). -/
def execSMulhiImm (h : Hdr) (f : IForm) (s : State) : Host.Outcome State Fault Refusal :=
  sclI 32 elMulhi 4 h f s

/-- s.mad (R66). -/
def execSMad (h : Hdr) (f : NForm) (s : State) : Host.Outcome State Fault Refusal :=
  sclN 32 elMad 4 h f s

/-- s.and (R66). -/
def execSAnd (h : Hdr) (f : NForm) (s : State) : Host.Outcome State Fault Refusal :=
  sclN 32 elAnd 2 h f s

/-- s.and with imm32 (R66). -/
def execSAndImm (h : Hdr) (f : IForm) (s : State) : Host.Outcome State Fault Refusal :=
  sclI 32 elAnd 2 h f s

/-- s.or (R66). -/
def execSOr (h : Hdr) (f : NForm) (s : State) : Host.Outcome State Fault Refusal :=
  sclN 32 elOr 2 h f s

/-- s.or with imm32 (R66). -/
def execSOrImm (h : Hdr) (f : IForm) (s : State) : Host.Outcome State Fault Refusal :=
  sclI 32 elOr 2 h f s

/-- s.xor (R66). -/
def execSXor (h : Hdr) (f : NForm) (s : State) : Host.Outcome State Fault Refusal :=
  sclN 32 elXor 2 h f s

/-- s.xor with imm32 (R66). -/
def execSXorImm (h : Hdr) (f : IForm) (s : State) : Host.Outcome State Fault Refusal :=
  sclI 32 elXor 2 h f s

/-- s.shl (R66). -/
def execSShl (h : Hdr) (f : NForm) (s : State) : Host.Outcome State Fault Refusal :=
  sclN 32 elShl 2 h f s

/-- s.shl with imm32 (R66). -/
def execSShlImm (h : Hdr) (f : IForm) (s : State) : Host.Outcome State Fault Refusal :=
  sclI 32 elShl 2 h f s

/-- s.shr (R66). -/
def execSShr (h : Hdr) (f : NForm) (s : State) : Host.Outcome State Fault Refusal :=
  sclN 32 elShr 2 h f s

/-- s.shr with imm32 (R66). -/
def execSShrImm (h : Hdr) (f : IForm) (s : State) : Host.Outcome State Fault Refusal :=
  sclI 32 elShr 2 h f s

/-- s.sar (R66). -/
def execSSar (h : Hdr) (f : NForm) (s : State) : Host.Outcome State Fault Refusal :=
  sclN 32 elSar 2 h f s

/-- s.sar with imm32 (R66). -/
def execSSarImm (h : Hdr) (f : IForm) (s : State) : Host.Outcome State Fault Refusal :=
  sclI 32 elSar 2 h f s

/-- s.min (R66). -/
def execSMin (h : Hdr) (f : NForm) (s : State) : Host.Outcome State Fault Refusal :=
  sclN 32 elMin 2 h f s

/-- s.min with imm32 (R66). -/
def execSMinImm (h : Hdr) (f : IForm) (s : State) : Host.Outcome State Fault Refusal :=
  sclI 32 elMin 2 h f s

/-- s.max (R66). -/
def execSMax (h : Hdr) (f : NForm) (s : State) : Host.Outcome State Fault Refusal :=
  sclN 32 elMax 2 h f s

/-- s.max with imm32 (R66). -/
def execSMaxImm (h : Hdr) (f : IForm) (s : State) : Host.Outcome State Fault Refusal :=
  sclI 32 elMax 2 h f s

/-- s.popc (R66). -/
def execSPopc (h : Hdr) (f : NForm) (s : State) : Host.Outcome State Fault Refusal :=
  sclN 32 elPopc 2 h f s

/-- s.clz (R66). -/
def execSClz (h : Hdr) (f : NForm) (s : State) : Host.Outcome State Fault Refusal :=
  sclN 32 elClz 2 h f s

/-- s.bfe (R77). -/
def execSBfe (h : Hdr) (f : NForm) (s : State) : Host.Outcome State Fault Refusal :=
  sclN 32 elBfe 2 h f s

/-- s.bfe with imm32 (R77). -/
def execSBfeImm (h : Hdr) (f : IForm) (s : State) : Host.Outcome State Fault Refusal :=
  sclI 32 elBfe 2 h f s

/-- s.bfi (R77). -/
def execSBfi (h : Hdr) (f : NForm) (s : State) : Host.Outcome State Fault Refusal :=
  sclN 32 elBfi 2 h f s

/-- s.mov (R66). -/
def execSMov (h : Hdr) (f : NForm) (s : State) : Host.Outcome State Fault Refusal :=
  sclN 32 elMov 2 h f s

/-- s.add64 (R67). -/
def execSAdd64 (h : Hdr) (f : NForm) (s : State) : Host.Outcome State Fault Refusal :=
  sclN 64 elAdd 2 h f s

/-- s.add64 with imm32 (R67). -/
def execSAdd64Imm (h : Hdr) (f : IForm) (s : State) : Host.Outcome State Fault Refusal :=
  sclI 64 elAdd 2 h f s

/-- s.sub64 (R67). -/
def execSSub64 (h : Hdr) (f : NForm) (s : State) : Host.Outcome State Fault Refusal :=
  sclN 64 elSub 2 h f s

/-- s.sub64 with imm32 (R67). -/
def execSSub64Imm (h : Hdr) (f : IForm) (s : State) : Host.Outcome State Fault Refusal :=
  sclI 64 elSub 2 h f s

/-- s.mul64 (R67). -/
def execSMul64 (h : Hdr) (f : NForm) (s : State) : Host.Outcome State Fault Refusal :=
  sclN 64 elMul 4 h f s

/-- s.mul64 with imm32 (R67). -/
def execSMul64Imm (h : Hdr) (f : IForm) (s : State) : Host.Outcome State Fault Refusal :=
  sclI 64 elMul 4 h f s

/-- s.cmp (R69, R81). -/
def execSCmp (h : Hdr) (f : NForm) (s : State) : Host.Outcome State Fault Refusal :=
  withAgent s fun a => sclTruth s a h f.d 2 fun s =>
    condHolds 32 (Ty.signed f.ty) f.op.toNat (readScl s a f.a false).toNat (readScl s a f.b false).toNat

/-- s.cmp with imm32 (R69, R81). -/
def execSCmpImm (h : Hdr) (f : IForm) (s : State) : Host.Outcome State Fault Refusal :=
  withAgent s fun a => sclTruth s a h f.d 2 fun s =>
    condHolds 32 (Ty.signed f.ty) f.op.toNat (readScl s a f.a false).toNat f.imm.toNat

/-- s.sel (R69): A when C is nonzero, otherwise B. -/
def execSSel (h : Hdr) (f : NForm) (s : State) : Host.Outcome State Fault Refusal :=
  withAgent s fun a => sclOp s a h f.d.idx.toNat false 2 fun s =>
    if readScl s a f.c false != 0#64 then readScl s a f.a false else readScl s a f.b false

/-- s.li (R66). -/
def execSLi (h : Hdr) (f : IForm) (s : State) : Host.Outcome State Fault Refusal :=
  withAgent s fun a => sclOp s a h f.d.idx.toNat false 2 fun _ => f.imm.setWidth 64

/-- s.lih (R67): the odd register of the pair. -/
def execSLih (h : Hdr) (f : IForm) (s : State) : Host.Outcome State Fault Refusal :=
  withAgent s fun a => sclOp s a h (f.d.idx.toNat + 1) false 2 fun _ => f.imm.setWidth 64

/-- s.divs (R68). -/
def execSDivs (h : Hdr) (f : NForm) (s : State) : Host.Outcome State Fault Refusal :=
  withAgent s fun a => sclOp s a h f.d.idx.toNat false 20 fun s =>
    sclDiv true f.op.toNat (readScl s a f.a false).toNat (readScl s a f.b false).toNat

/-- s.divs by imm32 (R68). -/
def execSDivsImm (h : Hdr) (f : IForm) (s : State) : Host.Outcome State Fault Refusal :=
  withAgent s fun a => sclOp s a h f.d.idx.toNat false 20 fun s =>
    sclDiv true f.op.toNat (readScl s a f.a false).toNat f.imm.toNat

/-- s.divn (R68). -/
def execSDivn (h : Hdr) (f : NForm) (s : State) : Host.Outcome State Fault Refusal :=
  withAgent s fun a => sclOp s a h f.d.idx.toNat false 20 fun s =>
    sclDiv false f.op.toNat (readScl s a f.a false).toNat (readScl s a f.b false).toNat

/-- s.divn by imm32 (R68). -/
def execSDivnImm (h : Hdr) (f : IForm) (s : State) : Host.Outcome State Fault Refusal :=
  withAgent s fun a => sclOp s a h f.d.idx.toNat false 20 fun s =>
    sclDiv false f.op.toNat (readScl s a f.a false).toNat f.imm.toNat

/-- What s.rdsr reads (R71): a special, or a predicate's 64 bits; a Keystone predicate reads all zeros or all ones. -/
def rdsrValue (s : State) (a : Agent) (i : Nat) : W64 :=
  if i < 16 then (match a with
    | .frag _ _ => s.predOf a i
    | .ks _ => if s.predOf a i != 0#64 then BitVec.allOnes 64 else 0#64)
  else specialOnce s a i

/-- s.rdsr (R71). -/
def execSRdsr (h : Hdr) (f : NForm) (s : State) : Host.Outcome State Fault Refusal :=
  withAgent s fun a =>
    let i := f.a.idx.toNat
    sclOp s a h f.d.idx.toNat (i < 16 || i == 0x20) 4 fun s => rdsrValue s a i

/-- s.vrd (R72): one lane of a permuted vector register. -/
def execSVrd (h : Hdr) (f : NForm) (s : State) : Host.Outcome State Fault Refusal :=
  withAgent s fun a =>
    if s.guardOnce a h then
      let j := (readScl s a f.b false).toNat % 64
      let (vs, s) := readSrc s a f.a false f.aux
      ((s.writeScl a f.d.idx.toNat false (lane vs j)).finish a h
        [{ src := f.a, wide := false, lr := h.lra }] [] [(1, f.d.idx.toNat)] 4)
    else s.retire a h

/-- s.vwr (R72): a scalar into one lane of the fragment; nothing when the lane is outside its mask. -/
def execSVwr (h : Hdr) (f : NForm) (s : State) : Host.Outcome State Fault Refusal :=
  withAgent s fun a =>
    let j := (readScl s a f.b false).toNat % 64
    let d := f.d.idx.toNat
    if s.guardOnce a h && (s.maskOfAgent a).getLsbD j then
      s.withRegs a [d] fun s =>
        ((s.writeLanes a d false [(j, readScl s a f.a false)]).addBusy a [(0, d)] 4).retire a h
    else s.retire a h

end Sys2Proof.Machine
end

