-- ==== Sys2Proof/Machine/Select.lean ====
section
/-! DEFINITION. Issue selection (R275-R278) and the Keystone's round robin (R208). -/
namespace Sys2Proof.Machine

/-! Candidates (R274, R276). -/
namespace State
/-- Groups of a partition of a core that are ACTIVE. -/
def activeGroups (s : State) (core part : Nat) : List (Nat × Group) :=
  s.grps.filter fun p => p.2.st == .active && p.2.partition == part && s.coreOfGrp p.1 == core &&
    ((s.tasks.get? p.2.task).map (·.st)) == some .resident
/-- An agent waits in an instruction that it has issued (R274: WAITING). -/
def inWait (s : State) (a : Agent) : Bool :=
  match s.stOf a with
  | .waiting (.fetch _) => false
  | .waiting _ => true
  | _ => false
/-- Fragments of a partition whose wait is over: the instruction in which they wait ends, and takes no slot. -/
def waitsOver (s : State) (core part : Nat) : List Agent :=
  (s.activeGroups core part).flatMap fun p =>
    (p.2.frags.map fun q => Agent.frag p.1 q.1).filter fun a => s.inWait a && s.mayIssue a && s.readyAgent a
/-- Whether a fragment is a candidate of a slot: it may issue, is not HELD, and its next instruction belongs to the slot.
A fetch that would fault is taken in slot A. -/
def candidate (s : State) (slotB : Bool) (g e : Nat) (F : Frag) : Bool :=
  let a := Agent.frag g e
  !s.inWait a && F.holdUntil ≤ s.clk && s.mayIssue a && s.readyAgent a &&
    (match s.peek a F.pc with
      | some w => wordSlotA w != slotB && !s.interlocked a w && !s.countFull a w
      | none => !slotB)
/-- Candidates of a slot: group, entry, admission order, ready since, yield request. -/
def candidates (s : State) (core part : Nat) (slotB : Bool) : List (Nat × Nat × Nat × Nat × Bool) :=
  (s.activeGroups core part).flatMap fun p =>
    (p.2.frags.filter fun q => s.candidate slotB p.1 q.1 q.2).map fun q => (p.1, q.1, p.2.order, q.2.readySince, q.2.yieldReq)
end State

/-- The first of a list that no other precedes under a measure. -/
def firstBy {α : Type} (before : α → α → Bool) : List α → Option α
  | [] => none
  | x :: xs => some (xs.foldl (fun b y => if before y b then y else b) x)
/-- Older: lower admission order, then the longer wait (R276 step 5). -/
def olderCand (x y : Nat × Nat × Nat × Nat × Bool) : Bool :=
  x.2.2.1 < y.2.2.1 || (x.2.2.1 == y.2.2.1 && x.2.2.2.1 < y.2.2.2.1)

namespace State
def slotKey (part : Nat) (slotB : Bool) : Nat := part * 2 + slotB.toNat
/-- Whether a slot is free of an instruction that occupies it (R275). -/
def slotFree (s : State) (core part : Nat) (slotB : Bool) : Bool :=
  (s.core core).slotBusy.getD (slotKey part slotB) 0 ≤ s.clk
/-- A candidate that has waited 512 clocks (R276 step 3). -/
def waitedLong (s : State) (c : Nat × Nat × Nat × Nat × Bool) : Bool := c.2.2.2.1 + 512 ≤ s.clk
/-- The choice among a slot's candidates (R276): the promoted one, if it still is one that waits, the one that last issued,
the oldest; one with a yield request only when there is no other. -/
def chooseFor (s : State) (core part : Nat) (slotB : Bool) : Option (Nat × Nat) :=
  let cs := s.candidates core part slotB
  let C := s.core core
  let k := slotKey part slotB
  let named := fun (x : Option (Nat × Nat)) => x.bind fun p => cs.find? fun c => c.1 == p.1 && c.2.1 == p.2
  let greedy := (named (C.last.get? k)).filter fun c => !c.2.2.2.2
  let free := cs.filter fun c => !c.2.2.2.2
  let oldest := (firstBy olderCand free).or (firstBy olderCand cs)
  (((named (C.promoted.get? k)).filter s.waitedLong).or (greedy.or oldest)).map fun c => (c.1, c.2.1)
/-- The fragments of a partition that are not candidates wait anew; passed over, a yield request clears (R276). -/
def passOver (s : State) (core part : Nat) (csA csB : List (Nat × Nat)) (pickA pickB : Option (Nat × Nat)) : State :=
  let passed := fun (cs : List (Nat × Nat)) (pick : Option (Nat × Nat)) x => cs.contains x && pick.isSome && pick != some x
  let upd := fun (g e : Nat) (F : Frag) =>
    if !(csA ++ csB).contains (g, e) then { F with readySince := max F.readySince (s.clk + 1) }
    else if passed csA pickA (g, e) || passed csB pickB (g, e) then { F with yieldReq := false }
    else F
  (s.activeGroups core part).foldl (fun (s : State) p =>
    s.modGrp p.1 fun G => { G with frags := G.frags.mapVal (upd p.1) }) s
/-- A fragment takes a slot: it is remembered, its promotion ends, and its word occupies the slot. -/
def takeSlot (s : State) (core part : Nat) (slotB : Bool) (g e : Nat) (w : Option IWord) : State :=
  let k := slotKey part slotB
  let n := (w.map wordOccupies).getD 1
  { (s.modCore core fun C => { C with last := C.last.set k (g, e)
                                      promoted := C.promoted.erase k
                                      slotBusy := C.slotBusy.put 0 k (if n ≤ 1 then 0 else s.clk + n) }) with
    issue := s.issue ++ [.frag g e] }
/-- The successor with which a selected instruction pairs (R277). -/
def pairOf' (s : State) (core part : Nat) (slotB : Bool) (g e : Nat) : Option IWord :=
  let a := Agent.frag g e
  match s.frag? g e with
  | none => none
  | some F =>
    match s.peek a F.pc, s.peek a (F.pc + 12#64) with
    | some i, some j =>
      let here := F.record.bind fun r => (s.grps.get? g).bind fun G => G.fuses.get? r
      let fuse := (here.map fun R => R.addr) == some (F.pc + 12#64)
      let clash := (wordReads j ++ wordWrites j).any (wordWrites i).contains || (wordWrites j).any (wordReads i).contains
      if wordPair i && wordSlotA i != wordSlotA j && s.slotFree core part (!slotB) && !clash && !wordStops i && !fuse &&
          !s.interlocked a j && !s.countFull a j then some j else none
    | _, _ => none
/-- A partition's selection (R276, R277): the waits that are over; slot A, the successor that pairs with it, else slot
B. -/
def selectIssue (s : State) (core part : Nat) : State :=
  let word := fun (s : State) (p : Nat × Nat) => (s.frag? p.1 p.2).bind fun F => s.peek (.frag p.1 p.2) F.pc
  let candsA := (s.candidates core part false).map fun c => (c.1, c.2.1)
  let candsB := (s.candidates core part true).map fun c => (c.1, c.2.1)
  let pickA := if s.slotFree core part false then s.chooseFor core part false else none
  let paired := pickA.bind fun p => (s.pairOf' core part false p.1 p.2).map fun w => (p, w)
  let pickB := if paired.isSome || !s.slotFree core part true then none else s.chooseFor core part true
  let pairedB := if pickA.isSome then none else pickB.bind fun p => (s.pairOf' core part true p.1 p.2).map fun w => (p, w)
  let s1 := s.passOver core part candsA candsB pickA pickB
  let s1 := { s1 with issue := s1.issue ++ s.waitsOver core part }
  let s1 := match pickA with
    | some p => s1.takeSlot core part false p.1 p.2 (word s p)
    | none => s1
  let s1 := match paired with
    | some (p, w) => s1.takeSlot core part true p.1 p.2 (some w)
    | none => s1
  let s1 := match pickB with
    | some p => s1.takeSlot core part true p.1 p.2 (word s p)
    | none => s1
  match pairedB with
  | some (p, w) => s1.takeSlot core part false p.1 p.2 (some w)
  | none => s1

/-- The candidate that has waited longest, 512 clocks or more, is promoted; without one none is (R276 step 3). -/
def promote (s : State) (core part : Nat) (slotB : Bool) : State :=
  let k := slotKey part slotB
  s.modCore core fun C =>
    { C with promoted := match firstBy (fun x y => x.2.2.2.1 < y.2.2.2.1) ((s.candidates core part slotB).filter s.waitedLong) with
        | some c => C.promoted.set k (c.1, c.2.1)
        | none => C.promoted.erase k }

/-- Whether a Keystone context can issue now. -/
def ksReady (s : State) (k : Nat) : Bool :=
  let c := s.ksCtx k
  !s.inWait (.ks k) && c.holdUntil ≤ s.clk && s.mayIssue (.ks k) && s.readyAgent (.ks k) &&
    (match s.peek (.ks k) c.pc with
      | some w => !s.interlocked (.ks k) w && !s.countFull (.ks k) w
      | none => true)
/-- A cluster's Keystone issues for the next ready context in turn (R208); contexts whose wait is over go on. -/
def selectKs (s : State) (clu : Nat) : State :=
  let first := (s.clu clu).issueNext
  let s := { s with issue := s.issue ++ (((List.range 4).map fun i => Agent.ks (clu * 4 + i)).filter fun a =>
    s.inWait a && s.mayIssue a && s.readyAgent a) }
  match (List.range 4).find? fun i => s.ksReady (clu * 4 + (first + i) % 4) with
  | some i =>
    let k := (first + i) % 4
    { (s.modClu clu fun C => { C with issueNext := (k + 1) % 4 }) with issue := s.issue ++ [.ks (clu * 4 + k)] }
  | none => s
end State

/-- PARTITION_ISSUE_SELECTION (R275-R277). -/
def execPartitionIssueSelection (core part : Nat) (s : State) : Host.Outcome State Fault Refusal := .next (s.selectIssue core part)
/-- CANDIDATE_PROMOTION (R276). -/
def execCandidatePromotion (core part : Nat) (slotB : Bool) (s : State) : Host.Outcome State Fault Refusal :=
  .next (s.promote core part slotB)
/-- KEYSTONE_ISSUE (R208). -/
def execKeystoneIssue (cluster : Nat) (s : State) : Host.Outcome State Fault Refusal := .next (s.selectKs cluster)

end Sys2Proof.Machine
end

