-- ==== Sys2Proof/Machine/Approx.lean ====
section
/-! DEFINITION. The approximate functions of R96. Each exact value is computed in fixed point far below the stated
bound; the f32 values within the bound form an interval of encodings, and which of them an input gives is the opaque
choice of log 5. -/
namespace Sys2Proof.Machine

/-- Fraction bits of the fixed point. -/
def fxBits : Nat := 300
def fxOne : Nat := 2 ^ fxBits

/-- Inverse hyperbolic tangent of z, by its series. -/
def atanhFrom (z2 : Nat) : Nat → Nat → Nat → Nat → Nat
  | 0, _, _, acc => acc
  | f + 1, k, p, acc => atanhFrom z2 f (k + 2) (p * z2 / fxOne) (acc + p / k)
def atanhFx (z : Nat) : Nat := atanhFrom (z * z / fxOne) 110 1 z 0

/-- The natural logarithm of 2. -/
def ln2Fx : Nat := 2 * atanhFx (fxOne / 3)

/-- The exponential of x < 1, by its series. -/
def expFrom (x : Nat) : Nat → Nat → Nat → Nat → Nat
  | 0, _, _, acc => acc
  | f + 1, k, t, acc => expFrom x f (k + 1) (t * x / fxOne / k) (acc + t)
def expFx (x : Nat) : Nat := expFrom x 80 1 fxOne 0

/-- Inverse tangent of 1 / m, by its series. -/
def atanInvFrom (m2 : Nat) : Nat → Nat → Nat → Int → Int
  | 0, _, _, acc => acc
  | f + 1, k, p, acc =>
    atanInvFrom m2 f (k + 2) (p / m2) (if k % 4 = 1 then acc + (p / k : Nat) else acc - (p / k : Nat))
def atanInvFx (m : Nat) : Int := atanInvFrom (m * m) 80 1 (fxOne / m) 0

/-- The circle constant, by Machin's formula. -/
def piFx : Nat := (16 * atanInvFx 5 - 4 * atanInvFx 239).toNat

/-- Sine of x, by its series. -/
def sinFrom (x2 : Nat) : Nat → Nat → Nat → Int → Int
  | 0, _, _, acc => acc
  | f + 1, k, t, acc =>
    sinFrom x2 f (k + 2) (t * x2 / fxOne / ((k + 1) * (k + 2))) (if k % 4 = 1 then acc + (t : Int) else acc - (t : Int))
def sinFx (x : Nat) : Nat := (sinFrom (x * x / fxOne) 50 1 x 0).toNat

/-- The f32 encodings in ascending order of value, minus zero before plus zero. -/
def f32Key (b : Nat) : Int := if b < 2 ^ 31 then b else -((b : Int) - 2 ^ 31) - 1
def keyF32 (k : Int) : Nat := if 0 ≤ k then k.toNat else 2 ^ 31 + (-k - 1).toNat
def f32MaxKey : Int := 0x7F7FFFFF

/-- Encoding of a signed fraction rounded to f32, never beyond the finite range. -/
def f32Bound (m : Rnd) (x : Int) (d : Nat) : Int :=
  max (-f32MaxKey - 1) (min f32MaxKey (f32Key (encVal .f32 { mode := m, sat := true } (.fin (x < 0) x.natAbs d)).1))

/-- The f32 result for the exact value ±n/d within the bound of R96: `ulps` units in the last place, or 2^-24 where
`abs` and that is larger. -/
def approxF32 (fn inBits : Nat) (ulps : Nat) (abs neg : Bool) (n d : Nat) : Nat × FpFlags :=
  if FF.f32.maxEnc < encUnits .f32 (roundFF .f32 .rne 0 neg n d).1 (roundFF .f32 .rne 0 neg n d).2.1 then
    (infEncOf .f32 false neg, { of := true, nx := true })
  else
    let q := max (floorLog2 n d) (-126) - 23
    let (bn, bd) := if 0 ≤ q then (ulps * 2 ^ q.toNat, 1) else (ulps, 2 ^ (-q).toNat)
    let (bn, bd) := if abs && bn * 2 ^ 24 < bd then (1, 2 ^ 24) else (bn, bd)
    let y := signedNum neg n
    let lo := y * bd - bn * d
    let hi := y * bd + bn * d
    let kl := if lo = 0 then -1 else f32Bound .rup lo (d * bd)
    let kh := f32Bound .rdn hi (d * bd)
    let c := kl + ((Config.approxChoice fn (BitVec.ofNat 32 inBits) % (kh - kl + 1).toNat : Nat) : Int)
    let r := keyF32 c
    let exact := match decVal .f32 false r with
      | .fin s a b => (s == neg || a == 0) && a * d == n * b
      | _ => false
    (r, { uf := !exact && r % 2 ^ 31 < 2 ^ 23, nx := !exact })

/-- The f32 result of an approximate function taken to its element format (R91, R96). -/
def finishApprox (F : FF) (env : FEnv) (r : Nat × FpFlags) : Nat × FpFlags :=
  if F == .f32 then
    let m := r.1 % 2 ^ 31
    if env.ftz && m != 0 && m < 2 ^ 23 then (r.1 - m, { uf := true, nx := true }) else r
  else
    let (b, fl) := convert (.flt .f32) (.flt F) { ftz := env.ftz } r.1
    (b, { (fl.or r.2) with uf := fl.uf || ((fl.nx || r.2.nx) && b % 2 ^ (F.eb + F.mb) < 2 ^ F.mb) })

/-- An exact result of the table of R96. -/
def exactApprox (F : FF) (env : FEnv) (v : Val) : Nat × FpFlags := encVal F { env with mode := .rne, sat := false } v

def inBitsOf (v : Val) : Nat := (encVal .f32 {} v).1

/-- A power of two, as an exponent. -/
def pow2Of (n d : Nat) : Option Int :=
  let e := floorLog2 n d
  let (a, b) := scaleQ n d e
  if a = b then some e else none

/-- 2^e as a fraction. -/
def pow2Frac (e : Int) : Nat × Nat := if 0 ≤ e then (2 ^ e.toNat, 1) else (1, 2 ^ (-e).toNat)

def opRcp (F : FF) (env : FEnv) (a : Nat) : Nat × FpFlags :=
  let x := decVal F env.daz a
  withNan F [x] fun _ =>
    match x with
    | .inf s => exactApprox F env (.fin s 0 1)
    | .fin s n d =>
      if n = 0 then (infEncOf F false s, .divZero)
      else
        match pow2Of n d with
        | some e => if e ≤ 126 then exactApprox F env (.fin s d n) else
            finishApprox F env (approxF32 0 (inBitsOf x) 1 false s d n)
        | none => finishApprox F env (approxF32 0 (inBitsOf x) 1 false s d n)
    | _ => invalidNan F

def opRsq (F : FF) (env : FEnv) (a : Nat) : Nat × FpFlags :=
  let x := decVal F env.daz a
  withNan F [x] fun _ =>
    match x with
    | .inf s => if s then invalidNan F else exactApprox F env (.fin false 0 1)
    | .fin s n d =>
      if n = 0 then (infEncOf F false s, .divZero)
      else if s then invalidNan F
      else
        let (p, q) := sqrtFrac fxBits d n
        match pow2Of n d with
        | some e =>
          if e % 2 = 0 then exactApprox F env (.fin false (pow2Frac (-(e / 2))).1 (pow2Frac (-(e / 2))).2)
          else finishApprox F env (approxF32 1 (inBitsOf x) 1 false false p q)
        | none => finishApprox F env (approxF32 1 (inBitsOf x) 1 false false p q)
    | _ => invalidNan F

def opExp2 (F : FF) (env : FEnv) (a : Nat) : Nat × FpFlags :=
  let x := decVal F env.daz a
  withNan F [x] fun _ =>
    match x with
    | .inf s => if s then exactApprox F env (.fin false 0 1) else exactApprox F env (.inf false)
    | .fin s n d =>
      if n % d = 0 then
        let (p, q) := pow2Frac (max (-400) (min 400 (signedNum s (n / d))))
        let r := encVal .f32 {} (.fin false p q)
        if F == .f32 then encVal .f32 { env with mode := .rne, sat := false } (.fin false p q)
        else
          let (b, fl) := convert (.flt .f32) (.flt F) { ftz := env.ftz } r.1
          (b, fl.or { r.2 with uf := r.2.uf && b % 2 ^ (F.eb + F.mb) < 2 ^ F.mb })
      else
        let k : Int := max (-400) (min 400 (signedNum s n / (d : Int)))
        let r := (signedNum s n % (d : Int)).toNat
        let y := expFx (r * ln2Fx / d)
        let (p, q) := pow2Frac k
        finishApprox F env (approxF32 2 (inBitsOf x) 2 false false (y * p) (fxOne * q))
    | _ => invalidNan F

def opLog2 (F : FF) (env : FEnv) (a : Nat) : Nat × FpFlags :=
  let x := decVal F env.daz a
  withNan F [x] fun _ =>
    match x with
    | .inf s => if s then invalidNan F else exactApprox F env (.inf false)
    | .fin s n d =>
      if n = 0 then (infEncOf F false true, .divZero)
      else if s then invalidNan F
      else
        match pow2Of n d with
        | some e => exactApprox F env (Val.ofInt e)
        | none =>
          let e := floorLog2 n d
          let (p, q) := scaleQ n d e
          let y : Int := e * fxOne + (2 * atanhFx ((p - q) * fxOne / (p + q)) * fxOne / ln2Fx : Nat)
          finishApprox F env (approxF32 3 (inBitsOf x) 2 false (y < 0) y.natAbs fxOne)
    | _ => invalidNan F

/-- Sine of π·t for 0 < t ≤ 1/2. -/
def sinPiFx (n d : Nat) : Nat := sinFx (n * piFx / d)

def opSin (F : FF) (env : FEnv) (a : Nat) : Nat × FpFlags :=
  let x := decVal F env.daz a
  withNan F [x] fun _ =>
    match x with
    | .fin s n d =>
      if n % d = 0 then exactApprox F env (.fin s 0 1)
      else
        let r := n % (2 * d)
        let neg := s != (d < r)
        let r := r % d
        if 2 * r = d then exactApprox F env (.fin neg 1 1)
        else
          let r := if d < 2 * r then d - r else r
          finishApprox F env (approxF32 4 (inBitsOf x) 2 true neg (sinPiFx r d) fxOne)
    | _ => invalidNan F

def opCos (F : FF) (env : FEnv) (a : Nat) : Nat × FpFlags :=
  let x := decVal F env.daz a
  withNan F [x] fun _ =>
    match x with
    | .fin _ n d =>
      let r := n % (2 * d)
      if n % d = 0 then exactApprox F env (.fin (r == d) 1 1)
      else
        let neg := d < r
        let r := r % d
        if 2 * r = d then exactApprox F env (.fin false 0 1)
        else
          let neg := neg != (d < 2 * r)
          let r := if d < 2 * r then d - r else r
          finishApprox F env (approxF32 5 (inBitsOf x) 2 true neg (sinPiFx (d - 2 * r) (2 * d)) fxOne)
    | _ => invalidNan F

end Sys2Proof.Machine
end

