-- ==== Sys2Proof/Machine/VecFloat.lean ====
section
/-! DEFINITION. Class 0x3: floating-point instructions (R88-R99). -/
namespace Sys2Proof.Machine

/-- A float element operation over every element of every participating lane, n sources of the type's width. -/
def fpN (n lat : Nat) (r : Rnd) (op : FEnv → (Nat → Nat) → Nat × FpFlags) (h : Hdr) (f : NForm) (s : State) :
    Host.Outcome State Fault Refusal :=
  withAgent s fun a =>
    let w := wideTy f.ty
    fpOp s a h f.d.idx.toNat w (nSrcs h f w n) f.aux r lat fun env part vs =>
      fpLanes f.ty part vs (fun i e => env i e f.sat) op

/-- The same with imm32 as B (R22); no rounding is named, so it is rne. -/
def fpI (lat : Nat) (op : FEnv → (Nat → Nat) → Nat × FpFlags) (h : Hdr) (f : IForm) (s : State) :
    Host.Outcome State Fault Refusal :=
  withAgent s fun a =>
    let w := wideTy f.ty
    fpOp s a h f.d.idx.toNat w [{ src := f.a, wide := w, lr := h.lra }] f.aux .rne lat fun env part vs =>
      fpLanes f.ty part (vs ++ [allLanes (immOf f.ty f.imm)]) (fun i e => env i e f.sat) op

/-- Latency of a division or square root (R108). -/
def fdivLat (t : Ty) : Nat := if wideTy t then 48 else 24

/-- The exponent that v.fscale reads of B for element k (R94): s32, or one of two s16 elements. -/
def scaleExp (t : Ty) (b : W64) (k : Nat) : Int :=
  if Ty.count t = 1 then intVal 32 true (b.toNat % 2 ^ 32) else intVal 16 true (elemAt 16 k b)

/-- v.fscale over the lanes, B given per lane. -/
def scaleLanes (t : Ty) (part : Mask) (a b : List W64) (env : Nat → Nat → FEnv) : FpRes :=
  let w := Ty.width t
  let rs := (lanesOf part).map fun l =>
    let es := (List.range (Ty.count t)).map fun k =>
      opScale (Ty.ff t) (env l k) (elemAt w k (lane a l)) (scaleExp t (lane b l) k)
    (l, joinElems w (es.map (·.1)), es.foldl (fun f e => f.or e.2) FpFlags.none)
  { writes := rs.map fun r => (r.1, r.2.1), flags := rs.map fun r => (r.1, r.2.2) }

/-- v.fadd (R94). -/
def execVFadd (h : Hdr) (f : NForm) (s : State) : Host.Outcome State Fault Refusal :=
  fpN 2 4 f.rnd (fun env x => opAdd (Ty.ff f.ty) env (x 0) (x 1)) h f s

/-- v.fadd with imm32 (R94). -/
def execVFaddImm (h : Hdr) (f : IForm) (s : State) : Host.Outcome State Fault Refusal :=
  fpI 4 (fun env x => opAdd (Ty.ff f.ty) env (x 0) (x 1)) h f s

/-- v.fsub (R94). -/
def execVFsub (h : Hdr) (f : NForm) (s : State) : Host.Outcome State Fault Refusal :=
  fpN 2 4 f.rnd (fun env x => opSub (Ty.ff f.ty) env (x 0) (x 1)) h f s

/-- v.fsub with imm32 (R94). -/
def execVFsubImm (h : Hdr) (f : IForm) (s : State) : Host.Outcome State Fault Refusal :=
  fpI 4 (fun env x => opSub (Ty.ff f.ty) env (x 0) (x 1)) h f s

/-- v.fmul (R94). -/
def execVFmul (h : Hdr) (f : NForm) (s : State) : Host.Outcome State Fault Refusal :=
  fpN 2 4 f.rnd (fun env x => opMul (Ty.ff f.ty) env (x 0) (x 1)) h f s

/-- v.fmul with imm32 (R94). -/
def execVFmulImm (h : Hdr) (f : IForm) (s : State) : Host.Outcome State Fault Refusal :=
  fpI 4 (fun env x => opMul (Ty.ff f.ty) env (x 0) (x 1)) h f s

/-- v.fma (R94). -/
def execVFma (h : Hdr) (f : NForm) (s : State) : Host.Outcome State Fault Refusal :=
  fpN 3 4 f.rnd (fun env x => opFma (Ty.ff f.ty) env (x 0) (x 1) (x 2)) h f s

/-- v.fmin (R95). -/
def execVFmin (h : Hdr) (f : NForm) (s : State) : Host.Outcome State Fault Refusal :=
  fpN 2 4 .rne (fun env x => opMinMax (Ty.ff f.ty) env false (x 0) (x 1)) h f s

/-- v.fmin with imm32 (R95). -/
def execVFminImm (h : Hdr) (f : IForm) (s : State) : Host.Outcome State Fault Refusal :=
  fpI 4 (fun env x => opMinMax (Ty.ff f.ty) env false (x 0) (x 1)) h f s

/-- v.fmax (R95). -/
def execVFmax (h : Hdr) (f : NForm) (s : State) : Host.Outcome State Fault Refusal :=
  fpN 2 4 .rne (fun env x => opMinMax (Ty.ff f.ty) env true (x 0) (x 1)) h f s

/-- v.fmax with imm32 (R95). -/
def execVFmaxImm (h : Hdr) (f : IForm) (s : State) : Host.Outcome State Fault Refusal :=
  fpI 4 (fun env x => opMinMax (Ty.ff f.ty) env true (x 0) (x 1)) h f s

/-- v.frcp (R96). -/
def execVFrcp (h : Hdr) (f : NForm) (s : State) : Host.Outcome State Fault Refusal :=
  fpN 1 12 .rne (fun env x => opRcp (Ty.ff f.ty) env (x 0)) h f s

/-- v.frsq (R96). -/
def execVFrsq (h : Hdr) (f : NForm) (s : State) : Host.Outcome State Fault Refusal :=
  fpN 1 12 .rne (fun env x => opRsq (Ty.ff f.ty) env (x 0)) h f s

/-- v.fexp2 (R96). -/
def execVFexp2 (h : Hdr) (f : NForm) (s : State) : Host.Outcome State Fault Refusal :=
  fpN 1 12 .rne (fun env x => opExp2 (Ty.ff f.ty) env (x 0)) h f s

/-- v.flog2 (R96). -/
def execVFlog2 (h : Hdr) (f : NForm) (s : State) : Host.Outcome State Fault Refusal :=
  fpN 1 12 .rne (fun env x => opLog2 (Ty.ff f.ty) env (x 0)) h f s

/-- v.fsin (R96). -/
def execVFsin (h : Hdr) (f : NForm) (s : State) : Host.Outcome State Fault Refusal :=
  fpN 1 16 .rne (fun env x => opSin (Ty.ff f.ty) env (x 0)) h f s

/-- v.fcos (R96). -/
def execVFcos (h : Hdr) (f : NForm) (s : State) : Host.Outcome State Fault Refusal :=
  fpN 1 16 .rne (fun env x => opCos (Ty.ff f.ty) env (x 0)) h f s

/-- v.fsqrt (R94). -/
def execVFsqrt (h : Hdr) (f : NForm) (s : State) : Host.Outcome State Fault Refusal :=
  fpN 1 (fdivLat f.ty) f.rnd (fun env x => opSqrt (Ty.ff f.ty) env (x 0)) h f s

/-- v.fdiv (R94). -/
def execVFdiv (h : Hdr) (f : NForm) (s : State) : Host.Outcome State Fault Refusal :=
  fpN 2 (fdivLat f.ty) f.rnd (fun env x => opDiv (Ty.ff f.ty) env (x 0) (x 1)) h f s

/-- v.fdiv with imm32 (R94). -/
def execVFdivImm (h : Hdr) (f : IForm) (s : State) : Host.Outcome State Fault Refusal :=
  fpI (fdivLat f.ty) (fun env x => opDiv (Ty.ff f.ty) env (x 0) (x 1)) h f s

/-- v.ffloor (R97). -/
def execVFfloor (h : Hdr) (f : NForm) (s : State) : Host.Outcome State Fault Refusal :=
  fpN 1 4 .rne (fun env x => opIntegral (Ty.ff f.ty) env .rdn (x 0)) h f s

/-- v.fround (R97). -/
def execVFround (h : Hdr) (f : NForm) (s : State) : Host.Outcome State Fault Refusal :=
  fpN 1 4 f.rnd (fun env x => opIntegral (Ty.ff f.ty) env env.mode (x 0)) h f s

/-- v.fclass (R98). -/
def execVFclass (h : Hdr) (f : NForm) (s : State) : Host.Outcome State Fault Refusal :=
  fpN 1 4 .rne (fun env x => (opClass (Ty.ff f.ty) (x 0), FpFlags.none)) h f s

/-- v.fgetexp (R99). -/
def execVFgetexp (h : Hdr) (f : NForm) (s : State) : Host.Outcome State Fault Refusal :=
  fpN 1 4 .rne (fun env x => opGetexp (Ty.ff f.ty) env (x 0)) h f s

/-- v.fscale (R94): B is an integer, single for f32 and f64. -/
def execVFscale (h : Hdr) (f : NForm) (s : State) : Host.Outcome State Fault Refusal :=
  withAgent s fun a =>
    let w := wideTy f.ty
    fpOp s a h f.d.idx.toNat w
      [{ src := f.a, wide := w, lr := h.lra }, { src := f.b, wide := false, lr := h.lrb }] f.aux f.rnd 4
      fun env part vs => scaleLanes f.ty part (vs.getD 0 []) (vs.getD 1 []) (fun i e => env i e f.sat)

/-- v.fscale with imm32 read as the integers of B (R94). -/
def execVFscaleImm (h : Hdr) (f : IForm) (s : State) : Host.Outcome State Fault Refusal :=
  withAgent s fun a =>
    let w := wideTy f.ty
    fpOp s a h f.d.idx.toNat w [{ src := f.a, wide := w, lr := h.lra }] f.aux .rne 4
      fun env part vs => scaleLanes f.ty part (vs.getD 0 []) (allLanes (f.imm.setWidth 64)) (fun i e => env i e f.sat)

/-- v.fdot2 (R94): A and B packed, C and D f32. -/
def execVFdot2 (h : Hdr) (f : NForm) (s : State) : Host.Outcome State Fault Refusal :=
  withAgent s fun a =>
    fpOp s a h f.d.idx.toNat false (nSrcs h f false 3) f.aux f.rnd 6 fun env part vs =>
      let rs := (lanesOf part).map fun l =>
        let x := fun n k => elemAt 16 k (srcLane vs n l)
        (l, opDot2 (Ty.ff f.ty) (env l 0 f.sat) (x 0 0) (x 0 1) (x 1 0) (x 1 1) (srcLane vs 2 l).toNat)
      { writes := rs.map fun r => (r.1, BitVec.ofNat 64 r.2.1), flags := rs.map fun r => (r.1, r.2.2) }

end Sys2Proof.Machine
end

