-- ==== Sys2Proof/Machine/Dispatch.lean ====
section
/-! DEFINITION. The meaning of every instruction and device step: one arm per constructor of Instr, each one direct call. -/
namespace Sys2Proof.Machine

/-- What an instruction or a device step does. -/
def exec (i : Instr) (s : State) : Host.Outcome State Fault Refusal :=
  match i with
  | .partitionIssueSelection core part => Sys2Proof.Machine.execPartitionIssueSelection core part s
  | .candidatePromotion core part slotB => Sys2Proof.Machine.execCandidatePromotion core part slotB s
  | .stallHoldEnd a => Sys2Proof.Machine.execStallHoldEnd a s
  | .fixedLatencyWriteback a => Sys2Proof.Machine.execFixedLatencyWriteback a s
  | .loadReply id => Sys2Proof.Machine.execLoadReply id s
  | .storeAcknowledge id => Sys2Proof.Machine.execStoreAcknowledge id s
  | .taskDone task => Sys2Proof.Machine.execTaskDone task s
  | .queueTailWake die queue => Sys2Proof.Machine.execQueueTailWake die queue s
  | .launchRecord die queue => Sys2Proof.Machine.execLaunchRecord die queue s
  | .semaphoreWait die queue => Sys2Proof.Machine.execSemaphoreWait die queue s
  | .semaphoreSignal die queue => Sys2Proof.Machine.execSemaphoreSignal die queue s
  | .taskAdmission quad => Sys2Proof.Machine.execTaskAdmission quad s
  | .dispatchStarvation quad => Sys2Proof.Machine.execDispatchStarvation quad s
  | .dispatcherSteal quad => Sys2Proof.Machine.execDispatcherSteal quad s
  | .parkFrameWrite grp => Sys2Proof.Machine.execParkFrameWrite grp s
  | .parkedGroupReturn core => Sys2Proof.Machine.execParkedGroupReturn core s
  | .footprintReview core => Sys2Proof.Machine.execFootprintReview core s
  | .measuredLeaseWindow grp => Sys2Proof.Machine.execMeasuredLeaseWindow grp s
  | .fpgateWrite v => Sys2Proof.Machine.execFpgateWrite v s
  | .logicalTimeTick core => Sys2Proof.Machine.execLogicalTimeTick core s
  | .tsleaseWrite v => Sys2Proof.Machine.execTsleaseWrite v s
  | .homeAccess id => Sys2Proof.Machine.execHomeAccess id s
  | .frequencyAgeHalving slice => Sys2Proof.Machine.execFrequencyAgeHalving slice s
  | .lineLeaseExpiry grp line => Sys2Proof.Machine.execLineLeaseExpiry grp line s
  | .watchWake slice => Sys2Proof.Machine.execWatchWake slice s
  | .waitAddrTimeout id => Sys2Proof.Machine.execWaitAddrTimeout id s
  | .sleepExpiry a => Sys2Proof.Machine.execSleepExpiry a s
  | .sysIdleWake a => Sys2Proof.Machine.execSysIdleWake a s
  | .faultSetWrite die => Sys2Proof.Machine.execFaultSetWrite die s
  | .preqPreemptLaunch die v => Sys2Proof.Machine.execPreqPreemptLaunch die v s
  | .preqPreemptCore die v => Sys2Proof.Machine.execPreqPreemptCore die v s
  | .preqResumeLaunch die v => Sys2Proof.Machine.execPreqResumeLaunch die v s
  | .preqResumeCore die v => Sys2Proof.Machine.execPreqResumeCore die v s
  | .preemptionSequence task => Sys2Proof.Machine.execPreemptionSequence task s
  | .maskBudgetExpiry task => Sys2Proof.Machine.execMaskBudgetExpiry task s
  | .savedTaskReturn task => Sys2Proof.Machine.execSavedTaskReturn task s
  | .engineCommandAccept id => Sys2Proof.Machine.execEngineCommandAccept id s
  | .copyChunkExecute slice => Sys2Proof.Machine.execCopyChunkExecute slice s
  | .chunkSteal slice => Sys2Proof.Machine.execChunkSteal slice s
  | .remoteChunkAcknowledge slice => Sys2Proof.Machine.execRemoteChunkAcknowledge slice s
  | .kvCommandExecute task => Sys2Proof.Machine.execKvCommandExecute task s
  | .kvPageRefetch tree page => Sys2Proof.Machine.execKvPageRefetch tree page s
  | .matrixCommandStart ctx => Sys2Proof.Machine.execMatrixCommandStart ctx s
  | .matrixCommandComplete ctx => Sys2Proof.Machine.execMatrixCommandComplete ctx s
  | .accumulatorAccessComplete id => Sys2Proof.Machine.execAccumulatorAccessComplete id s
  | .keystoneBindingRelease ctx => Sys2Proof.Machine.execKeystoneBindingRelease ctx s
  | .bankSwitchPoint core bank => Sys2Proof.Machine.execBankSwitchPoint core bank s
  | .contractInstall entry v => Sys2Proof.Machine.execContractInstall entry v s
  | .contractChange entry word v => Sys2Proof.Machine.execContractChange entry word v s
  | .contractRemoval entry v => Sys2Proof.Machine.execContractRemoval entry v s
  | .contractLineMove entry line => Sys2Proof.Machine.execContractLineMove entry line s
  | .treeEnable tree v => Sys2Proof.Machine.execTreeEnable tree v s
  | .treeEnableComplete tree => Sys2Proof.Machine.execTreeEnableComplete tree s
  | .treeDisable tree v => Sys2Proof.Machine.execTreeDisable tree v s
  | .treeDisableComplete tree => Sys2Proof.Machine.execTreeDisableComplete tree s
  | .pubreqWrite v => Sys2Proof.Machine.execPubreqWrite v s
  | .publicationComplete => Sys2Proof.Machine.execPublicationComplete s
  | .sweeperVisit => Sys2Proof.Machine.execSweeperVisit s
  | .trafficWindowStart die cls => Sys2Proof.Machine.execTrafficWindowStart die cls s
  | .controlRegisterWrite r v => Sys2Proof.Machine.execControlRegisterWrite r v s
  | .ringGateDecision seg => Sys2Proof.Machine.execRingGateDecision seg s
  | .ringSegmentGate seg => Sys2Proof.Machine.execRingSegmentGate seg s
  | .ringSegmentWake seg => Sys2Proof.Machine.execRingSegmentWake seg s
  | .recallAnswer line holder => Sys2Proof.Machine.execRecallAnswer line holder s
  | .voluntaryReturn line holder => Sys2Proof.Machine.execVoluntaryReturn line holder s
  | .recallTimerExpiry line => Sys2Proof.Machine.execRecallTimerExpiry line s
  | .ashlarRequest r => Sys2Proof.Machine.execAshlarRequest r s
  | .ashlarAcknowledgement src tag refused => Sys2Proof.Machine.execAshlarAcknowledgement src tag refused s
  | .ashlarFlitReceive link seq crcOk payload => Sys2Proof.Machine.execAshlarFlitReceive link seq crcOk payload s
  | .ashlarRetryRequest link seq => Sys2Proof.Machine.execAshlarRetryRequest link seq s
  | .linkRetrain link lanes => Sys2Proof.Machine.execLinkRetrain link lanes s
  | .remoteRequestTimeout id => Sys2Proof.Machine.execRemoteRequestTimeout id s
  | .cxlMemRequest port r => Sys2Proof.Machine.execCxlMemRequest port r s
  | .hostSnoop port line exclusive => Sys2Proof.Machine.execHostSnoop port line exclusive s
  | .globalObservation id => Sys2Proof.Machine.execGlobalObservation id s
  | .ideIntegrityFailure port => Sys2Proof.Machine.execIdeIntegrityFailure port s
  | .ideKm port cachemem key => Sys2Proof.Machine.execIdeKm port cachemem key s
  | .getVersion port => Sys2Proof.Machine.execGetVersion port s
  | .getCapabilities port => Sys2Proof.Machine.execGetCapabilities port s
  | .negotiateAlgorithms port => Sys2Proof.Machine.execNegotiateAlgorithms port s
  | .getDigests port => Sys2Proof.Machine.execGetDigests port s
  | .getCertificate port slot => Sys2Proof.Machine.execGetCertificate port slot s
  | .challenge port nonce => Sys2Proof.Machine.execChallenge port nonce s
  | .getMeasurements port index nonce => Sys2Proof.Machine.execGetMeasurements port index nonce s
  | .keyExchange port share => Sys2Proof.Machine.execKeyExchange port share s
  | .finish port mac => Sys2Proof.Machine.execFinish port mac s
  | .heartbeat port => Sys2Proof.Machine.execHeartbeat port s
  | .endSession port => Sys2Proof.Machine.execEndSession port s
  | .unsupportedRequest port code => Sys2Proof.Machine.execUnsupportedRequest port code s
  | .packageReset r => Sys2Proof.Machine.execPackageReset r s
  | .correctedError u => Sys2Proof.Machine.execCorrectedError u s
  | .uncorrectedError u line => Sys2Proof.Machine.execUncorrectedError u line s
  | .errorCountHalving => Sys2Proof.Machine.execErrorCountHalving s
  | .islandPowerChange island level => Sys2Proof.Machine.execIslandPowerChange island level s
  | .keystoneIssue cluster => Sys2Proof.Machine.execKeystoneIssue cluster s
  | .sAdd h f => Sys2Proof.Machine.execSAdd h f s
  | .sAddImm h f => Sys2Proof.Machine.execSAddImm h f s
  | .sSub h f => Sys2Proof.Machine.execSSub h f s
  | .sSubImm h f => Sys2Proof.Machine.execSSubImm h f s
  | .sMul h f => Sys2Proof.Machine.execSMul h f s
  | .sMulImm h f => Sys2Proof.Machine.execSMulImm h f s
  | .sMulhi h f => Sys2Proof.Machine.execSMulhi h f s
  | .sMulhiImm h f => Sys2Proof.Machine.execSMulhiImm h f s
  | .sMad h f => Sys2Proof.Machine.execSMad h f s
  | .sAnd h f => Sys2Proof.Machine.execSAnd h f s
  | .sAndImm h f => Sys2Proof.Machine.execSAndImm h f s
  | .sOr h f => Sys2Proof.Machine.execSOr h f s
  | .sOrImm h f => Sys2Proof.Machine.execSOrImm h f s
  | .sXor h f => Sys2Proof.Machine.execSXor h f s
  | .sXorImm h f => Sys2Proof.Machine.execSXorImm h f s
  | .sShl h f => Sys2Proof.Machine.execSShl h f s
  | .sShlImm h f => Sys2Proof.Machine.execSShlImm h f s
  | .sShr h f => Sys2Proof.Machine.execSShr h f s
  | .sShrImm h f => Sys2Proof.Machine.execSShrImm h f s
  | .sSar h f => Sys2Proof.Machine.execSSar h f s
  | .sSarImm h f => Sys2Proof.Machine.execSSarImm h f s
  | .sMin h f => Sys2Proof.Machine.execSMin h f s
  | .sMinImm h f => Sys2Proof.Machine.execSMinImm h f s
  | .sMax h f => Sys2Proof.Machine.execSMax h f s
  | .sMaxImm h f => Sys2Proof.Machine.execSMaxImm h f s
  | .sCmp h f => Sys2Proof.Machine.execSCmp h f s
  | .sCmpImm h f => Sys2Proof.Machine.execSCmpImm h f s
  | .sSel h f => Sys2Proof.Machine.execSSel h f s
  | .sMov h f => Sys2Proof.Machine.execSMov h f s
  | .sLi h f => Sys2Proof.Machine.execSLi h f s
  | .sLih h f => Sys2Proof.Machine.execSLih h f s
  | .sAdd64 h f => Sys2Proof.Machine.execSAdd64 h f s
  | .sAdd64Imm h f => Sys2Proof.Machine.execSAdd64Imm h f s
  | .sSub64 h f => Sys2Proof.Machine.execSSub64 h f s
  | .sSub64Imm h f => Sys2Proof.Machine.execSSub64Imm h f s
  | .sMul64 h f => Sys2Proof.Machine.execSMul64 h f s
  | .sMul64Imm h f => Sys2Proof.Machine.execSMul64Imm h f s
  | .sPopc h f => Sys2Proof.Machine.execSPopc h f s
  | .sClz h f => Sys2Proof.Machine.execSClz h f s
  | .sBfe h f => Sys2Proof.Machine.execSBfe h f s
  | .sBfeImm h f => Sys2Proof.Machine.execSBfeImm h f s
  | .sBfi h f => Sys2Proof.Machine.execSBfi h f s
  | .sDivs h f => Sys2Proof.Machine.execSDivs h f s
  | .sDivsImm h f => Sys2Proof.Machine.execSDivsImm h f s
  | .sDivn h f => Sys2Proof.Machine.execSDivn h f s
  | .sDivnImm h f => Sys2Proof.Machine.execSDivnImm h f s
  | .sLd h f => Sys2Proof.Machine.execSLd h f s
  | .sSt h f => Sys2Proof.Machine.execSSt h f s
  | .sRdsr h f => Sys2Proof.Machine.execSRdsr h f s
  | .sVrd h f => Sys2Proof.Machine.execSVrd h f s
  | .sVwr h f => Sys2Proof.Machine.execSVwr h f s
  | .vAdd h f => Sys2Proof.Machine.execVAdd h f s
  | .vAddImm h f => Sys2Proof.Machine.execVAddImm h f s
  | .vSub h f => Sys2Proof.Machine.execVSub h f s
  | .vSubImm h f => Sys2Proof.Machine.execVSubImm h f s
  | .vAddx h f => Sys2Proof.Machine.execVAddx h f s
  | .vSubx h f => Sys2Proof.Machine.execVSubx h f s
  | .vMul h f => Sys2Proof.Machine.execVMul h f s
  | .vMulImm h f => Sys2Proof.Machine.execVMulImm h f s
  | .vMulhi h f => Sys2Proof.Machine.execVMulhi h f s
  | .vMulhiImm h f => Sys2Proof.Machine.execVMulhiImm h f s
  | .vMulw h f => Sys2Proof.Machine.execVMulw h f s
  | .vMulwImm h f => Sys2Proof.Machine.execVMulwImm h f s
  | .vMad h f => Sys2Proof.Machine.execVMad h f s
  | .vAbs h f => Sys2Proof.Machine.execVAbs h f s
  | .vNeg h f => Sys2Proof.Machine.execVNeg h f s
  | .vMin h f => Sys2Proof.Machine.execVMin h f s
  | .vMinImm h f => Sys2Proof.Machine.execVMinImm h f s
  | .vMax h f => Sys2Proof.Machine.execVMax h f s
  | .vMaxImm h f => Sys2Proof.Machine.execVMaxImm h f s
  | .vAnd h f => Sys2Proof.Machine.execVAnd h f s
  | .vAndImm h f => Sys2Proof.Machine.execVAndImm h f s
  | .vOr h f => Sys2Proof.Machine.execVOr h f s
  | .vOrImm h f => Sys2Proof.Machine.execVOrImm h f s
  | .vXor h f => Sys2Proof.Machine.execVXor h f s
  | .vXorImm h f => Sys2Proof.Machine.execVXorImm h f s
  | .vAndn h f => Sys2Proof.Machine.execVAndn h f s
  | .vAndnImm h f => Sys2Proof.Machine.execVAndnImm h f s
  | .vNot h f => Sys2Proof.Machine.execVNot h f s
  | .vShl h f => Sys2Proof.Machine.execVShl h f s
  | .vShlImm h f => Sys2Proof.Machine.execVShlImm h f s
  | .vShr h f => Sys2Proof.Machine.execVShr h f s
  | .vShrImm h f => Sys2Proof.Machine.execVShrImm h f s
  | .vSar h f => Sys2Proof.Machine.execVSar h f s
  | .vSarImm h f => Sys2Proof.Machine.execVSarImm h f s
  | .vRot h f => Sys2Proof.Machine.execVRot h f s
  | .vRotImm h f => Sys2Proof.Machine.execVRotImm h f s
  | .vBfe h f => Sys2Proof.Machine.execVBfe h f s
  | .vBfeImm h f => Sys2Proof.Machine.execVBfeImm h f s
  | .vBfi h f => Sys2Proof.Machine.execVBfi h f s
  | .vPopc h f => Sys2Proof.Machine.execVPopc h f s
  | .vClz h f => Sys2Proof.Machine.execVClz h f s
  | .vCtz h f => Sys2Proof.Machine.execVCtz h f s
  | .vBrev h f => Sys2Proof.Machine.execVBrev h f s
  | .vMov h f => Sys2Proof.Machine.execVMov h f s
  | .vLi h f => Sys2Proof.Machine.execVLi h f s
  | .vSat h f => Sys2Proof.Machine.execVSat h f s
  | .vDot4 h f => Sys2Proof.Machine.execVDot4 h f s
  | .vDot2 h f => Sys2Proof.Machine.execVDot2 h f s
  | .vSad h f => Sys2Proof.Machine.execVSad h f s
  | .vDiv h f => Sys2Proof.Machine.execVDiv h f s
  | .vDivImm h f => Sys2Proof.Machine.execVDivImm h f s
  | .vRem h f => Sys2Proof.Machine.execVRem h f s
  | .vRemImm h f => Sys2Proof.Machine.execVRemImm h f s
  | .vCmp h f => Sys2Proof.Machine.execVCmp h f s
  | .vCmpImm h f => Sys2Proof.Machine.execVCmpImm h f s
  | .vFcmp h f => Sys2Proof.Machine.execVFcmp h f s
  | .vFcmpImm h f => Sys2Proof.Machine.execVFcmpImm h f s
  | .pAnd h f => Sys2Proof.Machine.execPAnd h f s
  | .pOr h f => Sys2Proof.Machine.execPOr h f s
  | .pXor h f => Sys2Proof.Machine.execPXor h f s
  | .pNot h f => Sys2Proof.Machine.execPNot h f s
  | .pMov h f => Sys2Proof.Machine.execPMov h f s
  | .vSel h f => Sys2Proof.Machine.execVSel h f s
  | .pTovec h f => Sys2Proof.Machine.execPTovec h f s
  | .pFromvec h f => Sys2Proof.Machine.execPFromvec h f s
  | .pPopc h f => Sys2Proof.Machine.execPPopc h f s
  | .pFirst h f => Sys2Proof.Machine.execPFirst h f s
  | .vFadd h f => Sys2Proof.Machine.execVFadd h f s
  | .vFaddImm h f => Sys2Proof.Machine.execVFaddImm h f s
  | .vFsub h f => Sys2Proof.Machine.execVFsub h f s
  | .vFsubImm h f => Sys2Proof.Machine.execVFsubImm h f s
  | .vFmul h f => Sys2Proof.Machine.execVFmul h f s
  | .vFmulImm h f => Sys2Proof.Machine.execVFmulImm h f s
  | .vFma h f => Sys2Proof.Machine.execVFma h f s
  | .vFmin h f => Sys2Proof.Machine.execVFmin h f s
  | .vFminImm h f => Sys2Proof.Machine.execVFminImm h f s
  | .vFmax h f => Sys2Proof.Machine.execVFmax h f s
  | .vFmaxImm h f => Sys2Proof.Machine.execVFmaxImm h f s
  | .vFrcp h f => Sys2Proof.Machine.execVFrcp h f s
  | .vFrsq h f => Sys2Proof.Machine.execVFrsq h f s
  | .vFsqrt h f => Sys2Proof.Machine.execVFsqrt h f s
  | .vFdiv h f => Sys2Proof.Machine.execVFdiv h f s
  | .vFdivImm h f => Sys2Proof.Machine.execVFdivImm h f s
  | .vFexp2 h f => Sys2Proof.Machine.execVFexp2 h f s
  | .vFlog2 h f => Sys2Proof.Machine.execVFlog2 h f s
  | .vFsin h f => Sys2Proof.Machine.execVFsin h f s
  | .vFcos h f => Sys2Proof.Machine.execVFcos h f s
  | .vFfloor h f => Sys2Proof.Machine.execVFfloor h f s
  | .vFround h f => Sys2Proof.Machine.execVFround h f s
  | .vFclass h f => Sys2Proof.Machine.execVFclass h f s
  | .vFscale h f => Sys2Proof.Machine.execVFscale h f s
  | .vFscaleImm h f => Sys2Proof.Machine.execVFscaleImm h f s
  | .vFgetexp h f => Sys2Proof.Machine.execVFgetexp h f s
  | .vFdot2 h f => Sys2Proof.Machine.execVFdot2 h f s
  | .vCvt h f => Sys2Proof.Machine.execVCvt h f s
  | .vPack h f => Sys2Proof.Machine.execVPack h f s
  | .vUnpack h f => Sys2Proof.Machine.execVUnpack h f s
  | .vScl h f => Sys2Proof.Machine.execVScl h f s
  | .vQnt h f => Sys2Proof.Machine.execVQnt h f s
  | .vDqnt h f => Sys2Proof.Machine.execVDqnt h f s
  | .vRngSeed h f => Sys2Proof.Machine.execVRngSeed h f s
  | .vRngGets h f => Sys2Proof.Machine.execVRngGets h f s
  | .vRngGetc h f => Sys2Proof.Machine.execVRngGetc h f s
  | .vRngDraw h f => Sys2Proof.Machine.execVRngDraw h f s
  | .vShfl h f => Sys2Proof.Machine.execVShfl h f s
  | .vBcast h f => Sys2Proof.Machine.execVBcast h f s
  | .vVoteAny h f => Sys2Proof.Machine.execVVoteAny h f s
  | .vVoteAll h f => Sys2Proof.Machine.execVVoteAll h f s
  | .vVoteUni h f => Sys2Proof.Machine.execVVoteUni h f s
  | .vVoteBallot h f => Sys2Proof.Machine.execVVoteBallot h f s
  | .vMatch h f => Sys2Proof.Machine.execVMatch h f s
  | .vScan h f => Sys2Proof.Machine.execVScan h f s
  | .vRed h f => Sys2Proof.Machine.execVRed h f s
  | .vCompact h f => Sys2Proof.Machine.execVCompact h f s
  | .vExpand h f => Sys2Proof.Machine.execVExpand h f s
  | .vRank h f => Sys2Proof.Machine.execVRank h f s
  | .vCrc h f => Sys2Proof.Machine.execVCrc h f s
  | .vMix h f => Sys2Proof.Machine.execVMix h f s
  | .vHmul h f => Sys2Proof.Machine.execVHmul h f s
  | .vHmulImm h f => Sys2Proof.Machine.execVHmulImm h f s
  | .vPart h f => Sys2Proof.Machine.execVPart h f s
  | .vBkt h f => Sys2Proof.Machine.execVBkt h f s
  | .vSld h f => Sys2Proof.Machine.execVSld h f s
  | .vScmp h f => Sys2Proof.Machine.execVScmp h f s
  | .vBfind h f => Sys2Proof.Machine.execVBfind h f s
  | .vBfindImm h f => Sys2Proof.Machine.execVBfindImm h f s
  | .vBmask h f => Sys2Proof.Machine.execVBmask h f s
  | .vUlen h f => Sys2Proof.Machine.execVUlen h f s
  | .vFold h f => Sys2Proof.Machine.execVFold h f s
  | .bra h f => Sys2Proof.Machine.execBra h f s
  | .jmp h f => Sys2Proof.Machine.execJmp h f s
  | .brx h f => Sys2Proof.Machine.execBrx h f s
  | .call h f => Sys2Proof.Machine.execCall h f s
  | .ret h f => Sys2Proof.Machine.execRet h f s
  | .join h f => Sys2Proof.Machine.execJoin h f s
  | .exit h f => Sys2Proof.Machine.execExit h f s
  | .yield h f => Sys2Proof.Machine.execYield h f s
  | .bar h f => Sys2Proof.Machine.execBar h f s
  | .barArv h f => Sys2Proof.Machine.execBarArv h f s
  | .barWt h f => Sys2Proof.Machine.execBarWt h f s
  | .nop h f => Sys2Proof.Machine.execNop h f s
  | .trap h f => Sys2Proof.Machine.execTrap h f s
  | .brk h f => Sys2Proof.Machine.execBrk h f s
  | .waitcnt h f => Sys2Proof.Machine.execWaitcnt h f s
  | .sleep h f => Sys2Proof.Machine.execSleep h f s
  | .launch h f => Sys2Proof.Machine.execLaunch h f s
  | .leaseFp h f => Sys2Proof.Machine.execLeaseFp h f s
  | .vLd h f => Sys2Proof.Machine.execVLd h f s
  | .vSt h f => Sys2Proof.Machine.execVSt h f s
  | .vLdg h f => Sys2Proof.Machine.execVLdg h f s
  | .vStg h f => Sys2Proof.Machine.execVStg h f s
  | .vLds h f => Sys2Proof.Machine.execVLds h f s
  | .vSts h f => Sys2Proof.Machine.execVSts h f s
  | .vLdsw h f => Sys2Proof.Machine.execVLdsw h f s
  | .vStsw h f => Sys2Proof.Machine.execVStsw h f s
  | .vLdc h f => Sys2Proof.Machine.execVLdc h f s
  | .vPf h f => Sys2Proof.Machine.execVPf h f s
  | .vFifoPush h f => Sys2Proof.Machine.execVFifoPush h f s
  | .vFifoPop h f => Sys2Proof.Machine.execVFifoPop h f s
  | .aAdd h f => Sys2Proof.Machine.execAAdd h f s
  | .aMin h f => Sys2Proof.Machine.execAMin h f s
  | .aMax h f => Sys2Proof.Machine.execAMax h f s
  | .aAnd h f => Sys2Proof.Machine.execAAnd h f s
  | .aOr h f => Sys2Proof.Machine.execAOr h f s
  | .aXor h f => Sys2Proof.Machine.execAXor h f s
  | .aXchg h f => Sys2Proof.Machine.execAXchg h f s
  | .aCas h f => Sys2Proof.Machine.execACas h f s
  | .aInc h f => Sys2Proof.Machine.execAInc h f s
  | .aFadd h f => Sys2Proof.Machine.execAFadd h f s
  | .aFmin h f => Sys2Proof.Machine.execAFmin h f s
  | .aFmax h f => Sys2Proof.Machine.execAFmax h f s
  | .redAdd h f => Sys2Proof.Machine.execRedAdd h f s
  | .redFadd h f => Sys2Proof.Machine.execRedFadd h f s
  | .redDet h f => Sys2Proof.Machine.execRedDet h f s
  | .redFlushDrain h f => Sys2Proof.Machine.execRedFlushDrain h f s
  | .redFlushCommit h f => Sys2Proof.Machine.execRedFlushCommit h f s
  | .leaseAcq h f => Sys2Proof.Machine.execLeaseAcq h f s
  | .leaseRel h f => Sys2Proof.Machine.execLeaseRel h f s
  | .waitAddr h f => Sys2Proof.Machine.execWaitAddr h f s
  | .fence h f => Sys2Proof.Machine.execFence h f s
  | .fenceCode h f => Sys2Proof.Machine.execFenceCode h f s
  | .fenceEng h f => Sys2Proof.Machine.execFenceEng h f s
  | .bankCfg h f => Sys2Proof.Machine.execBankCfg h f s
  | .bankCfgImm h f => Sys2Proof.Machine.execBankCfgImm h f s
  | .bankQry h f => Sys2Proof.Machine.execBankQry h f s
  | .shareJoin h f => Sys2Proof.Machine.execShareJoin h f s
  | .shareLeave h f => Sys2Proof.Machine.execShareLeave h f s
  | .spMap h f => Sys2Proof.Machine.execSpMap h f s
  | .spUnmap h f => Sys2Proof.Machine.execSpUnmap h f s
  | .spWb h f => Sys2Proof.Machine.execSpWb h f s
  | .spInv h f => Sys2Proof.Machine.execSpInv h f s
  | .cp h f => Sys2Proof.Machine.execCp h f s
  | .cpMc h f => Sys2Proof.Machine.execCpMc h f s
  | .cpX h f => Sys2Proof.Machine.execCpX h f s
  | .cpFill h f => Sys2Proof.Machine.execCpFill h f s
  | .cpGth h f => Sys2Proof.Machine.execCpGth h f s
  | .cpSct h f => Sys2Proof.Machine.execCpSct h f s
  | .tcWait h f => Sys2Proof.Machine.execTcWait h f s
  | .tcGet h f => Sys2Proof.Machine.execTcGet h f s
  | .tcErr h f => Sys2Proof.Machine.execTcErr h f s
  | .chWp h f => Sys2Proof.Machine.execChWp h f s
  | .chRst h f => Sys2Proof.Machine.execChRst h f s
  | .chSumGet h f => Sys2Proof.Machine.execChSumGet h f s
  | .chSumSet h f => Sys2Proof.Machine.execChSumSet h f s
  | .chSumExp h f => Sys2Proof.Machine.execChSumExp h f s
  | .rsHintKeep h f => Sys2Proof.Machine.execRsHintKeep h f s
  | .rsHintDrop h f => Sys2Proof.Machine.execRsHintDrop h f s
  | .rsHintFetch h f => Sys2Proof.Machine.execRsHintFetch h f s
  | .rsEvict h f => Sys2Proof.Machine.execRsEvict h f s
  | .rsEvictInv h f => Sys2Proof.Machine.execRsEvictInv h f s
  | .rsQry h f => Sys2Proof.Machine.execRsQry h f s
  | .mTr h f => Sys2Proof.Machine.execMTr h f s
  | .mRed h f => Sys2Proof.Machine.execMRed h f s
  | .kvMatch h f => Sys2Proof.Machine.execKvMatch h f s
  | .kvInsert h f => Sys2Proof.Machine.execKvInsert h f s
  | .kvFork h f => Sys2Proof.Machine.execKvFork h f s
  | .kvRef h f => Sys2Proof.Machine.execKvRef h f s
  | .kvUnref h f => Sys2Proof.Machine.execKvUnref h f s
  | .kvAppend h f => Sys2Proof.Machine.execKvAppend h f s
  | .kvXlat h f => Sys2Proof.Machine.execKvXlat h f s
  | .kvQry h f => Sys2Proof.Machine.execKvQry h f s
  | .kMma h f => Sys2Proof.Machine.execKMma h f s
  | .kLda h f => Sys2Proof.Machine.execKLda h f s
  | .kZero h f => Sys2Proof.Machine.execKZero h f s
  | .kScale h f => Sys2Proof.Machine.execKScale h f s
  | .kDrain h f => Sys2Proof.Machine.execKDrain h f s
  | .kPass h f => Sys2Proof.Machine.execKPass h f s
  | .kRecv h f => Sys2Proof.Machine.execKRecv h f s
  | .kStat h f => Sys2Proof.Machine.execKStat h f s
  | .vAccrd h f => Sys2Proof.Machine.execVAccrd h f s
  | .vAccwr h f => Sys2Proof.Machine.execVAccwr h f s
  | .sysRd h f => Sys2Proof.Machine.execSysRd h f s
  | .sysWr h f => Sys2Proof.Machine.execSysWr h f s
  | .sysRfe h f => Sys2Proof.Machine.execSysRfe h f s
  | .sysTlbiVa h f => Sys2Proof.Machine.execSysTlbiVa h f s
  | .sysTlbiAs h f => Sys2Proof.Machine.execSysTlbiAs h f s
  | .sysTlbiAll h f => Sys2Proof.Machine.execSysTlbiAll h f s
  | .sysHaltCore h f => Sys2Proof.Machine.execSysHaltCore h f s
  | .sysHaltResume h f => Sys2Proof.Machine.execSysHaltResume h f s
  | .sysIdle h f => Sys2Proof.Machine.execSysIdle h f s
  | .preMask h f => Sys2Proof.Machine.execPreMask h f s
  | .preUnmask h f => Sys2Proof.Machine.execPreUnmask h f s
  | .sysSig h f => Sys2Proof.Machine.execSysSig h f s
  | .sysFqackRetry h f => Sys2Proof.Machine.execSysFqackRetry h f s
  | .sysFqackSkip h f => Sys2Proof.Machine.execSysFqackSkip h f s
  | .sysFqackKill h f => Sys2Proof.Machine.execSysFqackKill h f s
  | .sysFqackResume h f => Sys2Proof.Machine.execSysFqackResume h f s
  | .sysFqackFail h f => Sys2Proof.Machine.execSysFqackFail h f s
  | .sysDirq h f => Sys2Proof.Machine.execSysDirq h f s
  | .sysDirrcZero h f => Sys2Proof.Machine.execSysDirrcZero h f s
  | .sysDirrcCopy h f => Sys2Proof.Machine.execSysDirrcCopy h f s
  | .sysDirrcKeep h f => Sys2Proof.Machine.execSysDirrcKeep h f s
  | .sysWatch h f => Sys2Proof.Machine.execSysWatch h f s
  | .sysSwatch h f => Sys2Proof.Machine.execSysSwatch h f s

end Sys2Proof.Machine
end

