-- ==== Sys2Proof/Machine/Schedule.lean ====
section
/-! DEFINITION. The clock, and the device steps that it brings (log 10): those the specification times come when they are
due; those whose latency it leaves open come, and in which order, as free choices say, but where they reach homes in one
clock they go by ascending requester (R8); then every partition and Keystone selects. What comes from outside (peers, hosts, faults of the hardware, writes of other masters) is placed in the agenda
by the outside. -/
namespace Sys2Proof.Machine

namespace State
/-- Whether a count of store clocks passed a multiple of n with this clock. -/
def crossed (s : State) (n : Nat) : Bool := s.storeClk / n != (s.clk - 1) * 25 / 33 / n
/-- The fragments and running contexts, with their states. -/
def agentStates (s : State) : List (Agent × FragState × Nat × Bool) :=
  (s.grps.flatMap fun p => p.2.frags.map fun q => (Agent.frag p.1 q.1, q.2.st, q.2.holdUntil, p.2.busy.any fun b => b.clk ≤ s.clk)) ++
    s.ks.map fun p => (Agent.ks p.1, p.2.st, p.2.holdUntil, p.2.busy.any fun b => b.clk ≤ s.clk)
/-- Cores on which tasks run. -/
def coresInUse (s : State) : List Nat :=
  ((s.tasks.filter fun p => p.2.st == .resident || p.2.st == .draining).map fun p => p.2.core).eraseDups

/-- Steps of agents that are due: holds, results and sleeps that end. -/
def dueAgents (s : State) : List Instr :=
  s.agentStates.flatMap fun x =>
    (if x.2.1 == .held && x.2.2.1 ≤ s.clk then [.stallHoldEnd x.1] else []) ++
      (if x.2.2.2 then [.fixedLatencyWriteback x.1] else []) ++
      (match x.2.1 with
        | .waiting (.sleeping c) => if c ≤ s.clk then [.sleepExpiry x.1] else []
        | .waiting (.idle (some c) _ _ none) => if c ≤ s.clk then [.sysIdleWake x.1] else []
        | _ => [])
/-- Timers that have run out (R166, R167, R237, R269, R270, R406, R413). -/
def dueTimers (s : State) : List Instr :=
  (s.grps.flatMap fun p => (p.2.leases.filter fun l => l.expiry ≤ s.clk).map fun l => .lineLeaseExpiry p.1 l.line) ++
    ((s.watches.filter fun w => w.cause.isNone && w.expiry.any fun c => c ≤ s.clk).map fun w => .waitAddrTimeout w.id) ++
    ((s.tasks.filter fun p => p.2.budget.any fun c => c ≤ s.clk).map fun p => .maskBudgetExpiry p.1) ++
    ((s.grps.filter fun p => 2048 ≤ p.2.memIssued).map fun p => .measuredLeaseWindow p.1) ++
    (((List.range 192).filter fun c => (s.core c).review + 8192 ≤ s.clk).map fun c => .footprintReview c) ++
    ((s.dir.filter fun p => p.2.st == 5 && p.2.deadline ≤ s.clk).map fun p => .recallTimerExpiry p.1) ++
    ((s.reqs.filter fun p => p.2.born + recallClocks true ≤ s.clk && p.2.lanes.any fun u => u.got.isNone && u.loc.remote).map
      fun p => .remoteRequestTimeout p.1) ++
    ((s.remoteChunks.filter fun x => x.2.2.2 + recallClocks true ≤ s.clk).map fun x => .remoteRequestTimeout x.2.2.1)
/-- Steps at multiples of the clocks (R294, R330, R337, R368, R428, R430). -/
def duePeriodic (s : State) : List Instr :=
  (if s.clk % s.ctAdv = 0 then (List.range 192).map .logicalTimeTick else []) ++
    (if s.crossed (2 ^ 20) then (List.range 256).map .frequencyAgeHalving else []) ++
    (if s.crossed (2 ^ 40) then [.errorCountHalving] else []) ++
    ((List.range 4).flatMap fun die => ((List.range 3).filter fun k =>
      s.crossed (s.windowLength die k)).map fun k => .trafficWindowStart die k) ++
    (if (s.ctlReg 0x038).getLsbD 0 then
      let rate := max 1 ((s.ctlReg 0x038).toNat / 2 ^ 8 % 2 ^ 8)
      List.replicate (s.storeClk * rate / 256 - (s.clk - 1) * 25 / 33 * rate / 256) .sweeperVisit
    else []) ++
    ((List.range 64).flatMap fun i => match s.segment i with
      | .powered last => if last + 64 ≤ s.storeClk then [.ringGateDecision i] else []
      | .deciding till => if till ≤ s.storeClk then [.ringSegmentGate i] else []
      | .waking till => if till ≤ s.storeClk then [.ringSegmentWake i] else []
      | .gated => [])

/-- Steps of requests and engines whose latency is open (R142, R156, R180, R183, R189, R201, R213, R222, R296, R388). -/
def openEngines (s : State) : List Instr :=
  (s.reqs.flatMap fun p => [.homeAccess p.1, .loadReply p.1, .storeAcknowledge p.1] ++ (match p.2.op with
      | .accRead _ _ | .accWrite _ _ => [.accumulatorAccessComplete p.1]
      | _ => [])) ++
    (s.pends.map fun p => .engineCommandAccept p.1) ++
    (s.mortar.map fun p => .copyChunkExecute p.1) ++
    (if s.mortar.any fun p => 2 ≤ p.2.length then (List.range 256).map .chunkSteal else []) ++
    ((s.tasks.filter fun p => !p.2.kvq.isEmpty).map fun p => .kvCommandExecute p.1) ++
    (s.refetch.map fun p => .kvPageRefetch p.1 p.2) ++
    (s.ks.flatMap fun p => if p.2.mq.isEmpty then [] else [.matrixCommandStart p.1, .matrixCommandComplete p.1]) ++
    ((s.ks.filter fun p => p.2.exited).map fun p => .keystoneBindingRelease p.1)
/-- Queues that a table entry names. -/
def namedQueues (s : State) : List (Nat × Nat) :=
  (s.mmio.filter fun p => 0x50000 ≤ p.1 && p.1 < 0x50800).map fun p => ((p.1 - 0x50000) / 0x200, (p.1 - 0x50000) % 0x200 / 8)
/-- Steps of queues, dispatchers, parking and pre-emption whose latency is open. -/
def openScheduling (s : State) : List Instr :=
  (s.namedQueues.flatMap fun q =>
      [.queueTailWake q.1 q.2, .launchRecord q.1 q.2, .semaphoreWait q.1 q.2, .semaphoreSignal q.1 q.2]) ++
    (if s.tasks.any fun p => p.2.st == .distributed then
      (List.range 16).flatMap fun q => [.taskAdmission q, .dispatcherSteal q, .dispatchStarvation q] else []) ++
    ((s.tasks.filter fun p => p.2.st == .draining || p.2.st == .done).map fun p => .taskDone p.1) ++
    ((s.grps.filter fun p => p.2.st == .parking).map fun p => .parkFrameWrite p.1) ++
    ((s.cores.filter fun p => !p.2.parkOrder.isEmpty).map fun p => .parkedGroupReturn p.1) ++
    (s.coresInUse.map .footprintReview) ++
    ((s.preq.flatMap fun p => p.2).map fun x => .preemptionSequence x.1) ++
    ((s.tasks.filter fun p => p.2.st == .saved).map fun p => .savedTaskReturn p.1) ++
    (s.cores.flatMap fun p => (p.2.banks.filter fun b => match b.2.role with
      | .switching _ => true
      | _ => false).map fun b => .bankSwitchPoint p.1 b.1) ++
    ((s.sets.map fun x => x.die).eraseDups.map .faultSetWrite) ++
    (((s.watches.filter fun w => w.cause.isSome && !w.woken).map fun w => w.slice).eraseDups.map .watchWake) ++
    (s.agentStates.filterMap fun x => match x.2.1 with
      | .waiting (.idle _ _ _ none) => some (.sysIdleWake x.1)
      | _ => none)
/-- Steps of the package and answers of the fabric whose latency is open. -/
def openPackage (s : State) : List Instr :=
  (s.heldTrees.flatMap fun t => [.treeEnableComplete t, .treeDisableComplete t]) ++
    (if s.pubBusy.isSome then [.publicationComplete] else []) ++
    (s.dir.flatMap fun p => if p.2.st = 5 then p.2.asked.map fun w => .recallAnswer p.1 w else []) ++
    (s.peerTags.map fun p => .ashlarAcknowledgement (p.1 / 4096) (p.1 % 4096) false) ++
    (((s.reqs.filter fun p => p.2.lanes.any fun u => u.sent && u.got.isNone).map fun p => .globalObservation p.1)) ++
    (s.grps.flatMap fun p => (p.2.leases.filter (·.near)).map fun l => .voluntaryReturn (2 * l.line) (s.grpId p.1)) ++
    (s.remoteChunks.map fun x => .remoteChunkAcknowledge x.2.1) ++
    (s.peerQ.map .ashlarRequest) ++ s.hostQ.map fun q => .cxlMemRequest q.1 q.2
/-- A line of each contract in transition (R333). -/
def openMoves (s : State) : List Instr × State :=
  s.contractFrom.foldl (fun (acc : List Instr × State) p =>
    let (lo, hi) := acc.2.contractRange p.1
    let (k, s) := pick acc.2 ((hi - lo) / 128)
    (acc.1 ++ [.contractLineMove p.1 (lo / 128 + k)], s)) ([], s)
end State

/-- Some of a list, in some order: each may come now or later. -/
def someOf : Nat → List Instr → State → List Instr × State
  | 0, _, s => ([], s)
  | _ + 1, [], s => ([], s)
  | n + 1, x :: xs, s =>
    let (k, s) := pick s (x :: xs).length
    let (now, s) := pick s 2
    let (rest, s) := someOf n ((x :: xs).eraseIdx k) s
    (if now = 0 then rest else ((x :: xs).getD k x) :: rest, s)

/-! Ties at a home (R8). -/
/-- Who reaches homes with a device step: the requester's id, and what orders the steps of one requester. The KV commands
of teams compare by team id (R203). -/
def requesterOf (s : State) (i : Instr) : Option (Nat × Nat) :=
  match i with
  | .homeAccess id => (s.reqs.get? id).map fun r => (r.who.toNat, id)
  | .copyChunkExecute sl => some ((idMortar sl).toNat, 0)
  | .kvCommandExecute t => (s.tasks.get? t).map fun T => ((idOrris 0).toNat, T.core * 128 + T.slot)
  | .matrixCommandComplete k => some ((idKs k).toNat, 0)
  | .launchRecord die q | .semaphoreWait die q | .semaphoreSignal die q | .queueTailWake die q => some ((idQueue die).toNat, q)
  | .cxlMemRequest p _ => some ((idHost p).toNat, 0)
  | .ashlarRequest r => some ((idPeer r.src).toNat, r.tag)
  | _ => none
/-- The steps of one clock, those that reach homes by ascending requester. -/
def refill : List (Option (Nat × Nat) × Instr) → List (Option (Nat × Nat) × Instr) → List Instr
  | [], _ => []
  | (none, i) :: r, hs => i :: refill r hs
  | (some _, i) :: r, [] => i :: refill r []
  | (some _, _) :: r, h :: hs => h.2 :: refill r hs
def byRequester (s : State) (xs : List Instr) : List Instr :=
  let tagged := xs.map fun i => (requesterOf s i, i)
  let key := fun (x : Option (Nat × Nat) × Instr) => (x.1.map fun r => r.1 * 2 ^ 64 + r.2).getD 0
  refill tagged (State.sortBy key (tagged.filter fun x => x.1.isSome))

namespace State
/-- Promotions and selections of every partition and Keystone in use (R208, R276). -/
def issueEvents (s : State) : List Instr :=
  (s.coresInUse.flatMap fun c => (List.range 4).flatMap fun p =>
      [.candidatePromotion c p false, .candidatePromotion c p true, .partitionIssueSelection c p]) ++
    ((s.ks.filter fun p => p.2.running && p.1 < 192).map fun p => p.1 / 4).eraseDups.map .keystoneIssue
/-- The device steps of a clock. -/
def dueEvents (s : State) : List Instr × State :=
  let (moves, s) := s.openMoves
  let open' := s.openEngines ++ s.openScheduling ++ s.openPackage ++ moves
  let (now, s) := someOf open'.length open' s
  (s.dueAgents ++ s.dueTimers ++ s.duePeriodic ++ byRequester s now ++ s.issueEvents, s)

/-- A clock passes. -/
def clockTick (s : State) : State :=
  let (es, s) := ({ s with clk := s.clk + 1 } : State).dueEvents
  { s with agenda := es }
end State

end Sys2Proof.Machine
end

