-- ==== Sys2Proof/Machine/Step.lean ====
section
/-! DEFINITION. One step of the machine: the next device step presented, else the next instruction selected, else a clock
passes and the device steps due are presented. -/
namespace Sys2Proof.Machine

/-- An agent's instruction: fetched, decoded and executed; a fault of fetch or decode is taken. -/
noncomputable def State.runAgent (s : State) (a : Agent) : Host.Outcome State Fault Refusal :=
  match s.fetchDecode a with
  | .faulted s => .next s
  | .instr i s => exec i s

/-- One step. -/
noncomputable def step (s : State) : Host.Outcome State Fault Refusal :=
  match s.agenda with
  | e :: r => exec e { s with agenda := r, cur := none }
  | [] =>
    match s.issue with
    | a :: r => if s.mayIssue a then State.runAgent { s with issue := r } a else .next { s with issue := r }
    | [] => .next s.clockTick

/-- The machine with the instruction of a table word placed where its next step fetches. -/
noncomputable def State.withFetchWord (s : State) (nbits w : Nat) : State :=
  let v := BitVec.ofNat 96 (w % 2 ^ nbits)
  s.loadWord (streamOfWord v) (bytesOf v)

end Sys2Proof.Machine
end

