-- ==== Sys2Proof/Safety.lean ====
section
/-! DEFINITION. The terms in which claims speak of a step: which agent runs, what an instruction leaves as it was, and
what a safe run is. -/
namespace Sys2Proof.Machine

/-- The run of k steps from a state ends in a state. -/
def safeFor (k : Nat) (s : State) : Prop := ∃ t, core.run k s = .next t

/-- An agent that exists is the one whose instruction runs. -/
def Runs (s : State) (a : Agent) : Prop := s.cur = some a ∧ s.hasAgent a = true

/-- It runs an instruction that acts once, and the guard lets it (R14). -/
def Acts (s : State) (a : Agent) (h : Hdr) : Prop := Runs s a ∧ s.guardOnce a h = true

/-- A group without what a register instruction may change: its registers, predicates and fragments. -/
def groupRest (G : Group) : Group :=
  { G with sreg := [], preds := [], reg := [], lastRead := [], hist := [], frags := [], fuses := [], busy := [] }

/-- A Keystone context without what a register instruction may change. -/
def ctxRest (c : KsCtx) : KsCtx := { c with pc := 0#64, sreg := [], preds := [], st := .ready, holdUntil := 0, busy := [] }

/-- The state without its groups and contexts, its requests and commands, and the model's own counters. -/
def stateRest (s : State) : State := { s with grps := [], ks := [], reqs := [], pends := [], free := 0, nextId := 0 }

/-- A request but for the parts of its result that younger writes replace (R70, R142). -/
def reqCore (r : Req) : Req := { r with overwritten := [] }
/-- A command not accepted yet but for the registers that receive its completion value (R142, R180). -/
def pendCore (p : PendCmd) : PendCmd := { p with dst := [] }

/-- What an instruction of an agent leaves as it was: everything outside the agent's group or context, and of that group
or context everything but the scalar registers, predicates and vector registers named; `fg` and `fk` are what happens to
the rest of the group or context. A vector register whose last read is pending may be released (R15). -/
structure Leaves (s t : State) (a : Agent) (scalars preds vecs : List Nat) (fg : Group → Group) (fk : KsCtx → KsCtx) :
    Prop where
  rest : stateRest t = stateRest s
  grps : ∀ g, (∀ e, a ≠ .frag g e) → t.grps.get? g = s.grps.get? g
  ctxs : ∀ k, a ≠ .ks k → t.ksCtx k = s.ksCtx k
  scl : ∀ i, i ∉ scalars → t.sget a i = s.sget a i
  pred : ∀ p, p ∉ preds → t.predOf a p = s.predOf a p
  grp : ∀ g e G, a = .frag g e → s.grps.get? g = some G →
    ∃ H, t.grps.get? g = some H ∧ groupRest H = groupRest (fg G) ∧
      (∀ v, v ∉ vecs → v ∉ G.lastRead → H.reg.get? v = G.reg.get? v) ∧
      (∀ v, v ∈ H.lastRead → v ∈ G.lastRead ∨ v ∈ vecs)
  ctx : ∀ k, a = .ks k → ctxRest (t.ksCtx k) = ctxRest (fk (s.ksCtx k))

/-- No request and no command changes but for the results that younger writes replace. -/
structure QueuesStay (s t : State) : Prop where
  reqs : ∀ id, (t.reqs.get? id).map reqCore = (s.reqs.get? id).map reqCore
  pends : ∀ id, (t.pends.get? id).map pendCore = (s.pends.get? id).map pendCore

/-- The frame of an instruction that writes only registers of its agent. -/
def OnlyRegs (s t : State) (a : Agent) (scalars preds vecs : List Nat) : Prop :=
  Leaves s t a scalars preds vecs id id ∧ QueuesStay s t

/-- The agent goes on at the next instruction: always for a Keystone context, and for the one fragment of a group that is
not split (the fuse rules of R133 move the others). -/
def Advances (s t : State) (a : Agent) : Prop :=
  match a with
  | .frag g e => ∀ G F, s.grps.get? g = some G → G.frags = [(e, F)] → F.record = none →
      t.pcOf a = F.pc + 12#64 ∧ t.stOf a = .ready ∧ t.maskOfAgent a = F.mask
  | .ks k => (t.ksCtx k).pc = (s.ksCtx k).pc + 12#64 ∧ (t.ksCtx k).st = .ready

/-- The registers of a scalar destination. -/
def sclRegs (d : Nat) (wide : Bool) : List Nat := if wide then [d, d + 1] else [d]

/-- An instruction that acts once has written a scalar register or pair, changed nothing else, and gone on. -/
def SclDone (s t : State) (a : Agent) (d : Nat) (wide : Bool) (x : W64) : Prop :=
  t.sget a d = lo32 x ∧ (wide = true → t.sget a (d + 1) = hi32 x) ∧ OnlyRegs s t a (sclRegs d wide) [] [] ∧ Advances s t a

/-- An instruction whose guard is false: nothing changes but the PC. -/
def OnlyRetires (s t : State) (a : Agent) : Prop := OnlyRegs s t a [] [] [] ∧ Advances s t a

/-- Lane l of vector register v of a group. -/
def laneOf (s : State) (g v l : Nat) : W32 := ((s.grps.get? g).map fun G => G.vlane v l).getD 0#32

/-- What a list of lane writes gives lane l, over the value before. -/
def written (xs : List (Nat × W64)) (l : Nat) (old : W32) (half : W64 → W32) : W32 :=
  match xs.find? fun p => p.1 == l with
  | some p => half p.2
  | none => old

/-- Registers that a vector destination needs and that the group can hold (R265): mapped, or taken from its reservation
or its pool. -/
def RoomFor (s : State) (g : Nat) (regs : List Nat) : Prop :=
  ∀ G, s.grps.get? g = some G →
    (regs.filter fun v => (G.reg.get? v).isNone).length = 0 ∨ s.canMap g (regs.filter fun v => (G.reg.get? v).isNone).length = true

/-- A per-lane instruction of a fragment has written lanes of a vector register or pair, released only sources whose last
read it was, and gone on. -/
def VecDone (s t : State) (g e d : Nat) (wide : Bool) (released : List Nat) (xs : List (Nat × W64)) : Prop :=
  (∀ l, l < 64 → laneOf t g d l = written xs l (laneOf s g d l) lo32) ∧
    (wide = true → ∀ l, l < 64 → laneOf t g (d + 1) l = written xs l (laneOf s g (d + 1) l) hi32) ∧
    OnlyRegs s t (.frag g e) [] [] (dstRegs d (if wide then 2 else 1) ++ released) ∧ Advances s t (.frag g e)

/-- A per-lane instruction has written a predicate in the lanes given, released only sources whose last read it was, and
gone on. -/
def PredDone (s t : State) (a : Agent) (p : Nat) (released : List Nat) (lanes val : Mask) : Prop :=
  (p < 15 → t.predOf a p = (s.predOf a p &&& ~~~lanes) ||| (val &&& lanes)) ∧
    OnlyRegs s t a [] [p] released ∧ Advances s t a

/-- Memory reads as before at every address. -/
def MemSame (s t : State) : Prop := ∀ pa, t.mem.read pa = s.mem.read pa

end Sys2Proof.Machine
end

