-- ==== Sys2Proof/Certificates/Slice0/Obligations.lean ====
section
/-! DEFINITION. The statements about the machine: what its numbered rules say an instruction or a device step does. -/
set_option Elab.async false
namespace Sys2Proof.Claim
open Sys2Proof.Machine

/-! Scalar instructions (03_instr_integer.md). -/
/-- The 32-bit value of a scalar source (R16), which `VectorSources` relates to the register. -/
def reg (s : State) (a : Agent) (x : Src) : W32 := s.sread a x.idx.toNat
/-- The value of an even pair of scalar registers (R42). -/
def pair (s : State) (a : Agent) (x : Src) : W64 := pairOf (s.sread a x.idx.toNat) (s.sread a (x.idx.toNat + 1))
/-- Sources that name registers, not specials (R66). -/
def Regs (f : NForm) : Prop := f.a.cls ≠ .spec ∧ f.b.cls ≠ .spec ∧ f.c.cls ≠ .spec

/-- The high half of a 32 × 32 product (R66, R75). -/
def mulHigh (sg : Bool) (a b : W32) : W32 :=
  if sg then ((a.signExtend 64 * b.signExtend 64) >>> 32).setWidth 32 else ((a.setWidth 64 * b.setWidth 64) >>> 32).setWidth 32
/-- Smaller and larger, compared as the type gives. -/
def least {w : Nat} (sg : Bool) (a b : BitVec w) : BitVec w := if (if sg then b.slt a else b.ult a) then b else a
def greatest {w : Nat} (sg : Bool) (a b : BitVec w) : BitVec w := if (if sg then a.slt b else a.ult b) then b else a
/-- The number of 1 bits. -/
def ones {w : Nat} (a : BitVec w) : Nat := (List.range w).countP a.getLsbD
/-- The number of leading and of trailing 0 bits. -/
def leading {w : Nat} (a : BitVec w) : Nat := ((List.range w).find? fun i => a.getLsbD (w - 1 - i)).getD w
def trailing {w : Nat} (a : BitVec w) : Nat := ((List.range w).find? fun i => a.getLsbD i).getD w

/-- pos and len of a field descriptor (R77). -/
def fieldAt (b : W32) : Nat := (b.extractLsb' 0 5).toNat
def fieldLen (b : W32) : Nat := min (b.extractLsb' 8 6).toNat (32 - fieldAt b)
/-- Bit i of the result of bfe (R77). -/
def bfeBit (sg : Bool) (a b : W32) (i : Nat) : Bool :=
  if i < fieldLen b then a.getLsbD (fieldAt b + i) else fieldLen b != 0 && sg && a.getLsbD (fieldAt b + fieldLen b - 1)
/-- Bit i of the result of bfi (R77). -/
def bfiBit (a b c : W32) (i : Nat) : Bool :=
  if fieldAt b ≤ i && i < fieldAt b + fieldLen b then a.getLsbD (i - fieldAt b) else c.getLsbD i
/-- A word from its bits. -/
def ofBits (f : Nat → Bool) : W32 := (List.range 32).foldl (fun x i => if f i then x ||| (1#32 <<< i) else x) 0#32

/-- f of R66 for each N-form instruction: signedness of the type, and a, b and c. -/
def scalarN : List ((Hdr → NForm → Instr) × (Bool → W32 → W32 → W32 → W32)) :=
  [(.sAdd, fun _ a b _ => a + b), (.sSub, fun _ a b _ => a - b), (.sMul, fun _ a b _ => a * b),
    (.sMulhi, fun sg a b _ => mulHigh sg a b), (.sMad, fun _ a b c => a * b + c), (.sAnd, fun _ a b _ => a &&& b),
    (.sOr, fun _ a b _ => a ||| b), (.sXor, fun _ a b _ => a ^^^ b), (.sShl, fun _ a b _ => a <<< b.toNat),
    (.sShr, fun _ a b _ => a >>> b.toNat), (.sSar, fun _ a b _ => a.sshiftRight b.toNat),
    (.sMin, fun sg a b _ => least sg a b), (.sMax, fun sg a b _ => greatest sg a b), (.sMov, fun _ a _ _ => a),
    (.sPopc, fun _ a _ _ => BitVec.ofNat 32 (ones a)), (.sClz, fun _ a _ _ => BitVec.ofNat 32 (leading a)),
    (.sBfe, fun sg a b _ => ofBits (bfeBit sg a b)), (.sBfi, fun _ a b c => ofBits (bfiBit a b c))]

/-- f of R66 for each I-form instruction: b is imm32. -/
def scalarI : List ((Hdr → IForm → Instr) × (Bool → W32 → W32 → W32)) :=
  [(.sAddImm, fun _ a b => a + b), (.sSubImm, fun _ a b => a - b), (.sMulImm, fun _ a b => a * b),
    (.sMulhiImm, fun sg a b => mulHigh sg a b), (.sAndImm, fun _ a b => a &&& b), (.sOrImm, fun _ a b => a ||| b),
    (.sXorImm, fun _ a b => a ^^^ b), (.sShlImm, fun _ a b => a <<< b.toNat), (.sShrImm, fun _ a b => a >>> b.toNat),
    (.sSarImm, fun _ a b => a.sshiftRight b.toNat), (.sMinImm, fun sg a b => least sg a b),
    (.sMaxImm, fun sg a b => greatest sg a b), (.sLi, fun _ _ b => b), (.sBfeImm, fun sg a b => ofBits (bfeBit sg a b))]

/-- The 64-bit instructions of R67; in the I form, imm32 extended as the type gives. -/
def scalarWideN : List ((Hdr → NForm → Instr) × (W64 → W64 → W64)) :=
  [(.sAdd64, fun a b => a + b), (.sSub64, fun a b => a - b), (.sMul64, fun a b => a * b)]
def scalarWideI : List ((Hdr → IForm → Instr) × (W64 → W64 → W64)) :=
  [(.sAdd64Imm, fun a b => a + b), (.sSub64Imm, fun a b => a - b), (.sMul64Imm, fun a b => a * b)]
def extended (t : Ty) (imm : W32) : W64 := if t = .s64 then imm.signExtend 64 else imm.setWidth 64

/-- Quotient and remainder of R68. -/
def quotient {w : Nat} (sg : Bool) (a b : BitVec w) : BitVec w :=
  if sg then
    if b = 0 then (if a.msb then BitVec.intMin w else BitVec.intMax w) else BitVec.sdiv a b
  else if b = 0 then BitVec.allOnes w else a / b
def remainder {w : Nat} (sg : Bool) (a b : BitVec w) : BitVec w :=
  if b = 0 then a else if sg then BitVec.srem a b else a % b
def scalarDiv : List ((Hdr → NForm → Instr) × (Hdr → IForm → Instr) × Bool) :=
  [(.sDivs, .sDivsImm, true), (.sDivn, .sDivnImm, false)]

/-- The conditions of R81 on values of one width. -/
def holds {w : Nat} (sg : Bool) (op : Nat) (a b : BitVec w) : Bool :=
  match op with
  | 0 => a == b
  | 1 => a != b
  | 2 => if sg then a.slt b else a.ult b
  | 3 => if sg then a.sle b else a.ule b
  | 4 => if sg then b.slt a else b.ult a
  | 5 => if sg then b.sle a else b.ule a
  | 6 => a &&& b != 0
  | _ => a &&& b == 0
/-- The lanes of an agent's predicate that an instruction acting once writes: the fragment's, or all alike of a context. -/
def ownLanes (s : State) (a : Agent) : Mask :=
  match a with
  | .frag _ _ => s.maskOfAgent a
  | .ks _ => BitVec.allOnes 64
/-- A truth value written where D names a scalar register or a predicate (R69). -/
def TruthDone (s t : State) (a : Agent) (d : Dst) (b : Bool) : Prop :=
  if d.cls = .spec then PredDone s t a d.idx.toNat [] (ownLanes s a) (if b then ownLanes s a else 0#64)
  else SclDone s t a d.idx.toNat false (if b then 1#64 else 0#64)

/-! Per-lane instructions (R14, R73). -/
/-- A fragment whose instruction executes in some lane. -/
def InLanes (s : State) (g e : Nat) (h : Hdr) : Prop := Runs s (.frag g e) ∧ s.guardMask (.frag g e) h ≠ 0#64
/-- What source n gives lane l, every source being read before any write. -/
def src (s : State) (g e : Nat) (srcs : List Opnd) (aux : BitVec 6) (n l : Nat) : W64 :=
  srcLane (readSrcs s (.frag g e) aux srcs).1 n l
/-- The instruction completes: exactly the participating lanes of D are written, each with a value that its rule gives
from the sources. -/
def LaneResult (s : State) (g e : Nat) (h : Hdr) (i : Instr) (d : Nat) (wide : Bool) (srcs : List Opnd) (aux : BitVec 6)
    (rule : (Nat → Nat → W64) → Nat → W64 → Prop) : Prop :=
  InLanes s g e h → RoomFor s g (dstRegs d (if wide then 2 else 1)) → ∃ t xs, exec i s = .next t ∧
    VecDone s t g e d wide (lastReadRegs srcs) xs ∧ xs.map (·.1) = lanesOf (s.guardMask (.frag g e) h) ∧
    ∀ p ∈ xs, rule (src s g e srcs aux) p.1 p.2
/-- The instruction completes: the participating lanes of a predicate take the truth value that its rule gives. -/
def LaneTruth (s : State) (g e : Nat) (h : Hdr) (i : Instr) (p : Nat) (srcs : List Opnd) (aux : BitVec 6)
    (rule : (Nat → Nat → W64) → Nat → Bool) : Prop :=
  InLanes s g e h → ∃ t val, exec i s = .next t ∧
    PredDone s t (.frag g e) p (lastReadRegs srcs) (s.guardMask (.frag g e) h) val ∧
    ∀ l < 64, (s.guardMask (.frag g e) h).getLsbD l → val.getLsbD l = rule (src s g e srcs aux) l

/-- Element k of a lane, w bits wide (R42). -/
def elem (w k : Nat) (x : W64) : BitVec w := x.extractLsb' (w * k) w
/-- An element as its type reads it. -/
def val {w : Nat} (sg : Bool) (a : BitVec w) : Int := if sg then a.toInt else a.toNat
/-- An exact result modulo 2^w, or clamped to the type's range with sat (R75). -/
def fit (w : Nat) (sg sat : Bool) (z : Int) : BitVec w :=
  BitVec.ofInt w (if sat then max (if sg then -(2 ^ (w - 1)) else 0) (min (if sg then 2 ^ (w - 1) - 1 else 2 ^ w - 1) z) else z)
/-- The shift count of R76: B's element, or the low 32 bits of a 64-bit one. -/
def shiftBy {w : Nat} (b : BitVec w) : Nat := if w = 64 then b.toNat % 2 ^ 32 else b.toNat
/-- An element result: width, signedness, sat, and the elements of A, B and C. -/
abbrev ElemRes := (w : Nat) → Bool → Bool → BitVec w → BitVec w → BitVec w → BitVec w
/-- Every element of a lane is the element result of the elements of the sources. -/
def EachElement (t : Ty) (sat : Bool) (f : ElemRes) (x : Nat → W64) (r : W64) : Prop :=
  ∀ k < Ty.count t, elem (Ty.width t) k r =
    f (Ty.width t) (Ty.signed t) sat (elem (Ty.width t) k (x 0)) (elem (Ty.width t) k (x 1)) (elem (Ty.width t) k (x 2))

/-- The rows of R75, R76 and R80 by element, with the number of sources in the N form. -/
def resAdd : ElemRes := fun w sg sat a b _ => fit w sg sat (val sg a + val sg b)
def resSub : ElemRes := fun w sg sat a b _ => fit w sg sat (val sg a - val sg b)
def resMul : ElemRes := fun w sg sat a b _ => fit w sg sat (val sg a * val sg b)
def resMad : ElemRes := fun w sg sat a b c => fit w sg sat (val sg a * val sg b + val sg c)
def resMulhi : ElemRes := fun w sg _ a b _ => BitVec.ofInt w (val sg a * val sg b / 2 ^ w)
def resShl : ElemRes := fun w sg sat a b _ => if sat then fit w sg true (val sg a * 2 ^ shiftBy b) else a <<< shiftBy b
def vectorN : List ((Hdr → NForm → Instr) × Nat × ElemRes) :=
  [(.vAdd, 2, resAdd), (.vSub, 2, resSub), (.vMul, 2, resMul), (.vMulhi, 2, resMulhi), (.vMad, 3, resMad),
    (.vAbs, 1, fun w sg sat a _ _ => fit w sg sat (val sg a).natAbs), (.vNeg, 1, fun w sg sat a _ _ => fit w sg sat (-(val sg a))),
    (.vMin, 2, fun _ sg _ a b _ => least sg a b), (.vMax, 2, fun _ sg _ a b _ => greatest sg a b),
    (.vAnd, 2, fun _ _ _ a b _ => a &&& b), (.vOr, 2, fun _ _ _ a b _ => a ||| b), (.vXor, 2, fun _ _ _ a b _ => a ^^^ b),
    (.vAndn, 2, fun _ _ _ a b _ => a &&& ~~~b), (.vNot, 1, fun _ _ _ a _ _ => ~~~a), (.vShl, 2, resShl),
    (.vShr, 2, fun _ _ _ a b _ => a >>> shiftBy b), (.vSar, 2, fun _ _ _ a b _ => a.sshiftRight (shiftBy b)),
    (.vRot, 2, fun _ _ _ a b _ => a.rotateLeft (shiftBy b)), (.vPopc, 1, fun w _ _ a _ _ => BitVec.ofNat w (ones a)),
    (.vClz, 1, fun w _ _ a _ _ => BitVec.ofNat w (leading a)), (.vCtz, 1, fun w _ _ a _ _ => BitVec.ofNat w (trailing a)),
    (.vBrev, 1, fun _ _ _ a _ _ => a.reverse), (.vMov, 1, fun _ _ _ a _ _ => a),
    (.vSat, 3, fun _ sg _ a b c => least sg (greatest sg a b) c), (.vDiv, 2, fun _ sg _ a b _ => quotient sg a b),
    (.vRem, 2, fun _ sg _ a b _ => remainder sg a b)]
def vectorI : List ((Hdr → IForm → Instr) × ElemRes) :=
  [(.vAddImm, resAdd), (.vSubImm, resSub), (.vMulImm, resMul), (.vMulhiImm, resMulhi),
    (.vMinImm, fun _ sg _ a b _ => least sg a b), (.vMaxImm, fun _ sg _ a b _ => greatest sg a b),
    (.vAndImm, fun _ _ _ a b _ => a &&& b), (.vOrImm, fun _ _ _ a b _ => a ||| b), (.vXorImm, fun _ _ _ a b _ => a ^^^ b),
    (.vAndnImm, fun _ _ _ a b _ => a &&& ~~~b), (.vShlImm, resShl), (.vShrImm, fun _ _ _ a b _ => a >>> shiftBy b),
    (.vSarImm, fun _ _ _ a b _ => a.sshiftRight (shiftBy b)), (.vRotImm, fun _ _ _ a b _ => a.rotateLeft (shiftBy b)),
    (.vDivImm, fun _ sg _ a b _ => quotient sg a b), (.vRemImm, fun _ sg _ a b _ => remainder sg a b)]
/-- The sum of R79 over the elements of a lane. -/
def dotOf (t : Ty) (sat : Bool) (f : Int → Int → Int) (a b c : W64) : W32 :=
  fit 32 (Ty.signed t) sat (val (Ty.signed t) (lo32 c) + ((List.range (Ty.count t)).map fun k =>
    f (val (Ty.signed t) (elem (Ty.width t) k a)) (val (Ty.signed t) (elem (Ty.width t) k b))).sum)
/-- The 33-bit sum of R78. -/
def carryOf (sub : Bool) (a b : W32) (cin : Bool) : BitVec 33 :=
  a.setWidth 33 + (if sub then ~~~b else b).setWidth 33 + (BitVec.ofBool cin).setWidth 33

/-- An f32 immediate of an f64 instruction (R73): the same number; an infinity or NaN keeps its sign and fraction. -/
noncomputable def widened (imm : W32) : W64 :=
  if imm.toNat / 2 ^ 23 % 2 ^ 8 = 255 then
    BitVec.ofNat 64 (imm.toNat / 2 ^ 31 * 2 ^ 63 + 0x7FF * 2 ^ 52 + imm.toNat % 2 ^ 23 * 2 ^ 29)
  else BitVec.ofNat 64 (convert (.flt .f32) (.flt .f64) {} imm.toNat).1

/-- The lane that a permutation code reads for lane i (R19). -/
def permuted (code : BitVec 4) (aux : BitVec 6) (i : BitVec 6) : BitVec 6 :=
  match code.toNat with
  | 0 => i
  | 1 => i ^^^ 1#6
  | 2 => i ^^^ 2#6
  | 3 => i ^^^ 4#6
  | 4 => i ^^^ 8#6
  | 5 => i ^^^ 16#6
  | 6 => i ^^^ 32#6
  | 7 => 63#6 - i
  | 8 => aux
  | n => (i &&& 0x38#6) + ((i + BitVec.ofNat 6 (n - 8)) &&& 7#6)

/-- A condition of R81 on lane values of a type: 32-bit values in the low half. -/
def laneHolds (t : Ty) (op : Nat) (a b : W64) : Bool :=
  match op with
  | 6 => a &&& b != 0
  | 7 => a &&& b == 0
  | n => if Ty.width t = 64 then holds (Ty.signed t) n a b else holds (Ty.signed t) n (lo32 a) (lo32 b)
/-- The predicate operations of R84 on the bits of pA and pB. -/
def predRows : List ((Hdr → NForm → Instr) × (BitVec 5 → Bool → Bool → Bool)) :=
  [(.pAnd, fun op x y => (x != op.getLsbD 0) && (y != op.getLsbD 1)),
    (.pOr, fun op x y => (x != op.getLsbD 0) || (y != op.getLsbD 1)),
    (.pXor, fun op x y => (x != op.getLsbD 0) != (y != op.getLsbD 1)), (.pNot, fun _ x _ => !x), (.pMov, fun _ x _ => x)]

/-! Floating point and conversions (R92, R94-R106, R116, R117). -/
/-- What a float instruction is made of: destination, 64-bit or not, sources, rounding, and the lane results and
conditions that its entry gives. -/
structure FloatForm where
  d : Nat
  wide : Bool
  srcs : List Opnd
  aux : BitVec 6
  rnd : Rnd
  res : (Nat → Nat → Bool → FEnv) → Mask → List (List W64) → FpRes
/-- Lane results and conditions in a state (R55, R91): element e of lane l is rounded and flushed as FPCTL says. -/
def FloatForm.result (F : FloatForm) (s : State) (g e : Nat) (h : Hdr) : FpRes :=
  F.res (fun i k sat => envAt s (.frag g e) F.rnd sat i k) (s.guardMask (.frag g e) h)
    (readSrcs s (.frag g e) F.aux F.srcs).1
/-- FPCTL and the stochastic counter after the instruction (R55, R90, R92). -/
def floatGroup (s : State) (a : Agent) (r : Rnd) (fls : List (Nat × FpFlags)) (G : Group) : Group :=
  { G with fpctl := G.fpctl ||| stickyBits (allFlags fls), ctr := if rndOf s a r = .stoch then G.ctr + 1#32 else G.ctr }
/-- Elementwise forms: n sources of the type, an operation on one element of each. -/
def elemForm (n : Nat) (rnd : NForm → Rnd) (op : NForm → FEnv → (Nat → Nat) → Nat × FpFlags) (h : Hdr) (f : NForm) :
    FloatForm :=
  { d := f.d.idx.toNat, wide := f.ty.is64, srcs := nSrcs h f f.ty.is64 n, aux := f.aux, rnd := rnd f,
    res := fun env part vs => fpLanes f.ty part vs (fun i k => env i k f.sat) (op f) }
def immForm (op : IForm → FEnv → (Nat → Nat) → Nat × FpFlags) (h : Hdr) (f : IForm) : FloatForm :=
  { d := f.d.idx.toNat, wide := f.ty.is64, srcs := [{ src := f.a, wide := f.ty.is64, lr := h.lra }], aux := f.aux,
    rnd := .rne,
    res := fun env part vs =>
      fpLanes f.ty part (vs ++ [allLanes (immOf f.ty f.imm)]) (fun i k => env i k f.sat) (op f) }
/-- Forms whose lanes are computed one by one: value and conditions of a lane from its sources. -/
def laneForm (d : Nat) (wide : Bool) (srcs : List Opnd) (aux : BitVec 6) (rnd : Rnd)
    (op : (Nat → Nat → Bool → FEnv) → (Nat → Nat → W64) → Nat → W64 × FpFlags) : FloatForm :=
  { d := d, wide := wide, srcs := srcs, aux := aux, rnd := rnd,
    res := fun env part vs =>
      { writes := eachLane part fun l => (op env (fun n => srcLane vs n) l).1,
        flags := (lanesOf part).map fun l => (l, (op env (fun n => srcLane vs n) l).2) } }

/-- The element operations of R94-R99 and their rounding. -/
def floatN : List ((Hdr → NForm → Instr) × (Hdr → NForm → FloatForm)) :=
  [(.vFadd, elemForm 2 NForm.rnd fun f env x => opAdd (Ty.ff f.ty) env (x 0) (x 1)),
    (.vFsub, elemForm 2 NForm.rnd fun f env x => opSub (Ty.ff f.ty) env (x 0) (x 1)),
    (.vFmul, elemForm 2 NForm.rnd fun f env x => opMul (Ty.ff f.ty) env (x 0) (x 1)),
    (.vFma, elemForm 3 NForm.rnd fun f env x => opFma (Ty.ff f.ty) env (x 0) (x 1) (x 2)),
    (.vFdiv, elemForm 2 NForm.rnd fun f env x => opDiv (Ty.ff f.ty) env (x 0) (x 1)),
    (.vFsqrt, elemForm 1 NForm.rnd fun f env x => opSqrt (Ty.ff f.ty) env (x 0)),
    (.vFmin, elemForm 2 (fun _ => .rne) fun f env x => opMinMax (Ty.ff f.ty) env false (x 0) (x 1)),
    (.vFmax, elemForm 2 (fun _ => .rne) fun f env x => opMinMax (Ty.ff f.ty) env true (x 0) (x 1)),
    (.vFrcp, elemForm 1 (fun _ => .rne) fun f env x => opRcp (Ty.ff f.ty) env (x 0)),
    (.vFrsq, elemForm 1 (fun _ => .rne) fun f env x => opRsq (Ty.ff f.ty) env (x 0)),
    (.vFexp2, elemForm 1 (fun _ => .rne) fun f env x => opExp2 (Ty.ff f.ty) env (x 0)),
    (.vFlog2, elemForm 1 (fun _ => .rne) fun f env x => opLog2 (Ty.ff f.ty) env (x 0)),
    (.vFsin, elemForm 1 (fun _ => .rne) fun f env x => opSin (Ty.ff f.ty) env (x 0)),
    (.vFcos, elemForm 1 (fun _ => .rne) fun f env x => opCos (Ty.ff f.ty) env (x 0)),
    (.vFfloor, elemForm 1 (fun _ => .rne) fun f env x => opIntegral (Ty.ff f.ty) env .rdn (x 0)),
    (.vFround, elemForm 1 NForm.rnd fun f env x => opIntegral (Ty.ff f.ty) env env.mode (x 0)),
    (.vFclass, elemForm 1 (fun _ => .rne) fun f _ x => (opClass (Ty.ff f.ty) (x 0), FpFlags.none)),
    (.vFgetexp, elemForm 1 (fun _ => .rne) fun f env x => opGetexp (Ty.ff f.ty) env (x 0)),
    (.vFscale, fun h f =>
      { d := f.d.idx.toNat, wide := f.ty.is64, aux := f.aux, rnd := f.rnd,
        srcs := [{ src := f.a, wide := f.ty.is64, lr := h.lra }, { src := f.b, wide := false, lr := h.lrb }],
        res := fun env part vs => scaleLanes f.ty part (vs.getD 0 []) (vs.getD 1 []) fun i k => env i k f.sat }),
    (.vFdot2, fun h f => laneForm f.d.idx.toNat false (nSrcs h f false 3) f.aux f.rnd fun env x l =>
      let p := opDot2 (Ty.ff f.ty) (env l 0 f.sat) (elemAt 16 0 (x 0 l)) (elemAt 16 1 (x 0 l)) (elemAt 16 0 (x 1 l))
        (elemAt 16 1 (x 1 l)) (x 2 l).toNat
      (BitVec.ofNat 64 p.1, p.2))]
def floatI : List ((Hdr → IForm → Instr) × (Hdr → IForm → FloatForm)) :=
  [(.vFaddImm, immForm fun f env x => opAdd (Ty.ff f.ty) env (x 0) (x 1)),
    (.vFsubImm, immForm fun f env x => opSub (Ty.ff f.ty) env (x 0) (x 1)),
    (.vFmulImm, immForm fun f env x => opMul (Ty.ff f.ty) env (x 0) (x 1)),
    (.vFdivImm, immForm fun f env x => opDiv (Ty.ff f.ty) env (x 0) (x 1)),
    (.vFminImm, immForm fun f env x => opMinMax (Ty.ff f.ty) env false (x 0) (x 1)),
    (.vFmaxImm, immForm fun f env x => opMinMax (Ty.ff f.ty) env true (x 0) (x 1)),
    (.vFscaleImm, fun h f =>
      { d := f.d.idx.toNat, wide := f.ty.is64, aux := f.aux, rnd := .rne,
        srcs := [{ src := f.a, wide := f.ty.is64, lr := h.lra }],
        res := fun env part vs =>
          scaleLanes f.ty part (vs.getD 0 []) (allLanes (f.imm.setWidth 64)) fun i k => env i k f.sat })]
/-- The instructions of R101-R106, R116 and R117: op and aux name the formats, elements and operators. -/
noncomputable def convertN : List ((Hdr → NForm → Instr) × (Hdr → NForm → FloatForm)) :=
  [(.vCvt, fun h f =>
      let ws := fmtWidth f.op.toNat
      let wd := fmtWidth (f.aux.toNat % 32)
      { d := f.d.idx.toNat, wide := wd == 64, srcs := [{ src := f.a, wide := ws == 64, lr := h.lra }], aux := 0#6,
        rnd := f.rnd,
        res := fun env part vs =>
          cvtLanes f.op.toNat (f.aux.toNat % 32) (if ws = 64 || wd = 64 then 1 else 32 / max ws wd) part
            (fun i k => env i k f.sat) fun l k => elemAt ws k (srcLane vs 0 l) }),
    (.vPack, fun h f => laneForm f.d.idx.toNat false (nSrcs h f false 3) 0#6 f.rnd fun env x l =>
      let D := f.aux.toNat % 32
      let S := wideCode (f.op.toNat % 8)
      let k := 2 * (f.op.toNat / 8)
      let y := fun n e => convert (elemOf S) (elemOf D) (env l e f.sat) (elemAt (fmtWidth S) 0 (x n l))
      (setSlot (fmtWidth D) (k + 1) (setSlot (fmtWidth D) k (x 2 l) (y 0 k).1) (y 1 (k + 1)).1, (y 0 k).2.or (y 1 (k + 1)).2)),
    (.vUnpack, fun h f =>
      let D := wideCode (f.op.toNat % 8)
      let S := f.aux.toNat % 32
      let k := f.op.toNat / 8 + 4 * (f.aux.toNat / 32)
      { d := f.d.idx.toNat, wide := false, srcs := nSrcs h f false 1, aux := 0#6, rnd := f.rnd,
        res := fun env part vs =>
          cvtLanes S D (32 / fmtWidth D) part (fun i e => env i e f.sat) fun l e =>
            elemAt (fmtWidth S) (k * (32 / fmtWidth D) + e) (srcLane vs 0 l) }),
    (.vScl, fun h f =>
      { d := f.d.idx.toNat, wide := false, srcs := nSrcs h f false 1, aux := 0#6, rnd := .rne,
        res := fun env part vs =>
          { writes := eachLane part fun l => BitVec.ofNat 64
              (sclValue (f.op.toNat % 8) (f.aux.toNat % 32) (env l 0 false) (srcLane vs 0 l).toNat), flags := [] } }),
    (.vQnt, fun h f =>
      { d := f.d.idx.toNat, wide := false, srcs := nSrcs h f false 2, aux := 0#6, rnd := f.rnd,
        res := fun env part vs =>
          { writes := eachLane part fun l => BitVec.ofNat 64 (qntValue (f.aux.toNat % 32) (f.op.toNat % 8) (env l 0 true)
              (srcLane vs 0 l).toNat (srcLane vs 1 l).toNat), flags := [] } }),
    (.vDqnt, fun h f => laneForm f.d.idx.toNat false (nSrcs h f false 2) 0#6 f.rnd fun env x l =>
      let E := f.aux.toNat % 32
      let k := f.op.toNat / 8 + 4 * (f.aux.toNat / 32)
      let p := dqntValue E (f.op.toNat % 8) (env l 0 f.sat) (elemAt (fmtWidth E) k (x 0 l)) (x 1 l).toNat
      (BitVec.ofNat 64 p.1, p.2))]
/-- The scan and the tree reduction (R116, R117); the heads of a segmented scan are a predicate's lanes. -/
noncomputable def collectiveN (s : State) (a : Agent) : List ((Hdr → NForm → Instr) × (Hdr → NForm → FloatForm)) :=
  [(.vScan, fun h f =>
      { d := f.d.idx.toNat, wide := f.ty.is64, srcs := nSrcs h f f.ty.is64 1, aux := f.aux, rnd := f.rnd,
        res := fun env part vs =>
          let r := scanLanes f.ty (f.op.toNat % 8) (f.op.getLsbD 3)
            (if f.op.getLsbD 4 then s.predOf a f.c.idx.toNat else 0#64) (fun l => env l 0 f.sat) (vs.getD 0 []) part
          { writes := r.out, flags := r.fl } }),
    (.vRed, fun h f =>
      { d := f.d.idx.toNat, wide := f.ty.is64, srcs := nSrcs h f f.ty.is64 1, aux := f.aux, rnd := f.rnd,
        res := fun env part vs =>
          let r := redTree f.ty (f.op.toNat % 8) (fun i => env i 0 f.sat) (vs.getD 0 []) part
          { writes := eachLane part fun _ => r.1.getD 0#64, flags := (lanesOf part).map fun l => (l, r.2) } })]
/-- The instruction completes: D's lanes hold the results, the conditions joined the sticky flags, and the counter
advanced where the rounding is stochastic. -/
def FloatResult (s : State) (g e : Nat) (h : Hdr) (i : Instr) (F : FloatForm) : Prop :=
  InLanes s g e h → RoomFor s g (dstRegs F.d (if F.wide then 2 else 1)) →
    trapLanes (fpctlOf s (.frag g e)) (F.result s g e h).flags = 0#64 → ∃ t, exec i s = .next t ∧
      (∀ l, l < 64 → laneOf t g F.d l = written (F.result s g e h).writes l (laneOf s g F.d l) lo32) ∧
      (F.wide = true → ∀ l, l < 64 →
        laneOf t g (F.d + 1) l = written (F.result s g e h).writes l (laneOf s g (F.d + 1) l) hi32) ∧
      Leaves s t (.frag g e) [] [] (dstRegs F.d (if F.wide then 2 else 1) ++ lastReadRegs F.srcs)
        (floatGroup s (.frag g e) F.rnd (F.result s g e h).flags) id ∧
      QueuesStay s t ∧ Advances s t (.frag g e)
/-- A condition whose trap is enabled: no register changes, the flags and the counter do, and 0x0E is raised with the
lanes that raised such a condition (R92). -/
def FloatTrap (s : State) (g e : Nat) (h : Hdr) (i : Instr) (F : FloatForm) : Prop :=
  InLanes s g e h → RoomFor s g (dstRegs F.d (if F.wide then 2 else 1)) →
    trapLanes (fpctlOf s (.frag g e)) (F.result s g e h).flags ≠ 0#64 → ∃ u,
      exec i s = .next (u.raiseCode (.frag g e) 0x0E 0#32 (trapLanes (fpctlOf s (.frag g e)) (F.result s g e h).flags)) ∧
      Leaves s u (.frag g e) [] [] [] (floatGroup s (.frag g e) F.rnd (F.result s g e h).flags) id ∧ QueuesStay s u ∧
      u.pcOf (.frag g e) = s.pcOf (.frag g e)
/-- The relations of v.fcmp on two values (R83): ordered and related, or unordered. -/
def floatRelation (F : FF) (daz : Bool) (op : Nat) (a b : Nat) : Bool :=
  let x := decVal F daz a
  let y := decVal F daz b
  let uno := x.isNan || y.isNan
  match op with
  | 0 => !uno && !x.lt y && !y.lt x
  | 1 => uno || x.lt y || y.lt x
  | 2 => !uno && x.lt y
  | 3 => !uno && !y.lt x
  | 4 => !uno && y.lt x
  | 5 => !uno && !x.lt y
  | 6 => !uno
  | _ => uno
/-- When v.fcmp raises invalid (R83). -/
def floatInvalid (F : FF) (daz : Bool) (op : Nat) (a b : Nat) : Bool :=
  let x := decVal F daz a
  let y := decVal F daz b
  if 2 ≤ op && op ≤ 5 then x.isNan || y.isNan else x.isSig || y.isSig
/-- The lanes in which v.fcmp raises invalid. -/
def invalidLanes (s : State) (g e : Nat) (h : Hdr) (t : Ty) (op : Nat) (x y : Nat → W64) : List Nat :=
  (lanesOf (s.guardMask (.frag g e) h)).filter fun l =>
    floatInvalid (Ty.ff t) ((fpctlOf s (.frag g e)).getLsbD 5) op (x l).toNat (y l).toNat
/-- v.fcmp of lane values x and y into predicate p. -/
def FloatCompare (s : State) (g e : Nat) (h : Hdr) (i : Instr) (p : Nat) (t : Ty) (op : Nat) (srcs : List Opnd)
    (x y : Nat → W64) : Prop :=
  let part := s.guardMask (.frag g e) h
  let bad := invalidLanes s g e h t op x y
  let fg := fun G : Group => { G with fpctl := if bad = [] then G.fpctl else G.fpctl ||| 0x400#32 }
  InLanes s g e h →
    ((bad = [] ∨ (fpctlOf s (.frag g e)).getLsbD 15 = false) → ∃ t', exec i s = .next t' ∧
      (p < 15 → ∀ l < 64, (t'.predOf (.frag g e) p).getLsbD l =
        if part.getLsbD l then floatRelation (Ty.ff t) ((fpctlOf s (.frag g e)).getLsbD 5) op (x l).toNat (y l).toNat
        else (s.predOf (.frag g e) p).getLsbD l) ∧
      Leaves s t' (.frag g e) [] [p] (lastReadRegs srcs) fg id ∧ QueuesStay s t' ∧ Advances s t' (.frag g e)) ∧
    (bad ≠ [] → (fpctlOf s (.frag g e)).getLsbD 15 = true → ∃ u,
      exec i s = .next (u.raiseCode (.frag g e) 0x0E 0#32 (maskOf bad)) ∧
      Leaves s u (.frag g e) [] [] [] fg id ∧ QueuesStay s u ∧ u.pcOf (.frag g e) = s.pcOf (.frag g e))

/-! Lane and string instructions (R111-R129). -/
/-- A[j] where lane j is a member, else the lane's own value (R110). -/
def fromLane (M : Mask) (x : Nat → W64) (l : Nat) (j : Int) : W64 := if 0 ≤ j ∧ j ≤ 63 ∧ M.getLsbD j.toNat then x j.toNat else x l
/-- The lane that v.shfl names (R111). -/
def shuffled (mode l b : Nat) : Int :=
  match mode with
  | 0 => b
  | 1 => l - b
  | 2 => l + b
  | _ => l ^^^ b
/-- Byte k of a lane value. -/
def laneByte (x : W64) (k : Nat) : Byte := x.extractLsb' (8 * k) 8
/-- The classes of v.bmask (R127). -/
def inClass (op : Nat) (b : W64) (x : Byte) : Bool :=
  match op with
  | 0 => 0x30#8 ≤ x && x ≤ 0x39#8
  | 1 => 0x41#8 ≤ x && x ≤ 0x5A#8
  | 2 => 0x61#8 ≤ x && x ≤ 0x7A#8
  | 3 => (0x41#8 ≤ x && x ≤ 0x5A#8) || (0x61#8 ≤ x && x ≤ 0x7A#8)
  | 4 => (0x30#8 ≤ x && x ≤ 0x39#8) || (0x41#8 ≤ x && x ≤ 0x5A#8) || (0x61#8 ≤ x && x ≤ 0x7A#8)
  | 5 => x == 0x20#8 || (0x09#8 ≤ x && x ≤ 0x0D#8)
  | 6 => (0x21#8 ≤ x && x ≤ 0x2F#8) || (0x3A#8 ≤ x && x ≤ 0x40#8) || (0x5B#8 ≤ x && x ≤ 0x60#8) || (0x7B#8 ≤ x && x ≤ 0x7E#8)
  | 7 => 0x80#8 ≤ x
  | 8 => x == laneByte b 0
  | _ => laneByte b 0 ≤ x && x ≤ laneByte b 1
/-- v.fold on one byte (R129). -/
def folded (op : Nat) (x : Byte) : Byte :=
  if op = 0 then (if 0x41#8 ≤ x ∧ x ≤ 0x5A#8 then x + 0x20#8 else x) else if 0x61#8 ≤ x ∧ x ≤ 0x7A#8 then x - 0x20#8 else x
/-- A UTF-8 sequence's length by its first byte (R128). -/
def utf8Length (x : Byte) : Nat :=
  if x ≤ 0x7F#8 then 1 else if 0xC2#8 ≤ x ∧ x ≤ 0xDF#8 then 2 else if 0xE0#8 ≤ x ∧ x ≤ 0xEF#8 then 3
  else if 0xF0#8 ≤ x ∧ x ≤ 0xF4#8 then 4 else 0
/-- What a compare of the first n bytes of two lanes gives (R125). -/
def compared (op : Nat) (x y : W64) (n : Nat) : W32 :=
  match (List.range n).find? fun k => laneByte x k != laneByte y k with
  | some k => if op = 0 then BitVec.ofNat 32 k else if laneByte x k < laneByte y k then 0xFFFFFFFF#32 else 1#32
  | none => if op = 0 then BitVec.ofNat 32 n else 0#32
/-- mix64 (R34). -/
def mixed (x : W64) : W64 :=
  let y := (x ^^^ x >>> 31) * 0xD6E8FEB86659FD93#64
  let z := (y ^^^ y >>> 29) * 0xA3B195354A39B70D#64
  z ^^^ z >>> 32

/-! Control (R131-R147). -/
/-- The agent goes on at an address: always for a Keystone context, and for the one fragment of a group that is not split
(the fuse rules of R133 may hold or merge others). -/
def GoesTo (s t : State) (a : Agent) (pc : W64) : Prop :=
  match a with
  | .frag g e => ∀ G F, s.grps.get? g = some G → G.frags = [(e, F)] → F.record = none →
      t.pcOf a = pc ∧ t.stOf a = .ready ∧ t.maskOfAgent a = F.mask
  | .ks k => (t.ksCtx k).pc = pc ∧ (t.ksCtx k).st = .ready
/-- Every lane of the agent takes the branch. -/
def AllTake (s : State) (a : Agent) (h : Hdr) : Prop :=
  Acts s a h ∧ (∀ g e, a = .frag g e → s.guardMask a h = s.maskOfAgent a)
/-- Four times a signed offset field from a PC (R25). -/
def target (s : State) (a : Agent) (off : BitVec 23) : W64 := s.pcOf a + BitVec.ofInt 64 (4 * off.toInt)
/-- A group that is one fragment, with no record. -/
def Alone (s : State) (g e : Nat) (G : Group) (F : Frag) : Prop :=
  s.cur = some (.frag g e) ∧ s.grps.get? g = some G ∧ G.frags = [(e, F)] ∧ e < 16 ∧ F.record = none ∧ F.cont = false ∧ F.mask ≠ 0#64
/-- What a split-table entry shows. -/
def shows (H : Group) (e : Nat) : Option (Mask × W64 × Option Nat × FragState) :=
  (H.frags.get? e).map fun X => (X.mask, X.pc, X.record, X.st)
/-- Where a trap of a fragment is taken in the group (R350): PC and status saved, the handler's address and privilege. -/
def InHandler (s t : State) (g e : Nat) (r : FaultRec) (retPc : W64) : Prop :=
  ∀ G F, s.grps.get? g = some G → G.frags.get? e = some F → ∃ H, t.grps.get? g = some H ∧ H.trappc = retPc ∧
    H.trapst.toNat = 0x200 + (if F.sup then 0x100 else 0) + r.cause % 64 ∧
    (H.frags.get? e).map (fun X => (X.pc, X.sup, X.handler, X.mask)) = some (s.trapvec &&& ~~~0xFF#64, true, true, F.mask) ∧
    H.preds = G.preds ∧ H.sreg = G.sreg ∧ H.st = G.st ∧
    (∀ j X, j ≠ e → G.frags.get? j = some X →
      ∃ Y w, H.frags.get? j = some Y ∧ Y.pc = X.pc ∧ Y.mask = X.mask ∧ Y.st = .trappedOut w) ∧
    (∀ v, v ≠ 255 → H.reg.get? v = G.reg.get? v) ∧
    (∀ l < 64, laneOf t g 255 l = if l < 8 then BitVec.ofNat 32 (natOfBytes (((r.bytes true true).drop (4 * l)).take 4)) else 0#32)
/-- Where a fault goes to the fault queue (R344, R346): the group parks with the record, or the context stops. -/
def ToQueue (s t : State) (a : Agent) (r : FaultRec) : Prop :=
  match a with
  | .frag g e => ∀ G, s.grps.get? g = some G → G.park = none → G.st ≠ .parked → ∃ H, t.grps.get? g = some H ∧
      H.park.map (fun p => (p.reason, p.sets, p.unacked, p.framed)) = some (2, [(e, [r])], 1, false) ∧ H.st = .parking ∧
      H.reg = G.reg ∧ H.sreg = G.sreg ∧ H.preds = G.preds ∧ t.pcOf a = s.pcOf a ∧ t.sets = s.sets
  | .ks k => (t.ksCtx k).stopped = true ∧ (t.ksCtx k).pc = (s.ksCtx k).pc ∧
      t.sets = s.sets ++
        [{ die := k / 48, retry := false, target := .keystone k ((s.ksCtx k).task.getD 0), cause := r.cause, recs := [r.bytes true true] }]
/-- A group's handler takes a cause: TRAPVEC selects it, no handler runs, and v255 can be had (R350). -/
def Handles (s : State) (g bit : Nat) : Prop :=
  s.trapvec.getLsbD bit = true ∧ ∀ G, s.grps.get? g = some G → G.trapst.getLsbD 9 = false ∧ ((G.reg.get? 255).isSome ∨ s.canMap g 1 = true)

/-! Instructions whose guard is false in every lane (R14). -/
noncomputable def guardedN : List (Hdr → NForm → Instr) :=
  [.sAdd, .sSub, .sMul, .sMulhi, .sMad, .sAnd, .sOr, .sXor, .sShl, .sShr, .sSar, .sMin, .sMax, .sCmp, .sSel, .sMov,
    .sAdd64, .sSub64, .sMul64, .sPopc, .sClz, .sBfe, .sBfi, .sDivs, .sDivn, .sRdsr, .sVrd, .sVwr, .vAdd, .vSub,
    .vAddx, .vSubx, .vMul, .vMulhi, .vMulw, .vMad, .vAbs, .vNeg, .vMin, .vMax, .vAnd, .vOr, .vXor, .vAndn, .vNot,
    .vShl, .vShr, .vSar, .vRot, .vBfe, .vBfi, .vPopc, .vClz, .vCtz, .vBrev, .vMov, .vSat, .vDot4, .vDot2, .vSad,
    .vDiv, .vRem, .vCmp, .vFcmp, .pAnd, .pOr, .pXor, .pNot, .pMov, .vSel, .pTovec, .pFromvec, .pPopc, .pFirst,
    .vFadd, .vFsub, .vFmul, .vFma, .vFmin, .vFmax, .vFrcp, .vFrsq, .vFsqrt, .vFdiv, .vFexp2, .vFlog2, .vFsin,
    .vFcos, .vFfloor, .vFround, .vFclass, .vFscale, .vFgetexp, .vFdot2, .vCvt, .vPack, .vUnpack, .vScl, .vQnt,
    .vDqnt, .vRngSeed, .vRngGets, .vRngGetc, .vRngDraw, .vShfl, .vBcast, .vVoteAny, .vVoteAll, .vVoteUni,
    .vVoteBallot, .vMatch, .vScan, .vRed, .vCompact, .vExpand, .vRank, .vCrc, .vMix, .vHmul, .vPart, .vBkt, .vScmp,
    .vBfind, .vBmask, .vUlen, .vFold, .exit, .yield, .nop, .launch, .vFifoPush, .vFifoPop, .redFlushDrain,
    .redFlushCommit, .bankCfg, .bankQry, .shareJoin, .shareLeave, .spMap, .spUnmap, .spWb, .spInv, .rsHintKeep,
    .rsHintDrop, .rsHintFetch, .rsEvict, .rsEvictInv, .rsQry, .kvXlat, .kStat, .vAccrd, .vAccwr, .sysRfe,
    .sysTlbiVa, .sysTlbiAs, .sysTlbiAll, .sysHaltCore, .sysHaltResume, .sysIdle, .preMask, .preUnmask, .sysSig,
    .sysFqackRetry, .sysFqackSkip, .sysFqackKill, .sysFqackResume, .sysFqackFail, .sysDirq, .sysDirrcZero,
    .sysDirrcCopy, .sysDirrcKeep, .sysWatch, .sysSwatch]
noncomputable def guardedI : List (Hdr → IForm → Instr) :=
  [.sAddImm, .sSubImm, .sMulImm, .sMulhiImm, .sAndImm, .sOrImm, .sXorImm, .sShlImm, .sShrImm, .sSarImm, .sMinImm,
    .sMaxImm, .sCmpImm, .sLi, .sLih, .sAdd64Imm, .sSub64Imm, .sMul64Imm, .sBfeImm, .sDivsImm, .sDivnImm, .vAddImm,
    .vSubImm, .vMulImm, .vMulhiImm, .vMulwImm, .vMinImm, .vMaxImm, .vAndImm, .vOrImm, .vXorImm, .vAndnImm, .vShlImm,
    .vShrImm, .vSarImm, .vRotImm, .vBfeImm, .vLi, .vDivImm, .vRemImm, .vCmpImm, .vFcmpImm, .vFaddImm, .vFsubImm,
    .vFmulImm, .vFminImm, .vFmaxImm, .vFdivImm, .vFscaleImm, .vHmulImm, .vBfindImm, .bar, .barArv, .barWt, .trap,
    .brk, .waitcnt, .sleep, .leaseFp, .bankCfgImm, .sysRd, .sysWr]
noncomputable def guardedM : List (Hdr → MForm → Instr) :=
  [.sLd, .sSt, .vSld, .vLd, .vSt, .vLdg, .vStg, .vLds, .vSts, .vLdsw, .vStsw, .vLdc, .vPf, .aAdd, .aMin, .aMax,
    .aAnd, .aOr, .aXor, .aXchg, .aCas, .aInc, .aFadd, .aFmin, .aFmax, .redAdd, .redFadd, .redDet, .leaseAcq,
    .leaseRel, .waitAddr, .fence, .fenceCode, .fenceEng]
noncomputable def guardedE : List (Hdr → EForm → Instr) :=
  [.cp, .cpMc, .cpX, .cpFill, .cpGth, .cpSct, .tcWait, .tcGet, .tcErr, .chWp, .chRst, .chSumGet, .chSumSet,
    .chSumExp, .mTr, .mRed, .kvMatch, .kvInsert, .kvFork, .kvRef, .kvUnref, .kvAppend, .kvQry, .kLda, .kDrain,
    .kPass, .kRecv]
noncomputable def guardedK : List (Hdr → KForm → Instr) :=
  [.kMma, .kZero, .kScale]

/-! Memory instructions from issue to request (R148-R161). -/
/-- A unit of a request without what its home answered. -/
def unitKey (p : LaneReq) : LaneReq := { p with got := none }
/-- The registers that a memory instruction's result will reach. -/
def resultRegs (m : MemSpec) : List Nat :=
  match m.dst with
  | some (.vec, d) => if m.op.inLd then dstRegs d m.regs else []
  | _ => []
/-- Nothing keeps an access from its address phase: no request is outstanding, the group is not split, its count has room,
its result's registers can be had, and a release at .sys finds no acknowledgement open and no write lost (R141, R153, R265,
R307). -/
def MemReady (s : State) (a : Agent) (m : MemSpec) : Prop :=
  s.stOf a = .ready ∧ s.reqs = [] ∧ (if m.op.inLd then s.ldOf a < 63 else s.stcOf a < 63) ∧
    (releases m.order = true → m.scope = .sys → s.offAcksOf a = 0 ∧ s.lostOf a = none) ∧
    ∀ g e, a = .frag g e → RoomFor s g (resultRegs m) ∧ ∀ G, s.grps.get? g = some G → G.frags.length ≤ 1
/-- The units of a memory instruction as its request takes them up: those that L1 serves have their bytes (R296). -/
def taken (s : State) (a : Agent) (m : MemSpec) (ps : List Checked) : List LaneReq :=
  ps.map fun p => (s.l1Capture a m.op p.toLaneReq).1
/-- Every lane passes the address phase and the reply phase, no home must wait for another agent (R154, R402) and none lies
off the package; the chunks of mapped scratch that lanes need are filled (R174), and L1 notes which lines serve loads. -/
def Passes (s s1 : State) (a : Agent) (m : MemSpec) (ps : List Checked) (us : List LaneReq) : Prop :=
  ∃ u v, s.addressPhase a m m.lanes = (u, ps, []) ∧ u.waitsOf a m ps = [] ∧ u.replyFaults a m.op ps = [] ∧
    (∀ p ∈ ps, p.loc.remote = false) ∧ v = ps.foldl (fun w p => w.fillTarget (w.agentId a) p.target) u ∧ us = taken v a m ps ∧
    s1 = us.foldl (fun w p => match p.loc, p.got with | .mem pa _ _, some _ => w.l1Touch (w.coreOf a) pa | _, _ => w) v
/-- Lines that the filter of R269 samples. -/
def sampled (ls : List Place) : List Nat :=
  ls.filterMap fun l => match l with
    | .mem pa _ .dflt => if pa / 128 % 16 = 0 then some (pa / 128) else none
    | _ => none
/-- What the measured lease keeps of an instruction that leads to these places (R269). -/
def noted (ls : List Place) (G : Group) : Group :=
  { G with filter := (NatSet.addAll G.filter (sampled ls)).take 256, memIssued := G.memIssued + 1 }
/-- What issue leaves of the group and of the context: one more in LD or in ST (R141), the filter (R269), and the times of
its lanes' writes and reads (R298). -/
def memGroup (m : MemSpec) (us : List LaneReq) (vis seen : List Nat) (G : Group) : Group :=
  { noted (if m.space = .global && m.noted then us.map (·.loc) else []) G with
    ld := if m.op.inLd then G.ld + 1 else G.ld, stc := if m.op.inLd then G.stc else G.stc + 1, laneVis := vis, laneSeen := seen }
def memCtx (m : MemSpec) (c : KsCtx) : KsCtx :=
  { c with ld := if m.op.inLd then c.ld + 1 else c.ld, stc := if m.op.inLd then c.stc else c.stc + 1 }
/-- The times of a fragment's lanes: unchanged, but that a load which L1 serves whole has read its write times (R298). -/
def LaneTimes (s : State) (a : Agent) (r : Req) (vis seen : List Nat) : Prop :=
  ∀ g e G, a = .frag g e → s.grps.get? g = some G → ∀ l < 64, vis.getD l 0 = G.laneVis.getD l 0 ∧
    seen.getD l 0 = if Req.served r ∧ (s.maskOfAgent a).getLsbD l then max (G.laneSeen.getD l 0) r.seen else G.laneSeen.getD l 0
/-- The instruction completes: its request enters the machine with its lanes' places and operands, the agent goes on, and
memory and every register keep their values; or, where lanes fault in the address phase, no access is made and the faults
are taken (R153-R156). -/
def MemIssues (s : State) (a : Agent) (h : Hdr) (i : Instr) (m : MemSpec) (released : List Nat) : Prop :=
  Runs s a → s.guardMask a h ≠ 0#64 → MemReady s a m → (m.op = .load → releases m.order = false) →
    (∀ s1 ps us, Passes s s1 a m ps us → ∃ t r vis seen, exec i s = .next t ∧ t.reqs.get? s1.nextId = some r ∧ r.agent = a ∧
      r.op = m.op ∧ r.lanes = us ∧ us.map unitKey = ps.map (unitKey ·.toLaneReq) ∧ r.dst = m.dst ∧ r.regs = m.regs ∧
      r.part = m.part ∧ r.one = m.one ∧ r.order = m.order ∧ r.scope = m.scope ∧ r.place = m.place ∧ r.blocking = false ∧
      r.overwritten = [] ∧ LaneTimes s1 a r vis seen ∧
      (∀ id, id ≠ s1.nextId → (t.reqs.get? id).map reqCore = (s1.reqs.get? id).map reqCore) ∧
      (∀ id, (t.pends.get? id).map pendCore = (s1.pends.get? id).map pendCore) ∧ MemSame s1 t ∧
      Leaves s1 t a [] [] (released ++ resultRegs m) (memGroup m us vis seen) (memCtx m) ∧
      (∀ g e, a = .frag g e → ∀ v ∈ resultRegs m, ∀ l < 64, laneOf t g v l = laneOf s1 g v l) ∧ Advances s1 t a) ∧
    ∀ s1 ps f fs, s.addressPhase a m m.lanes = (s1, ps, f :: fs) →
      exec i s = .next (s1.raiseLanes a m.op.acc m.single (f :: fs))

/-- The exact address of a lane of class 0x8 (R149): base, index shifted by scale, and offset; without an index a scalar
base of v.ld, v.st, v.lds, v.sts, v.ldsw and v.stsw steps by the size. -/
def laneAddr (s : State) (g e : Nat) (f : MForm) (sp : Space) (implicit : Bool) (l : Nat) : Int :=
  exactAddr (src s g e [⟨f.a, sp == .global, false⟩] 0#6 0 l).toNat
    (if f.b.isZero then (if implicit = true ∧ f.a.cls = .scl then ((l * szBytes f.size : Nat) : Int) else 0)
     else (lo32 (src s g e [⟨f.b, false, false⟩] 0#6 0 l)).toInt * (2 ^ f.scale.toNat : Nat)) f.off
/-- The bytes that lane l of a run of vector registers holds (R150). -/
def laneBytes (s : State) (g d n l : Nat) : List Byte :=
  (List.range n).flatMap fun j => Memory.leBytes 4 (laneOf s g (d + j) l).toNat
/-- A per-lane load or store of class 0x8 (R156). -/
def vecSpec (s : State) (g e : Nat) (h : Hdr) (f : MForm) (op : ReqOp) (sp : Space) (implicit : Bool) : MemSpec :=
  { op := op, space := sp, size := szBytes f.size, order := f.order, scope := f.scope, pol := f.policy,
    lanes := (lanesOf (s.guardMask (.frag g e) h)).map fun l =>
      { lane := l, off := 0, addr := laneAddr s g e f sp implicit l,
        data := if op = .store then (laneBytes s g f.d.idx.toNat (szRegs f.size) l).take (szBytes f.size) else [], cmp := [] },
    dst := if op = .load then some (.vec, f.d.idx.toNat) else none, regs := szRegs f.size,
    part := s.guardMask (.frag g e) h, one := false, single := none, counted := true }
noncomputable def vectorMem : List ((Hdr → MForm → Instr) × ReqOp × Space × Bool) :=
  [(.vLd, .load, .global, true), (.vSt, .store, .global, true), (.vLdg, .load, .global, false),
    (.vStg, .store, .global, false), (.vLds, .load, .scratch, true), (.vSts, .store, .scratch, true),
    (.vLdsw, .load, .window, true), (.vStsw, .store, .window, true)]
/-- v.ldc: one access at a scalar address, whose value every participating lane receives (R156). -/
def constSpec (s : State) (g e : Nat) (h : Hdr) (f : MForm) : MemSpec :=
  { op := .load, space := .global, size := szBytes f.size, order := f.order, scope := f.scope, pol := f.policy,
    lanes := [{ lane := lowLane (s.guardMask (.frag g e) h), off := 0,
                addr := exactAddr (readScl s (.frag g e) f.a true).toNat 0 f.off, data := [], cmp := [] }],
    dst := some (.vec, f.d.idx.toNat), regs := szRegs f.size, part := s.guardMask (.frag g e) h, one := true,
    single := some (s.guardMask (.frag g e) h), counted := true }
/-- v.sld: the bytes of a lane's chunk that lie within the remaining length (R124). -/
def stringSpec (s : State) (g e : Nat) (h : Hdr) (f : MForm) : MemSpec :=
  { op := .load, space := subSpace f.sub, size := 1, order := f.order, scope := f.scope, pol := f.policy,
    lanes := (lanesOf (s.guardMask (.frag g e) h)).flatMap fun l =>
      (List.range (min (lo32 (src s g e [⟨f.b, false, false⟩] 0#6 0 l)).toNat (szBytes f.size))).map fun k =>
        { lane := l, off := k,
          addr := exactAddr (src s g e [⟨f.a, subSpace f.sub == .global, false⟩] 0#6 0 l).toNat 0 f.off + (k : Int),
          data := [], cmp := [] },
    dst := some (.vec, f.d.idx.toNat), regs := szRegs f.size, part := s.guardMask (.frag g e) h, one := false,
    single := none, counted := true, noted := false }
/-- s.ld and s.st: one access for the agent (R70). -/
def scalarSpec (s : State) (a : Agent) (f : MForm) (op : ReqOp) : MemSpec :=
  { op := op, space := subSpace f.sub, size := szBytes f.size, order := f.order, scope := f.scope, pol := f.policy,
    lanes := [{ lane := 0, off := 0, addr := exactAddr (readScl s a f.a (subSpace f.sub == .global)).toNat 0 f.off,
                data := (if f.size = .d then Memory.leBytes 8 (s.sread64 a f.d.idx.toNat).toNat
                  else Memory.leBytes 4 (s.sread a f.d.idx.toNat).toNat).take (szBytes f.size), cmp := [] }],
    dst := if op = .load then some (.scl, f.d.idx.toNat) else none, regs := szRegs f.size, part := 1#64, one := true,
    single := some (s.maskOfAgent a), counted := true }
/-- An atomic or reduction of class 0x9: operand in D's registers, compare value in B for a.cas (R159, R160). -/
def atomSpec (s : State) (g e : Nat) (h : Hdr) (f : MForm) (op : Nat) (ret : Bool) : MemSpec :=
  { op := .atom op (Machine.atomTy f) ret, space := atomSpace f.sub, size := szBytes f.size, order := f.order, scope := f.scope,
    pol := f.policy,
    lanes := (lanesOf (s.guardMask (.frag g e) h)).map fun l =>
      { lane := l, off := 0, addr := exactAddr (src s g e [⟨f.a, atomSpace f.sub == .global, false⟩] 0#6 0 l).toNat 0 f.off,
        data := (laneBytes s g f.d.idx.toNat (szRegs f.size) l).take (szBytes f.size),
        cmp := (Memory.leBytes 8 (if op = 8 then src s g e [⟨f.b, szBytes f.size == 8, false⟩] 0#6 0 l else 0#64).toNat).take
          (szBytes f.size) },
    dst := if ret then some (.vec, f.d.idx.toNat) else none, regs := szRegs f.size, part := s.guardMask (.frag g e) h,
    one := false, single := none, counted := true, place := f.sub.toNat }
/-- The sources of an atomic whose last-read bits act. -/
def atomSrcs (h : Hdr) (f : MForm) (op : Nat) : List Opnd :=
  ⟨f.a, atomSpace f.sub == .global, h.lra⟩ :: (if op = 8 then [⟨f.b, szBytes f.size == 8, h.lrb⟩] else [])
noncomputable def atomics : List ((Hdr → MForm → Instr) × Nat × Bool) :=
  [(.aAdd, 1, true), (.aMin, 2, true), (.aMax, 3, true), (.aAnd, 4, true), (.aOr, 5, true), (.aXor, 6, true),
    (.aXchg, 7, true), (.aCas, 8, true), (.aInc, 9, true), (.aFadd, 10, true), (.aFmin, 11, true), (.aFmax, 12, true),
    (.redAdd, 13, false), (.redFadd, 14, false)]

/-! Addresses (R149-R151, R358-R367). -/
/-- The state but for what a translation touches at the homes of entries and of the frame table: their bytes and lines, the
times and watches of their grains, the holders of their lines, and what the past of an entry's word is kept in. -/
def besidesHomes (s : State) : State :=
  { s with free := 0, mem := [], published := [], grains := [], mts := [], lines := [], poisoned := [], watches := [],
           ptes := [], xhist := [], kvHist := [], dir := [], out := [], contended := [], trafficUse := [] }
/-- A walk down the tables through the entries at their homes ends at an entry with a property (R359). -/
def Walks (s : State) (va : Nat) (P : Nat → Nat → W64 → Prop) : List Nat → Nat → Prop
  | [], _ => False
  | l :: rest, table =>
    let pa := table + 8 * levelIndex l va
    match pteKind l (s.pteAt pa) with
    | .pointer base => Walks s va P rest base
    | _ => P l pa (s.pteAt pa)
/-- The walk of an address from the address-space table (R358), whose entry is valid. -/
def WalksFromRoot (s : State) (asid va : Nat) (P : Nat → Nat → W64 → Prop) : Prop :=
  let v := s.pteAt (pteBase (s.ctlReg 0x030) + 8 * State.tableSpace asid va)
  State.tableSpace asid va < 2 ^ min 16 ((s.ctlReg 0x030).toNat % 32) ∧ v.toNat % 4096 = 1 ∧ v.toNat < 2 ^ 52 ∧
    Walks s va P [5, 4, 3, 2, 1] (pteBase v)
/-- An address that exists at a privilege (R358). -/
def Canonical (sup : Bool) (va : W64) : Prop := va.toNat / 2 ^ 56 = 0 ∨ (va.toNat / 2 ^ 56 = 255 ∧ sup = true)

/-! Homes (R160, R161, R296, R297). -/
/-- One request outstanding, with one unit in HBM that no other agent holds and no lease, tree or watch concerns. -/
def OneUnit (s : State) (id : Nat) (r : Req) (p : LaneReq) (pa : Nat) : Prop :=
  s.reqs = [(id, r)] ∧ r.lanes = [p] ∧ p.got = none ∧ p.sent = false ∧ (∃ gr pol, p.loc = .mem pa gr pol) ∧
    regionOf pa = .hbm ∧ 0 < p.size ∧ s.dirConflict r.who r.op.writes pa p.size = false ∧ s.heldTrees = [] ∧
    s.homeQ = [] ∧ s.swatches = [] ∧ s.leaseHolder (pa / 128) = none ∧
    ∀ cls port, s.mayInject cls port p.size = true
/-- Memory with a run of bytes written. -/
def Wrote (s t : State) (pa : Nat) (bs : List Byte) : Prop :=
  ∀ x, t.mem.read x = if pa ≤ x ∧ x < pa + bs.length then bs.getD (x - pa) 0#8 else s.mem.read x
/-- What a request's unit was answered with. -/
def answered (s : State) (id : Nat) : Option (List (Option (List Byte))) := (s.reqs.get? id).map fun r => r.lanes.map (·.got)
/-- new := f(old, d, b) of R160 for a 32-bit or 64-bit integer of the type's signedness. -/
def atomInt {w : Nat} (op : Nat) (sg : Bool) (old d b : BitVec w) : BitVec w :=
  match op with
  | 1 | 13 => old + d
  | 2 => least sg old d
  | 3 => greatest sg old d
  | 4 => old &&& d
  | 5 => old ||| d
  | 6 => old ^^^ d
  | 7 => d
  | 8 => if old = b then d else old
  | _ => if d ≤ old then 0 else old + 1

/-! Class 0x9 and class 0xA beside accesses (R163-R175). -/
/-- The address of an instruction that acts once, through a mapping-free translation, lies in memory (R166, R167). -/
def AtMemory (s s1 : State) (a : Agent) (f : MForm) (n pa grain : Nat) (pol : Policy) : Prop :=
  s.checkGlobal a (onceAddr s a f) n .read f.policy = (s1, .ok (.mem pa grain pol))
/-- A core's logical time. -/
def coreTime (s : State) (c : Nat) : Nat := (s.core c).ct
/-- The sum of R163 in one of its two types, rounded to nearest. -/
def detSum (f64 : Bool) (x y : W64) : W64 :=
  BitVec.ofNat 64 (opAdd (Ty.ff (if f64 then .f64 else .f32)) {} x.toNat y.toNat).1
/-- A NaN of R163's types becomes the canonical one (R160). -/
def canonical (f64 : Bool) (x : W64) : W64 :=
  let F := Ty.ff (if f64 then .f64 else .f32)
  if (decVal F false x.toNat).isNan then BitVec.ofNat 64 F.canon else x
/-- Bytes of one of R163's types. -/
def detBytes (f64 : Bool) : Nat := if f64 then 8 else 4
/-- The lanes' sum in ascending order. -/
def laneSum (f64 : Bool) : List LaneReq → W64
  | [] => 0#64
  | p :: ps => ps.foldl (fun v q => detSum f64 v (BitVec.ofNat 64 (natOfBytes q.data))) (BitVec.ofNat 64 (natOfBytes p.data))
/-- What red.det asks of the address phase. -/
def detSpec (s : State) (g e : Nat) (h : Hdr) (f : MForm) : MemSpec :=
  { op := .atom 0x0E (Machine.atomTy f) false, space := .global, size := szBytes f.size, order := f.order, scope := f.scope, pol := f.policy,
    lanes := (lanesOf (s.guardMask (.frag g e) h)).map fun l =>
      { lane := l, off := 0, addr := exactAddr (src s g e [⟨f.a, true, false⟩] 0#6 0 l).toNat 0 f.off,
        data := (laneBytes s g f.d.idx.toNat (szRegs f.size) l).take (szBytes f.size), cmp := [] },
    dst := none, regs := szRegs f.size, part := s.guardMask (.frag g e) h, one := false, single := none, counted := true }
/-- Bank k of a core. -/
def bankOf (s : State) (c k : Nat) : Bank := (s.core c).bank k
/-- The task's mappings replaced. -/
def withMaps (s : State) (t : Nat) (ms : List SMap) : State := s.modTask t fun T => { T with maps := ms }

/-! Engine commands (R180-R202, R208-R221). -/
/-- An engine command completes its issue: it awaits acceptance with the operands read now, EC rises by 1, and the agent
goes on with its registers and memory as they were; with 31 commands not accepted it is held (R141, R180). -/
def CmdIssues (s : State) (a : Agent) (h : Hdr) (i : Instr) (dst : List (Nat × Bool)) (cmd : EngCmd) (drawn : Bool) : Prop :=
  Acts s a h → s.acquirePending a = none →
    (s.ecOf a < 31 → ∃ t, exec i s = .next t ∧
      t.pends.get? s.nextId = some { agent := a, fmask := s.maskOfAgent a, after := s.releasesOf a, cmd := cmd, dst := dst } ∧
      (∀ id, id ≠ s.nextId → (t.pends.get? id).map pendCore = (s.pends.get? id).map pendCore) ∧ t.reqs = s.reqs ∧ MemSame s t ∧
      Leaves s t a [] [] [] (fun G => { G with ec := G.ec + 1, ctr := if drawn then G.ctr + 1#32 else G.ctr })
        (fun c => { c with ec := c.ec + 1, ctr := if drawn then c.ctr + 1#32 else c.ctr }) ∧ Advances s t a) ∧
    (31 ≤ s.ecOf a → ∃ t, exec i s = .next t ∧ t.stOf a = .held ∧ t.pcOf a = s.pcOf a ∧ OnlyRegs s t a [] [] [])
/-- The pair that receives a completion value. -/
def valueRegs (d : Dst) : List (Nat × Bool) := [(d.idx.toNat, false), (d.idx.toNat + 1, true)]
/-- The team's scratch in bytes. -/
def scratchOf (s : State) (a : Agent) : Nat := ((s.taskOf a).map (·.scratch)).getD 0
/-- The scratch sides of a copy lie in the team's scratch (R181). -/
def Within (s : State) (a : Agent) (f : EForm) (dst src : W64) (n : Nat) : Prop :=
  (f.flags.getLsbD 0 = true → dst.toNat + n ≤ scratchOf s a) ∧ (f.flags.getLsbD 1 = true → src.toNat + n ≤ scratchOf s a)
/-- A copy command as the flags of its instruction give it (R181). -/
def copyOf (s : State) (a : Agent) (f : EForm) (kind : CopyKind) (dst src : W64) (len : Nat) (bad : Option Nat) : EngCmd :=
  .copy f.chan.toNat (CopyCmd.fresh kind dst src len (f.flags.toNat / 4 % 4) (f.flags.getLsbD 4) (f.flags.getLsbD 5)
    (f.flags.getLsbD 6) (s.pcOf a) bad)
/-- A gather's or scatter's element count, size exponent and status (R182). -/
def listBad (d : Nat) : Option Nat := if d / 256 = 0 ∨ 12 < d % 16 ∨ d / 16 % 16 ≠ 0 then some 0x34 else none
def listBytes (d : Nat) : Nat := if listBad d = none then d / 256 * 2 ^ (d % 16) else 0
/-- The operands of m.tr are outside R196: rows, columns and pitches of elements of e bytes. -/
def TransposeBad (e rows cols sp dp : Nat) : Prop :=
  rows = 0 ∨ 4096 < rows ∨ cols = 0 ∨ 4096 < cols ∨ sp < cols * e ∨ dp < rows * e ∨ sp % e ≠ 0 ∨ dp % e ≠ 0
/-- The KV commands and their operation codes (R201). -/
noncomputable def kvCommands : List ((Hdr → EForm → Instr) × Nat) :=
  [(.kvMatch, 6), (.kvInsert, 7), (.kvFork, 8), (.kvRef, 9), (.kvUnref, 10), (.kvAppend, 11), (.kvQry, 13)]
/-- A matrix command at its issue. -/
def matOf (s : State) (a : Agent) (kind : MatKind) : EngCmd :=
  .matrix { value := 0, kind := kind, pc := s.pcOf a, started := false, reads := [], dests := [], vaWrites := [] }
/-- Four scalar registers from B on (R210). -/
def fourRegs (s : State) (a : Agent) (x : Src) : List W32 := (List.range 4).map fun k => s.sread a (x.idx.toNat + k)
/-- The rounding that k.drain names (R218). -/
def drainRound (n : Nat) : Rnd :=
  match n with
  | 1 => .rtz
  | 2 => .rup
  | 3 => .rdn
  | 4 => .rna
  | 5 => .stoch
  | _ => .rne
/-- k.lda's arguments are outside R216: SHAPE's bytes and rows, and the alignment of source and pitch to 32 bytes. -/
def loadBad (src : W64) (pitch shape : Nat) : Bool :=
  src.toNat % 32 != 0 || pitch % 32 != 0 || shape % 2 ^ 10 % 32 != 0 || shape % 2 ^ 10 < 32 || 512 < shape % 2 ^ 10 ||
    shape / 2 ^ 16 % 2 ^ 8 == 0 || 128 < shape / 2 ^ 16 % 2 ^ 8 || shape / 2 ^ 10 % 2 ^ 6 != 0 || shape / 2 ^ 24 != 0

/-- What an instruction that acts on the machine beside its registers leaves as it was: memory, the registers and
predicates of its agent but for those named, and control registers. -/
def Keeps (s t : State) (a : Agent) (scalars preds : List Nat) : Prop :=
  MemSame s t ∧ (∀ i, i ∉ scalars → t.sget a i = s.sget a i) ∧ (∀ p, p ∉ preds → t.predOf a p = s.predOf a p) ∧ t.ctl = s.ctl ∧
    ∀ g e G, a = .frag g e → s.grps.get? g = some G → ∀ v, v ∉ G.lastRead → ∀ l < 64, laneOf t g v l = laneOf s g v l
/-- A predicate of the agent after a truth value was written to its lanes (R69, R191). -/
def TruthIn (s t : State) (a : Agent) (p : Nat) (b : Bool) : Prop :=
  p < 15 → t.predOf a p = (s.predOf a p &&& ~~~ownLanes s a) ||| (if b then ownLanes s a else 0#64)
/-- A class 11 access of a vector group: it enters the machine and counts in TR (R222). -/
def AccIssues (s : State) (g e : Nat) (h : Hdr) (i : Instr) (op : ReqOp) (d : Option Nat) (released : List Nat)
    (key : Nat → Nat) (data : Nat → W32) : Prop :=
  s.trOf (.frag g e) < 15 → ∃ t r, exec i s = .next t ∧ t.reqs.get? s.nextId = some r ∧ r.agent = .frag g e ∧ r.op = op ∧
    r.dst = d.map (fun v => (.vec, v)) ∧ r.part = s.guardMask (.frag g e) h ∧
    r.lanes.map (fun p => (p.lane, p.off, p.data)) = (lanesOf (s.guardMask (.frag g e) h)).map (fun l =>
      (l, key l, Memory.leBytes 4 (data l).toNat)) ∧ MemSame s t ∧
    Leaves s t (.frag g e) [] [] (released ++ d.toList) (fun G => { G with tr := G.tr + 1 }) id ∧ Advances s t (.frag g e)

/-- The command number before which checksum commands were issued that ch.sum.set and ch.sum.exp wait for (R195). -/
def sumsBefore (s : State) (a : Agent) : Nat := match s.stOf a with | .waiting (.sums _ b) => b | _ => s.nextId

/-! Control registers (R229). -/
/-- Numbers that name a register. -/
def assigned (n : Nat) : Bool :=
  [0x000, 0x001, 0x008, 0x009, 0x00A, 0x010, 0x018, 0x019, 0x01A, 0x01B, 0x020, 0x021, 0x024, 0x025, 0x030, 0x038, 0x040, 0x048,
    0x050, 0x060].contains n || (0x400 ≤ n && n < 0x800)
/-- Registers of group or core extent, which a Keystone context does not have. -/
def ofGroup (n : Nat) : Bool := [0x000, 0x001, 0x008, 0x009, 0x050].contains n
/-- Registers that user code may read, and those that it may write. -/
def userReads (n : Nat) : Bool := [0x000, 0x001, 0x010, 0x018, 0x019, 0x01A, 0x01B, 0x060].contains n
def userWrites (n : Nat) : Bool := [0x000, 0x001].contains n
/-- Registers that nobody may write. -/
def readOnly (n : Nat) : Bool := [0x050, 0x060].contains n
/-- Registers of 64 bits. -/
def wideReg (n : Nat) : Bool :=
  [0x008, 0x00A, 0x018, 0x019, 0x01A, 0x01B, 0x020, 0x021, 0x024, 0x025, 0x030, 0x038].contains n || (0x400 ≤ n && n < 0x800)
/-- Registers of the whole package other than contracts, with the bits that a write sets. -/
def packageRegs : List (Nat × W64) :=
  [(0x00A, 0xFFFFFFFFFFFFFFF0#64), (0x010, 0xFFFFFF#64), (0x018, BitVec.allOnes 64), (0x019, BitVec.allOnes 64),
    (0x01A, BitVec.allOnes 64), (0x01B, BitVec.allOnes 64), (0x030, 0x000FFFFFFFFFF01F#64), (0x038, 0x000FFFFFFFE0FF01#64),
    (0x040, 0xFFFFFFFF#64), (0x048, 0xFFFFF#64)]
/-- Registers of a die: bits that a write sets, and bits that a write of 1 clears. -/
def dieRegs : List (Nat × W64 × W64) :=
  [(0x020, 0x000FFFFFFFFFF81F#64, 0x400#64), (0x024, 0x000FFFFFFFFFF81F#64, 0x400#64),
    (0x021, 0xFFFFFFFF00000000#64, 0#64), (0x025, 0xFFFFFFFF00000000#64, 0#64)]
/-- A register after a write (R11). -/
def merged {w : Nat} (old v rw w1c : BitVec w) : BitVec w := ((old &&& ~~~rw) ||| (v &&& rw)) &&& ~~~(v &&& w1c)
/-- Access at the agent's privilege. -/
def MayRead (s : State) (a : Agent) (n : Nat) : Prop :=
  assigned n = true ∧ (onKeystone a = true → ofGroup n = false) ∧ (s.supOf a = false → userReads n = true)
def MayWrite (s : State) (a : Agent) (n : Nat) : Prop :=
  MayRead s a n ∧ readOnly n = false ∧ (s.supOf a = false → userWrites n = true)

/-! Class 0xE (R235-R243). -/
/-- A queue entry that an acknowledgement may name (R239): written, among the last that the ring holds. -/
def Written (s : State) (A : W32) (b : Nat) (e : Entry) : Prop :=
  let reg := if A.getLsbD 2 then 0x024 else 0x020
  let behind := (s.ringTail (A.toNat % 4) reg + 2 ^ 32 - b) % 2 ^ 32
  0 < behind ∧ behind ≤ 2 ^ s.ringLog (A.toNat % 4) reg ∧ s.ringEntry (A.toNat % 4) (A.getLsbD 2) b = some e
/-- A first record whose set still awaits its acknowledgement. -/
def Pending (s : State) (A : W32) (b : Nat) (e : Entry) : Prop := Written s A b e ∧ e.first = true ∧ e.acked = false ∧ e.withdrawn = false
noncomputable def acks : List ((Hdr → NForm → Instr) × Nat) :=
  [(.sysFqackRetry, 0), (.sysFqackSkip, 1), (.sysFqackKill, 2), (.sysFqackResume, 3), (.sysFqackFail, 4)]
/-- sys.sig's update of a semaphore (R238). -/
def signalSpec (s : State) (a : Agent) (f : NForm) : MemSpec :=
  { op := .atom ([0x07, 0x01, 0x03].getD (f.op.toNat % 4) 0x03) .n64 false, space := .global, size := 8, order := .rel,
    scope := scopeOf (f.op.toNat / 4), pol := .dflt,
    lanes := [{ lane := 0, off := 0, addr := ((readScl s a f.a true).toNat : Int),
                data := Memory.leBytes 8 (readScl s a f.b true).toNat, cmp := [] }],
    dst := none, regs := 2, part := 1#64, one := true, single := some (s.maskOfAgent a), counted := true, noted := false }
/-- A lost unit of an address homed here, with nothing that filters its bytes (R241). -/
def LostUnit (s : State) (pa base n : Nat) : Prop :=
  s.homedHere pa = true ∧ s.lostAt pa 1 = true ∧ s.lostUnit pa = (base, n) ∧ s.heldTrees = [] ∧ s.swatches = [] ∧ s.mem.wf = true
/-- A core watch that sys.watch arms with word D (R242). -/
def armed (va : W64) (asid d : Nat) : CWatch where
  va := va
  asid := asid
  len := 2 ^ (d / 256 % 32)
  w := d / 8 % 2 == 1
  r := d / 4 % 2 == 1

/-! Steps of the device outside instructions. -/
/-- A pending command can be accepted (R155, R180, R356). -/
def Acceptable (s : State) (id : Nat) (p : PendCmd) (k : Nat) : Prop :=
  s.pends.get? id = some p ∧ s.pends.wf = true ∧ s.acceptBlocked id p = false ∧ s.roomFor p = true ∧
    s.taskIdOf p.agent = some k ∧ s.enginesRun k = true
/-- The chunk at the head of a Mortar unit's queue (R338), which waits for no ordered command. -/
def AtHead (s : State) (slice : Nat) (r : ChunkRef) (c : CopyCmd) : Prop :=
  s.headChunk slice = some (r, c) ∧ s.mortar.wf = true ∧ s.ordWaits r.chan c = false ∧ c.bad = none ∧
    ∀ n, s.mayInject 1 slice n = true
/-- Memory that nothing beside the homes filters or watches, and slices with room for the lines of an access. -/
def Plain (s : State) : Prop :=
  s.heldTrees = [] ∧ s.swatches = [] ∧ s.mem.wf = true ∧ ∀ sl, (s.linesAt sl).length + 128 ≤ sliceLines
/-- The virtual address of a chunk's bytes from a command's address, and their number (R183). -/
def chunkAt (x : W64) (r : ChunkRef) : W64 := x + BitVec.ofNat 64 (4096 * r.idx)
def chunkLen (c : CopyCmd) (r : ChunkRef) : Nat := min 4096 (c.streamLen - 4096 * r.idx)
/-- A Mortar unit may write the place, and read it. -/
def Free (s : State) (slice : Nat) (write : Bool) (p : PRun) : Prop :=
  regionOf p.pa = .hbm ∧ s.dirConflict (idMortar slice) write p.pa p.n = false ∧
    s.homeError p.pa p.n (if write then .write else .read) = none
/-- The tree and sequence that a handle names, open to a command (R201, R376). -/
def LiveSeq (s : State) (c : KvCmd) (asid : Nat) (sup : Bool) (hd : Nat) : Prop :=
  s.treeOpen c (hd / 2 ^ 24) asid sup = true ∧ s.seqLive (s.treeOf (hd / 2 ^ 24)) (hd % 2 ^ 24) = true
/-- The next command of a task's KV context, with its block at one place that it reads and writes (R201). -/
def KvNext (s : State) (k : Nat) (T : Task) (c : KvCmd) (asid : Nat) (sup : Bool) (b : PRun) (s2 : State) : Prop :=
  s.tasks.get? k = some T ∧ (∃ q, T.kvq = c :: q) ∧ T.kvStopped = false ∧ s.enginesRun k = true ∧
    sup = ((s.launchOf T).map (·.sup)).getD false ∧ asid = ((s.launchOf T).map fun l => if l.sup then 0 else l.asid).getD 0 ∧
    (∃ s1, s.xlatRange asid sup c.block 64 .read = (s1, .ok [b]) ∧ s1.mem = s.mem ∧ s1.xlatRange asid sup c.block 64 .write = (s2, .ok [b]) ∧
      s1.homeOf b.pa = s.homeOf b.pa ∧ s1.runCauses [b] = [] ∧ s1.dirConflict (idOrris (s.homeOf b.pa)) false b.pa 64 = false) ∧
    b.n = 64 ∧ regionOf b.pa = .hbm ∧ s2.mem.wf = true ∧ s2.mem = s.mem ∧
    s2.dirConflict (idOrris (s.homeOf b.pa)) true b.pa 64 = false ∧ s2.homeError b.pa 64 .write = none ∧
    s2.treeHeld' (idOrris (s.homeOf b.pa)) c (s.mem.readBytes b.pa 64) = [] ∧ s2.mayInject 1 (s.homeOf b.pa) 64 = true ∧
    ∀ i < 64, s2.inTreeArea s2.heldTrees (b.pa + i) = false
/-- An output block: status, handle, value, address, kind and zeros (R201). -/
def kvBlock (status value : Nat) : List Byte :=
  Memory.leBytes 4 status ++ Memory.leBytes 4 0 ++ Memory.leBytes 4 value ++ List.replicate 32 0#8

/-! Selection, parking, queues and dispatch. -/
/-- A slot's candidates (R276): group, entry, admission order, since when, and a yield request. -/
abbrev Cand := Nat × Nat × Nat × Nat × Bool
def candOf (c : Cand) : Nat × Nat := (c.1, c.2.1)
/-- Only slot A of a partition can be given, and no wait is over. -/
def SlotAOnly (s : State) (core part : Nat) : Prop :=
  s.waitsOver core part = [] ∧ s.slotFree core part false = true ∧ s.slotFree core part true = false
/-- The selection gives a slot to one fragment and changes no register and no memory. -/
def Selects (s : State) (core part : Nat) (p : Nat × Nat) : Prop :=
  ∃ t, exec (.partitionIssueSelection core part) s = .next t ∧ t.issue = s.issue ++ [.frag p.1 p.2] ∧
    (t.core core).last.get? (part * 2) = some p ∧ MemSame s t ∧ ∀ a, t.pcOf a = s.pcOf a ∧ ∀ i, t.sget a i = s.sget a i
/-- A queue's entry that its processor may take up (R252, R253). -/
def QueueNext (s : State) (die q : Nat) (H : QHead) (e : List Byte) : Prop :=
  s.queueHead die q = some H ∧ H.en = true ∧ H.bad = false ∧ H.count ≠ 0 ∧ s.dirConflict (idQueue die) true H.at' 128 = false ∧
    s.dirConflict (idQueue die) false (H.slot H.head) 128 = false ∧ (s.queueSt die q).busy = none ∧
    (s.queueSt die q).watching = false ∧ e = s.mem.readBytes (H.slot H.head) 128
/-- The state after a processor has read an entry with an acquire (R253, R290). -/
def afterEntry (s : State) (die q : Nat) (H : QHead) : State :=
  let r := s.homeRead (H.slot H.head) 128 (s.ftGrain (H.slot H.head)) none .dflt (idQueue die)
  r.1.modQueue die q fun x => { x with ct := max x.ct r.2.2.1 }
/-- HEAD moves past the entry. -/
def Consumed (t : State) (H : QHead) : Prop := t.mem.readNat (H.at' + 0x10) 8 = (H.head + 1) % 2 ^ 64
/-- The place of a semaphore that the processor may access (R254). -/
def SemAt (s s1 : State) (die asid : Nat) (va : W64) (acc : Acc) (write : Bool) (x : Xlat) : Prop :=
  s.translate asid true va acc = (s1, .ok x) ∧ s1.dirConflict (idQueue die) write x.pa 8 = false ∧ regionOf x.pa = .hbm ∧
    s1.homeError x.pa 8 (if write then (if acc = .write then .write else .atomic) else .read) = none
/-- Two runs of bytes do not meet. -/
def Apart (a n b m : Nat) : Prop := a + n ≤ b ∨ b + m ≤ a
/-- A dispatcher's first offer, and the core that takes it (R259, R260). -/
def Admits (s : State) (quad n : Nat) (T : Task) (L : Launch) (c : Nat) (r : State.Room) : Prop :=
  s.admittingCore quad T L = some c ∧ s.roomOn c L = some r ∧ s.tasks.get? n = some T
/-- The task is resident on the core with its groups at the entry (R260, R261). -/
def Started (t : State) (n c : Nat) (L : Launch) (r : State.Room) : Prop :=
  (∃ T, t.tasks.get? n = some T ∧ T.st = .resident ∧ T.core = c ∧ T.live = List.range L.gpt ∧ T.banks = r.banks ∧ T.scratch = L.scr) ∧
    ∀ k < L.gpt, ∃ G F, t.grps.get? (n * 16 + k) = some G ∧ G.frags = [(0, F)] ∧ F.mask = BitVec.allOnes 64 ∧ F.pc = L.entry ∧
      F.sup = L.sup ∧ G.sget 0 = lo32 L.arg ∧ G.sget 1 = hi32 L.arg ∧ G.reg = []
/-- Groups counted by a review take no more than the limit (R270, R271). -/
def leaseSum (s : State) (gs : List (Nat × Group)) : Nat := gs.foldl (fun n p => n + s.countedLease p.1 p.2) 0
def capOf (s : State) (c : Nat) : Nat := ((List.range 32).filter fun k => (Claim.bankOf s c k).role == .cache).length * 16384
/-- A review is due, F does not move, and no group has waited 65,536 clocks. -/
def ReviewDue (s : State) (c : Nat) : Prop :=
  (s.core c).review + 8192 ≤ s.clk ∧ s.gateAuto = false ∧ (s.core c).f ≤ 16 ∧
    ∀ p ∈ s.reviewOrder c, p.2.st = .inactive → s.clk < p.2.inactiveSince + 65536

/-! Pre-emption, the package and the fabric. -/
/-- A PREQ write with its mode, while no earlier request of the die proceeds (R355). -/
def PreqFree (s : State) (die : Nat) (v : W64) (mode : Nat) : Prop :=
  v.toNat / 2 ^ 8 % 4 = mode ∧ s.preqBusy die = false ∧ s.tasks.wf = true
/-- The mask timer of a task that a request reaches (R237). -/
def TimerStarts (s t : State) (n : Nat) (T : Task) : Prop :=
  ((s.launchOf T).map (·.pcls)) = some 2 → T.mc ≠ 0 → T.budget = none →
    (t.tasks.get? n).map (·.budget) = some (some (s.clk + (s.ctlReg 0x010).toNat % 2 ^ 24 * 3300))
/-- What a restartable task with no engine command waits for is over, and its banks are free to leave it (R318, R356). -/
def RestartReady (s : State) (n : Nat) (T : Task) : Prop :=
  s.tasks.get? n = some T ∧ s.tasks.wf = true ∧ s.proceeding n = true ∧ ((s.launchOf T).map (·.pcls)) = some 0 ∧ T.chs = [] ∧
    T.kvq = [] ∧ T.ks = none ∧ T.share = none ∧ s.pends = [] ∧ s.reqs = [] ∧ s.banksBusy n = false
/-- A saved task whose place and frames are ready (R342, R354). -/
def ReturnReady (s : State) (n : Nat) (T : Task) (L : Launch) (image k : Nat) (parts : List Nat) : Prop :=
  s.tasks.get? n = some T ∧ T.st = .saved ∧ T.hold = none ∧ s.preqHold n = none ∧ s.launchOf T = some L ∧ s.savedImage n = some (image, k) ∧
    (s.core T.core).removed = false ∧ (s.core T.core).isolated = false ∧ T.slot ∈ s.freeSlots T.core ∧
    k ≤ (s.freeBanks T.core).length ∧ T.ksFrame = none ∧ State.placeSaved (s.savedNeeds n L) (s.partRoom T.core) = some parts ∧
    s.frameGood 2 n = true ∧ s.frameGood 3 n = true ∧ T.live.Nodup ∧ (∀ i ∈ T.live, i < 16) ∧
    ∀ g ∈ s.liveGroups n, ∃ G p, s.grps.get? g = some G ∧ G.stc = 0 ∧ G.offAcks = 0 ∧ G.park = some p ∧ p.unacked = 0 ∧
      s.frameGood 1 g = true ∧ G.pending = none
/-- Contract error codes stand in word 2 (R328, R332). -/
def contractErr (s : State) (i : Nat) : Nat := (s.contractWord i 2).toNat / 2 ^ 28 % 16
/-- Word 6 of a tree: ASID, ERR, BUSY and EN (R375, R376). -/
def treeCtl (asid err : Nat) (busy en : Bool) : W64 := BitVec.ofNat 64 (asid * 2 ^ 32 + err * 16 + busy.toNat * 2 + en.toNat)
/-- A tree's address space as its descriptor has it, and its last error. -/
def treeAsid (s : State) (n : Nat) : Nat := (s.treeWord n 6).toNat / 2 ^ 32 % 2 ^ 16
def treeLast (s : State) (n : Nat) : Nat := (s.treeWord n 6).toNat / 16 % 16
/-- A bring-up in which every step succeeds (R423). -/
def AllGood (s : State) (r : BringUpReport) : Prop :=
  r.railsOk = true ∧ r.ecdsaOk = true ∧ r.lmsOk = true ∧ s.firmware.fused ≤ r.securityVersion ∧ r.trainOk = true ∧ r.retiredSlices = [] ∧
    r.isolatedCores = [] ∧ r.failedLinks = []
/-- An outside agent may touch n bytes of HBM, which nothing filters. -/
def OutsideFree (s : State) (who : W32) (write : Bool) (pa n : Nat) : Prop :=
  regionOf pa = .hbm ∧ 0 < n ∧ s.dirConflict who write pa n = false ∧ s.homeQ = [] ∧ Claim.Plain s ∧
    s.homeError pa n (if write then .write else .read) = none
/-- A store of one unit to a remote place, sent and unanswered. -/
def SentStore (s : State) (id : Nat) (r : Req) (p : LaneReq) (pa g e : Nat) (G : Group) : Prop :=
  s.reqs.get? id = some r ∧ r.op = .store ∧ r.agent = .frag g e ∧ r.lanes = [p] ∧ p.sent = true ∧ p.got = none ∧
    (∃ gr pol, p.loc = .mem pa gr pol) ∧ s.grps.get? g = some G ∧ G.st ≠ .exited ∧ s.mem.wf = true
/-- SPDM requests that leave the port as it is, with the fields of their answers (R421). -/
def spdmPlain (s : State) (p : Nat) (P : Port) : List (Instr × Nat × List Nat) :=
  [(.getDigests p, 4, [s.chainDigest]), (.getCertificate p 0, 5, s.certChain), (.heartbeat p, 10, [if P.session.isSome then 1 else 0]),
    (.unsupportedRequest p 0x7E, 12, [0x7E]), (.getCertificate p 1, 12, []), (.getMeasurements p 9 0, 12, [])]

/-! Encodings, a step, reset (01_instruction_word.md, 24_device_health_power.md). -/
/-- Operands and headers of the worked encodings. -/
def vreg (n : Nat) : Src := { cls := .vec, idx := BitVec.ofNat 8 n, perm := 0#4 }
def sreg (n : Nat) : Src := { cls := .scl, idx := BitVec.ofNat 8 n, perm := 0#4 }
def dreg (c : Cls) (n : Nat) : Dst := { cls := c, idx := BitVec.ofNat 8 n }
def head (p : Nat) : Hdr :=
  { gneg := false, gpred := BitVec.ofNat 4 p, stall := 0#3, yield := false, pair := false, lra := false, lrb := false, lrc := false }
/-- A 96-bit word from its three 32-bit words, the last stored first (R12). -/
def word (w2 w1 w0 : W32) : IWord := w2 ++ w1 ++ w0
/-- The worked encodings of the vector stream, one or more per class. -/
noncomputable def vectorWords : List (IWord × Instr) :=
  [(word 0x105E0801#32 0x80200118#32 0x00000000#32, .vAdd { head 15 with lra := true }
      { d := dreg .vec 3, a := vreg 1, b := { vreg 2 with perm := 3#4 }, c := vreg 0, ty := .s32, rnd := .rne, sat := false, aux := 0#6, op := 0#5 }),
    (word 0x70440000#32 0x00000000#32 0x30000094#32, .bra (head 2)
      { d := dreg .vec 0, a := vreg 0, tgt := 12#23, rcv := 18#23, hint := 2#2, mbz := false }),
    (word 0x70620000#32 0x00000000#32 0x3C000078#32, .bra { head 1 with gneg := true }
      { d := dreg .vec 0, a := vreg 0, tgt := 15#23, rcv := 15#23, hint := 0#2, mbz := false }),
    (word 0x805E0004#32 0x20800100#32 0x00202960#32, .vLd (head 15)
      { d := dreg .vec 8, a := sreg 4, b := vreg 2, off := 0x40#20, size := .w, scale := 2#2, order := .acq, scope := .pkg, policy := .dflt, sub := 0#3 }),
    (word 0x205E0101#32 0x00E1FFFF#32 0xFFFE0022#32, .vCmpImm (head 15)
      { d := dreg .spec 2, a := vreg 7, imm := 0xFFFFFFFF#32, ty := .s32, sat := false, aux := 0#6, op := 2#5 }),
    (word 0x409E0004#32 0x80200100#32 0x12001348#32, .vPack (head 15)
      { d := dreg .vec 9, a := vreg 1, b := vreg 2, c := vreg 9, ty := .s32, rnd := .rne, sat := true, aux := 13#6, op := 8#5 }),
    (word 0x505E0002#32 0x80808084#32 0x1E0C0001#32, .vShfl (head 15)
      { d := dreg .vec 5, a := vreg 4, b := sreg 1, c := { cls := .spec, idx := 15#8, perm := 0#4 }, ty := .b32, rnd := .rne, sat := false, aux := 0#6, op := 1#5 }),
    (word 0x73DE0000#32 0x00001E3E#32 0x7E000020#32, .waitcnt (head 15)
      { d := dreg .vec 0, a := vreg 0, imm := 0x0F1F3F00#32, ty := .s32, sat := false, aux := 0#6, op := 0#5 }),
    (word 0x921E0003#32 0x00400400#32 0x00082762#32, .aCas (head 15)
      { d := dreg .vec 6, a := vreg 2, b := vreg 8, off := 0x10#20, size := .w, scale := 1#2, order := .acqrel, scope := .pkg, policy := .dflt, sub := 2#3 }),
    (word 0x94DE0086#32 0xA0008580#32 0x00102160#32, .waitAddr (head 15)
      { d := dreg .scl 13, a := sreg 0, b := sreg 11, off := 0x20#20, size := .w, scale := 0#2, order := .acq, scope := .pkg, policy := .dflt, sub := 0#3 }),
    (word 0x905E0014#32 0x04400000#32 0x00002403#32, .aAdd (head 15)
      { d := dreg .vec 40, a := vreg 34, b := vreg 0, off := 0#20, size := .w, scale := 1#2, order := .rlx, scope := .grp, policy := .dflt, sub := 3#3 }),
    (word 0xB05E0085#32 0x20808302#32 0x10031800#32, .cp (head 15)
      { d := dreg .scl 10, a := sreg 4, b := sreg 6, c := sreg 8, chan := 3#5, flags := 0x18#8, sub := 0#8 }),
    (word 0xB0DE0085#32 0x23808D02#32 0x10003800#32, .cpX (head 15)
      { d := dreg .scl 10, a := sreg 28, b := sreg 26, c := sreg 8, chan := 0#5, flags := 0x38#8, sub := 0#8 }),
    (word 0xC30C0005#32 0x22800084#32 0x0E000000#32, .kvXlat (head 6)
      { d := dreg .vec 10, a := sreg 20, b := vreg 1, c := { cls := .spec, idx := 7#8, perm := 0#4 }, ty := .s32, rnd := .rne, sat := false, aux := 0#6, op := 0#5 }),
    (word 0xE09E0000#32 0x20C00000#32 0x00200020#32, .sysWr (head 15)
      { d := dreg .vec 0, a := sreg 6, imm := 0x10#32, ty := .s32, sat := false, aux := 0#6, op := 0#5 }),
    (word 0xE31E008F#32 0x22808B00#32 0x00000001#32, .sysDirrcCopy (head 15)
      { d := dreg .scl 30, a := sreg 20, b := sreg 22, c := vreg 0, ty := .s32, rnd := .rne, sat := false, aux := 0#6, op := 1#5 })]
/-- The worked encoding of the Keystone stream. -/
noncomputable def keystoneWords : List (IWord × Instr) :=
  [(word 0xD05E0188#32 0x60009400#32 0x00084380#32, .kMma (head 15)
      { d := dreg .eng 16, a := { cls := .eng, idx := 0#8, perm := 0#4 }, b := sreg 40, c := vreg 0, afmt := 8#5, bfmt := 8#5, kc := 1#2, hold := true, zacc := true, bkind := 0#2, sub := 0#5 })]
/-- Words that are no instruction of the vector stream at supervisor, with cause and sub-cause (R32). -/
def badWords : List (IWord × Nat × Nat) :=
  [(0#96, 1, 1), (word 0xF0000000#32 0#32 0#32, 1, 2), (word 0x10000000#32 0#32 1#32, 1, 3), (word 0x20000001#32 0#32 0#32, 1, 3),
    (word 0x0FC00000#32 0#32 0#32, 1, 4), (word 0xD05E0188#32 0x60009400#32 0x00084380#32, 1, 5),
    (word 0x705E0000#32 0x00000000#32 0x30000095#32, 2, 4), (word 0x805E0004#32 0x20800100#32 0x00202961#32, 2, 3),
    (word 0x73DE0000#32 0x00001E3E#32 0x7E000000#32, 2, 6), (word 0xB05E0085#32 0x20808302#32 0x10032000#32, 2, 3),
    (word 0xE31E008F#32 0x22808B00#32 0x00000003#32, 2, 3)]

/-- Reset values of the control registers (R230, R267, R295, R366; 0 for the others): the fields that do not reset to 0. -/
def resetControl (n : Nat) : W64 :=
  match n with
  | 0x010 => 0x0003E8#64
  | 0x038 => BitVec.ofNat 64 (0x10 * 2 ^ 8)
  | 0x040 => BitVec.ofNat 64 (0x10 * 2 ^ 24 + 0x04 * 2 ^ 16 + 2 ^ 15 + 16 * 2 ^ 10 + 8 * 2 ^ 5 + 14)
  | 0x048 => BitVec.ofNat 64 (4 * 2 ^ 16 + 0x1000)
  | _ => 0#64

end Sys2Proof.Claim

open Sys2Proof Sys2Proof.Machine

/-- Every 32-bit scalar instruction writes f(a, b, c) to D; the 64-bit ones write the pair D modulo 2^64, and s.lih register
D + 1 alone; each changes nothing else and goes on (R65, R66, R67, R77). -/
def Obligations.ScalarResults : Prop :=
  (∀ r ∈ Claim.scalarN, ∀ h f s a, Acts s a h → Claim.Regs f → ∃ t, exec (r.1 h f) s = .next t ∧
    SclDone s t a f.d.idx.toNat false
      ((r.2 (Ty.signed f.ty) (Claim.reg s a f.a) (Claim.reg s a f.b) (Claim.reg s a f.c)).setWidth 64)) ∧
  (∀ r ∈ Claim.scalarI, ∀ h f s a, Acts s a h → f.a.cls ≠ .spec → ∃ t, exec (r.1 h f) s = .next t ∧
    SclDone s t a f.d.idx.toNat false ((r.2 (Ty.signed f.ty) (Claim.reg s a f.a) f.imm).setWidth 64)) ∧
  (∀ r ∈ Claim.scalarWideN, ∀ h f s a, Acts s a h → Claim.Regs f → ∃ t, exec (r.1 h f) s = .next t ∧
    SclDone s t a f.d.idx.toNat true (r.2 (Claim.pair s a f.a) (Claim.pair s a f.b))) ∧
  (∀ r ∈ Claim.scalarWideI, ∀ h f s a, Acts s a h → f.a.cls ≠ .spec → f.ty = .s64 ∨ f.ty = .n64 →
    ∃ t, exec (r.1 h f) s = .next t ∧
      SclDone s t a f.d.idx.toNat true (r.2 (Claim.pair s a f.a) (Claim.extended f.ty f.imm))) ∧
  ∀ h f s a, Acts s a h → ∃ t, exec (.sLih h f) s = .next t ∧
    SclDone s t a (f.d.idx.toNat + 1) false (f.imm.setWidth 64)

/-- s.divs and s.divn give the quotient or the remainder of the table, and never fault (R68). -/
def Obligations.ScalarDivision : Prop :=
  ∀ r ∈ Claim.scalarDiv, ∀ h s a, Acts s a h →
    (∀ f : NForm, Claim.Regs f → ∃ t, exec (r.1 h f) s = .next t ∧ SclDone s t a f.d.idx.toNat false
      ((if f.op = 0#5 then Claim.quotient r.2.2 (Claim.reg s a f.a) (Claim.reg s a f.b)
        else Claim.remainder r.2.2 (Claim.reg s a f.a) (Claim.reg s a f.b)).setWidth 64)) ∧
    ∀ f : IForm, f.a.cls ≠ .spec → ∃ t, exec (r.2.1 h f) s = .next t ∧ SclDone s t a f.d.idx.toNat false
      ((if f.op = 0#5 then Claim.quotient r.2.2 (Claim.reg s a f.a) f.imm
        else Claim.remainder r.2.2 (Claim.reg s a f.a) f.imm).setWidth 64)

/-- s.cmp gives its condition to a scalar register or to the predicate's bits of the fragment's lanes, and s.sel selects;
other types, destinations and sources are illegal operands (R69, R81). -/
def Obligations.ScalarCompareSelect : Prop :=
  (∀ h f s a, Acts s a h → Claim.Regs f → ∃ t, exec (.sCmp h f) s = .next t ∧
    Claim.TruthDone s t a f.d (Claim.holds (Ty.signed f.ty) f.op.toNat (Claim.reg s a f.a) (Claim.reg s a f.b))) ∧
  (∀ h f s a, Acts s a h → f.a.cls ≠ .spec → ∃ t, exec (.sCmpImm h f) s = .next t ∧
    Claim.TruthDone s t a f.d (Claim.holds (Ty.signed f.ty) f.op.toNat (Claim.reg s a f.a) f.imm)) ∧
  (∀ h f s a, Acts s a h → Claim.Regs f → ∃ t, exec (.sSel h f) s = .next t ∧
    SclDone s t a f.d.idx.toNat false
      ((if Claim.reg s a f.c ≠ 0#32 then Claim.reg s a f.a else Claim.reg s a f.b).setWidth 64)) ∧
  (∀ h (f : NForm) st, (f.ty ≠ .s32 → f.ty ≠ .n32 → 3 ∈ (Instr.sCmp h f).check st) ∧
    (f.d.cls = .vec ∨ f.d.cls = .eng → 1 ∈ (Instr.sCmp h f).check st) ∧
    ((∃ x ∈ [f.a, f.b, f.c], x.cls ≠ .scl) → 1 ∈ (Instr.sSel h f).check st)) ∧
  ∀ h (f : IForm) st, f.ty ≠ .s32 → f.ty ≠ .n32 → 3 ∈ (Instr.sCmpImm h f).check st

/-- s.rdsr gives the value of a special: predicates and the clock as pairs, the others as registers; two cores' clocks
differ by at most 16; A must be of class 10, and a 64-bit special needs an even pair (R17, R71). -/
def Obligations.SpecialReads : Prop :=
  (∀ h (f : NForm) s a, Acts s a h →
    (f.a.idx.toNat < 16 → ∃ t, exec (.sRdsr h f) s = .next t ∧
      SclDone s t a f.d.idx.toNat true (s.predOf a f.a.idx.toNat)) ∧
    (f.a.idx = 0x20#8 → ∃ t skew, exec (.sRdsr h f) s = .next t ∧ skew ≤ 16 ∧
      SclDone s t a f.d.idx.toNat true (BitVec.ofNat 64 (s.clk + skew))) ∧
    (∀ g e G T, a = .frag g e → s.grps.get? g = some G → s.tasks.get? G.task = some T → ∀ v : Nat,
      (f.a.idx.toNat, v) ∈ [(0x10, Claim.trailing (s.maskOfAgent a)), (0x11, e), (0x12, G.idx), (0x13, T.slot), (0x14, T.core),
        (0x15, T.core / 4), (0x16, T.core / 48), (0x18, Claim.trailing (s.maskOfAgent a)), (0x19, G.idx),
        (0x1A, T.lvl.getD 0 0), (0x1B, T.lvl.getD 1 0), (0x1C, T.lvl.getD 2 0), (0x1D, T.lvl.getD 3 0),
        (0x1E, T.lvl.getD 4 0), (0x1F, T.lvl.getD 5 0)] →
      ∃ t, exec (.sRdsr h f) s = .next t ∧ SclDone s t a f.d.idx.toNat false (BitVec.ofNat 64 v)) ∧
    ∀ k, a = .ks k → ∀ v : Nat, (f.a.idx.toNat, v) ∈ [(0x10, 0), (0x11, 0), (0x12, 0), (0x13, k % 4), (0x14, 0), (0x15, k / 4),
        (0x16, k / 48), (0x18, 0), (0x19, 0)] ∨ (∃ n T i, (s.ksCtx k).task = some n ∧ s.tasks.get? n = some T ∧ i < 6 ∧
          f.a.idx.toNat = 0x1A + i ∧ v = T.lvl.getD i 0) →
      ∃ t, exec (.sRdsr h f) s = .next t ∧ SclDone s t a f.d.idx.toNat false (BitVec.ofNat 64 v)) ∧
  ∀ h (f : NForm) st, (f.a.cls ≠ .spec → 1 ∈ (Instr.sRdsr h f).check st) ∧
    (f.a.cls = .spec → f.a.idx.toNat < 16 ∨ f.a.idx = 0x20#8 → f.d.idx.toNat % 2 = 1 → 5 ∈ (Instr.sRdsr h f).check st)

/-- s.vrd copies lane B[5:0] of a vector source to a scalar register; s.vwr writes a scalar to that lane of D when the lane
is the fragment's, and otherwise nothing (R72). -/
def Obligations.LaneMoves : Prop :=
  ∀ h (f : NForm) s g e, Acts s (.frag g e) h → f.b.cls ≠ .spec →
    (∃ t, exec (.sVrd h f) s = .next t ∧
      t.sget (.frag g e) f.d.idx.toNat =
        lo32 (Claim.src s g e [⟨f.a, false, h.lra⟩] f.aux 0 ((Claim.reg s (.frag g e) f.b).toNat % 64)) ∧
      OnlyRegs s t (.frag g e) [f.d.idx.toNat] [] (lastReadRegs [⟨f.a, false, h.lra⟩]) ∧ Advances s t (.frag g e)) ∧
    (f.a.cls ≠ .spec → RoomFor s g [f.d.idx.toNat] → ∃ t, exec (.sVwr h f) s = .next t ∧
      if (s.maskOfAgent (.frag g e)).getLsbD ((Claim.reg s (.frag g e) f.b).toNat % 64) then
        VecDone s t g e f.d.idx.toNat false []
          [((Claim.reg s (.frag g e) f.b).toNat % 64, (Claim.reg s (.frag g e) f.a).setWidth 64)]
      else OnlyRetires s t (.frag g e))

/-- The vector integer and logic instructions apply their operation to every element of every participating lane, wrapping
or clamping as sat says, keep the other lanes, and write nothing else (R73, R75, R76, R80). -/
def Obligations.VectorElements : Prop :=
  (∀ r ∈ Claim.vectorN, ∀ h f s g e,
    Claim.LaneResult s g e h (r.1 h f) f.d.idx.toNat f.ty.is64 (nSrcs h f f.ty.is64 r.2.1) f.aux fun x l y =>
      Claim.EachElement f.ty f.sat r.2.2 (fun n => if n < r.2.1 then x n l else 0#64) y) ∧
  ∀ r ∈ Claim.vectorI, ∀ h f s g e, f.ty ≠ .f64 →
    Claim.LaneResult s g e h (r.1 h f) f.d.idx.toNat f.ty.is64 [⟨f.a, f.ty.is64, h.lra⟩] f.aux fun x l y =>
      Claim.EachElement f.ty f.sat r.2
        (fun n => if n = 0 then x 0 l else if n = 1 then Claim.extended f.ty f.imm else 0#64) y

/-- v.bfe, v.bfi, v.mulw, v.li and the dot products and absolute differences, lane by lane (R75, R77, R79). -/
def Obligations.VectorFieldsAndSums : Prop :=
  (∀ h f s g e, Ty.width f.ty = 32 →
    Claim.LaneResult s g e h (.vBfe h f) f.d.idx.toNat false (nSrcs h f false 2) f.aux (fun x l y =>
      lo32 y = Claim.ofBits (Claim.bfeBit (Ty.signed f.ty) (lo32 (x 0 l)) (lo32 (x 1 l)))) ∧
    Claim.LaneResult s g e h (.vBfi h f) f.d.idx.toNat false (nSrcs h f false 3) f.aux fun x l y =>
      lo32 y = Claim.ofBits (Claim.bfiBit (lo32 (x 0 l)) (lo32 (x 1 l)) (lo32 (x 2 l)))) ∧
  (∀ h f s g e, Ty.width f.ty = 32 →
    Claim.LaneResult s g e h (.vBfeImm h f) f.d.idx.toNat false [⟨f.a, false, h.lra⟩] f.aux fun x l y =>
      lo32 y = Claim.ofBits (Claim.bfeBit (Ty.signed f.ty) (lo32 (x 0 l)) f.imm)) ∧
  (∀ h f s g e, Claim.LaneResult s g e h (.vMulw h f) f.d.idx.toNat true (nSrcs h f false 2) f.aux fun x l y =>
      y = if Ty.signed f.ty then (lo32 (x 0 l)).signExtend 64 * (lo32 (x 1 l)).signExtend 64
        else (lo32 (x 0 l)).setWidth 64 * (lo32 (x 1 l)).setWidth 64) ∧
  (∀ h f s g e, Claim.LaneResult s g e h (.vMulwImm h f) f.d.idx.toNat true [⟨f.a, false, h.lra⟩] f.aux fun x l y =>
      y = if Ty.signed f.ty then (lo32 (x 0 l)).signExtend 64 * f.imm.signExtend 64
        else (lo32 (x 0 l)).setWidth 64 * f.imm.setWidth 64) ∧
  (∀ h f s g e, Claim.LaneResult s g e h (.vLi h f) f.d.idx.toNat f.ty.is64 [] f.aux fun _ _ y =>
      if f.ty = .f64 then y = Claim.widened f.imm
      else y = Claim.extended f.ty f.imm) ∧
  ∀ r ∈ [((.vDot4 : Hdr → NForm → Instr), fun a b : Int => a * b), (.vDot2, fun a b => a * b),
      (.vSad, fun a b => ((a - b).natAbs : Int))], ∀ h f s g e,
    Claim.LaneResult s g e h (r.1 h f) f.d.idx.toNat false (nSrcs h f false 3) f.aux fun x l y =>
      lo32 y = Claim.dotOf f.ty f.sat r.2 (x 0 l) (x 1 l) (x 2 l)

/-- v.addx and v.subx: the low 32 bits of the 33-bit sum to D and its carry to the predicate in the participating lanes;
a write to p15 is discarded; C must name a predicate (R78). -/
def Obligations.VectorCarry : Prop :=
  (∀ r ∈ [((.vAddx : Hdr → NForm → Instr), false), (.vSubx, true)], ∀ h f s g e, Claim.InLanes s g e h →
    RoomFor s g [f.d.idx.toNat] → ∃ t, exec (r.1 h f) s = .next t ∧
      (∀ l < 64, laneOf t g f.d.idx.toNat l =
        if (s.guardMask (.frag g e) h).getLsbD l then
          (Claim.carryOf r.2 (lo32 (Claim.src s g e (nSrcs h f false 2) f.aux 0 l))
            (lo32 (Claim.src s g e (nSrcs h f false 2) f.aux 1 l))
            ((s.predOf (.frag g e) f.c.idx.toNat).getLsbD l)).setWidth 32
        else laneOf s g f.d.idx.toNat l) ∧
      (f.c.idx.toNat < 15 → ∀ l < 64, (t.predOf (.frag g e) f.c.idx.toNat).getLsbD l =
        if (s.guardMask (.frag g e) h).getLsbD l then
          (Claim.carryOf r.2 (lo32 (Claim.src s g e (nSrcs h f false 2) f.aux 0 l))
            (lo32 (Claim.src s g e (nSrcs h f false 2) f.aux 1 l))
            ((s.predOf (.frag g e) f.c.idx.toNat).getLsbD l)).msb
        else (s.predOf (.frag g e) f.c.idx.toNat).getLsbD l) ∧
      (f.c.idx.toNat = 15 → s.predOf (.frag g e) 15 = BitVec.allOnes 64 ∧ t.predOf (.frag g e) 15 = BitVec.allOnes 64) ∧
      OnlyRegs s t (.frag g e) [] [f.c.idx.toNat] ([f.d.idx.toNat] ++ lastReadRegs (nSrcs h f false 2)) ∧
      Advances s t (.frag g e)) ∧
  ∀ h (f : NForm) st, f.c.cls ≠ .spec ∨ 16 ≤ f.c.idx.toNat → 1 ∈ (Instr.vAddx h f).check st ∧ 1 ∈ (Instr.vSubx h f).check st

/-- What a source gives each lane where nothing is split or outstanding: a vector register's permuted lane, a scalar
register or pair in every lane, or a special; a scalar register reads as it is, or as a load that is outstanding leaves it
(R19, R70, R74). -/
def Obligations.VectorSources : Prop :=
  (∀ (s : State) a i, (s.sclPending a i = [] → s.sread a i = s.sget a i) ∧ s.sread a i ∈ s.sget a i :: s.sclPending a i) ∧
  ∀ s g e (G : Group) (x : Opnd) aux (l : BitVec 6), s.grps.get? g = some G → G.frags.length ≤ 1 → s.reqs = [] →
    (x.src.cls = .vec → Claim.src s g e [x] aux 0 l.toNat =
      if x.wide then pairOf (laneOf s g x.src.idx.toNat (Claim.permuted x.src.perm aux l).toNat)
          (laneOf s g (x.src.idx.toNat + 1) (Claim.permuted x.src.perm aux l).toNat)
      else (laneOf s g x.src.idx.toNat (Claim.permuted x.src.perm aux l).toNat).setWidth 64) ∧
    (x.src.cls = .scl → Claim.src s g e [x] aux 0 l.toNat =
      if x.wide then Claim.pair s (.frag g e) x.src else (Claim.reg s (.frag g e) x.src).setWidth 64) ∧
    (x.src.cls = .spec → x.src.idx = 0x10#8 → Claim.src s g e [x] aux 0 l.toNat = l.setWidth 64)

/-- Where a group cannot get the vector registers an instruction needs, the group begins to park and the instruction has no
other effect (R265, R266). -/
def Obligations.VectorNeedsRegisters : Prop :=
  ∀ r ∈ Claim.vectorN, ∀ h f s g e G, Claim.InLanes s g e h → s.grps.get? g = some G → G.park = none → G.st ≠ .parked →
    ¬RoomFor s g (dstRegs f.d.idx.toNat (if f.ty.is64 then 2 else 1)) → ∃ t, exec (r.1 h f) s = .next t ∧
      (∀ n, n = (if G.st == .inactive then s.clk - G.inactiveSince else 0) → t.grps.get? g = some { G with
        st := .parking, park := some { reason := 1, sets := [], unacked := 0, framed := false, waited := n } }) ∧
      stateRest t = stateRest s ∧ t.reqs = s.reqs ∧ t.pends = s.pends ∧ t.ks = s.ks ∧
      ∀ g', g' ≠ g → t.grps.get? g' = s.grps.get? g'

/-- v.cmp, p.fromvec, the votes and the predicate operations write their truth value in the participating lanes of D, and
a write to p15 is discarded (R81, R82, R84, R85, R114). -/
def Obligations.PredicateResults : Prop :=
  (∀ h f s g e, Ty.width f.ty = 32 ∨ Ty.width f.ty = 64 → f.op.toNat ≤ 7 → Claim.LaneTruth s g e h (.vCmp h f) f.d.idx.toNat (nSrcs h f f.ty.is64 2) f.aux fun x l =>
      Claim.laneHolds f.ty f.op.toNat (x 0 l) (x 1 l)) ∧
  (∀ h f s g e, Ty.width f.ty = 32 ∨ Ty.width f.ty = 64 → f.op.toNat ≤ 7 → f.ty ≠ .f64 →
    Claim.LaneTruth s g e h (.vCmpImm h f) f.d.idx.toNat [⟨f.a, f.ty.is64, h.lra⟩] f.aux fun x l =>
      Claim.laneHolds f.ty f.op.toNat (x 0 l) (Claim.extended f.ty f.imm)) ∧
  (∀ r ∈ Claim.predRows, ∀ h f s g e, Claim.LaneTruth s g e h (r.1 h f) f.d.idx.toNat [] f.aux fun _ l =>
      r.2 f.op ((s.predOf (.frag g e) f.a.idx.toNat).getLsbD l) ((s.predOf (.frag g e) f.b.idx.toNat).getLsbD l)) ∧
  (∀ h f s g e, Claim.LaneTruth s g e h (.pFromvec h f) f.d.idx.toNat (nSrcs h f false 1) f.aux fun x l => x 0 l != 0#64) ∧
  (∀ h f s g e, Claim.LaneTruth s g e h (.vVoteAny h f) f.d.idx.toNat [] f.aux fun _ _ =>
      (lanesOf (s.guardMask (.frag g e) h)).any fun l => (s.predOf (.frag g e) f.a.idx.toNat).getLsbD l) ∧
  (∀ h f s g e, Claim.LaneTruth s g e h (.vVoteAll h f) f.d.idx.toNat [] f.aux fun _ _ =>
      (lanesOf (s.guardMask (.frag g e) h)).all fun l => (s.predOf (.frag g e) f.a.idx.toNat).getLsbD l) ∧
  ∀ h f s g e, Claim.LaneTruth s g e h (.vVoteUni h f) f.d.idx.toNat (nSrcs h f f.ty.is64 1) f.aux fun x _ =>
      (lanesOf (s.guardMask (.frag g e) h)).all fun l => (lanesOf (s.guardMask (.frag g e) h)).all fun k => x 0 l == x 0 k

/-- v.sel and p.tovec choose lane by lane; p.popc, p.first and v.vote.ballot count the participating lanes where a predicate
is 1 (R85, R86, R114). -/
def Obligations.SelectsAndCounts : Prop :=
  (∀ h f s g e, Claim.LaneResult s g e h (.vSel h f) f.d.idx.toNat f.ty.is64 (nSrcs h f f.ty.is64 2) f.aux fun x l y =>
      y = if (s.predOf (.frag g e) f.c.idx.toNat).getLsbD l then x 0 l else x 1 l) ∧
  (∀ h f s g e, Claim.LaneResult s g e h (.pTovec h f) f.d.idx.toNat false [] f.aux fun _ l y =>
      y = if (s.predOf (.frag g e) f.a.idx.toNat).getLsbD l then (if f.op = 0#5 then 1#64 else 0xFFFFFFFF#64) else 0#64) ∧
  ∀ h f s g e, Acts s (.frag g e) h →
    (∃ t, exec (.pPopc h f) s = .next t ∧ SclDone s t (.frag g e) f.d.idx.toNat false
      (BitVec.ofNat 64 (Claim.ones (s.guardMask (.frag g e) h &&& s.predOf (.frag g e) f.a.idx.toNat)))) ∧
    (∃ t, exec (.pFirst h f) s = .next t ∧ SclDone s t (.frag g e) f.d.idx.toNat false
      (BitVec.ofNat 64 (Claim.trailing (s.guardMask (.frag g e) h &&& s.predOf (.frag g e) f.a.idx.toNat)))) ∧
    ∃ t, exec (.vVoteBallot h f) s = .next t ∧ SclDone s t (.frag g e) f.d.idx.toNat true
      (s.guardMask (.frag g e) h &&& s.predOf (.frag g e) f.a.idx.toNat)

/-- Every float, conversion, scan and reduction instruction writes its results in the participating lanes, ORs its
conditions into FPCTL and advances the stochastic counter by 1 where it rounds so (R55, R90, R92). -/
def Obligations.FloatResults : Prop :=
  (∀ r ∈ Claim.floatN ++ Claim.convertN, ∀ h f s g e, Claim.FloatResult s g e h (r.1 h f) (r.2 h f)) ∧
  (∀ r ∈ Claim.floatI, ∀ h f s g e, Claim.FloatResult s g e h (r.1 h f) (r.2 h f)) ∧
  ∀ h f s g e, ∀ r ∈ Claim.collectiveN s (.frag g e), Claim.FloatResult s g e h (r.1 h f) (r.2 h f)

/-- A condition whose trap FPCTL enables raises 0x0E with no lane of D written, the flags and counter as without the trap,
and the record's mask the lanes that raised it (R92). -/
def Obligations.FloatTraps : Prop :=
  (∀ r ∈ Claim.floatN ++ Claim.convertN, ∀ h f s g e, Claim.FloatTrap s g e h (r.1 h f) (r.2 h f)) ∧
  (∀ r ∈ Claim.floatI, ∀ h f s g e, Claim.FloatTrap s g e h (r.1 h f) (r.2 h f)) ∧
  ∀ h f s g e, ∀ r ∈ Claim.collectiveN s (.frag g e), Claim.FloatTrap s g e h (r.1 h f) (r.2 h f)

/-- v.fcmp writes the relation in the participating lanes, sets FIV where a lane raises invalid, and traps with no lane
written where TIV is set (R83). -/
def Obligations.FloatCompares : Prop :=
  (∀ h f s g e, Claim.FloatCompare s g e h (.vFcmp h f) f.d.idx.toNat f.ty f.op.toNat (nSrcs h f f.ty.is64 2)
      (Claim.src s g e (nSrcs h f f.ty.is64 2) f.aux 0) (Claim.src s g e (nSrcs h f f.ty.is64 2) f.aux 1)) ∧
  ∀ h f s g e, Claim.FloatCompare s g e h (.vFcmpImm h f) f.d.idx.toNat f.ty f.op.toNat [⟨f.a, f.ty.is64, h.lra⟩]
      (Claim.src s g e [⟨f.a, f.ty.is64, h.lra⟩] f.aux 0) fun _ => immOf f.ty f.imm

/-- Rounding to units takes one of the two neighbours: the nearer with ties to even or away, the lower or upper, or the one
nearer to zero (R53). The first NaN among the inputs of an addition, subtraction, product or quotient is the result,
quieted, and a signalling one raises invalid; with exactly one NaN operand v.fmin and v.fmax give the other operand of f32
(R93, R95). -/
def Obligations.RoundingAndNans : Prop :=
  (∀ draw neg a b, 0 < b →
    (∀ m, (roundUnits m draw neg a b).1 = a / b ∨ (roundUnits m draw neg a b).1 = a / b + 1) ∧
    (∀ m, (roundUnits m draw neg a b).2 = decide (b ∣ a) ∧ (b ∣ a → (roundUnits m draw neg a b).1 * b = a)) ∧
    (roundUnits .rtz draw neg a b).1 * b ≤ a ∧
    (∀ m ∈ [Rnd.rne, Rnd.rna], 2 * ((roundUnits m draw neg a b).1 * b - a) ≤ b ∧ 2 * (a - (roundUnits m draw neg a b).1 * b) ≤ b) ∧
    (2 * (a % b) = b → (roundUnits .rne draw neg a b).1 % 2 = 0 ∧ (roundUnits .rna draw neg a b).1 = a / b + 1) ∧
    (if neg then (roundUnits .rup draw neg a b).1 * b ≤ a ∧ a ≤ (roundUnits .rdn draw neg a b).1 * b
      else a ≤ (roundUnits .rup draw neg a b).1 * b ∧ (roundUnits .rdn draw neg a b).1 * b ≤ a)) ∧
  (∀ F ∈ [FF.f64, FF.f32, FF.f16, FF.bf16], ∀ op ∈ [opAdd, opSub, opMul, opDiv], ∀ env a b, a < 2 ^ F.bitsN → b < 2 ^ F.bitsN →
    (decVal F env.daz a).isNan = true →
      op F env a b = (a ||| 2 ^ (F.mb - 1), { iv := (decVal F env.daz a).isSig || (decVal F env.daz b).isSig })) ∧
  (∀ F ∈ [FF.f64, FF.f32, FF.f16, FF.bf16], ∀ op ∈ [opAdd, opSub, opMul, opDiv], ∀ env a b, a < 2 ^ F.bitsN → b < 2 ^ F.bitsN →
    (decVal F env.daz a).isNan = false → (decVal F env.daz b).isNan = true →
      op F env a b = (b ||| 2 ^ (F.mb - 1), { iv := (decVal F env.daz b).isSig })) ∧
  ∀ isMax a b, a < 2 ^ 32 → b < 2 ^ 32 → (decVal .f32 false a).isNan = true → (decVal .f32 false b).isInf = true →
    opMinMax .f32 {} isMax a b = (b, { iv := (decVal .f32 false a).isSig }) ∧
    opMinMax .f32 {} isMax b a = (b, { iv := (decVal .f32 false a).isSig })

/-- v.rng: .seed sets seed and counter, .gets and .getc read them, and .draw gives each participating lane its word and
advances the counter by 1; other op values are illegal operands (R107). -/
def Obligations.Generator : Prop :=
  (∀ h (f : NForm) s a, Acts s a h → f.a.cls ≠ .spec → f.b.cls ≠ .spec → ∃ t, exec (.vRngSeed h f) s = .next t ∧
    seedOf t a = (Claim.pair s a f.a, Claim.reg s a f.b) ∧ Leaves s t a [] [] []
      (fun G => { G with seed := Claim.pair s a f.a, ctr := Claim.reg s a f.b })
      (fun c => { c with seed := Claim.pair s a f.a, ctr := Claim.reg s a f.b }) ∧ QueuesStay s t ∧ Advances s t a) ∧
  (∀ h (f : NForm) s a, Acts s a h →
    (∃ t, exec (.vRngGets h f) s = .next t ∧ SclDone s t a f.d.idx.toNat true (seedOf s a).1) ∧
    ∃ t, exec (.vRngGetc h f) s = .next t ∧ SclDone s t a f.d.idx.toNat false ((seedOf s a).2.setWidth 64)) ∧
  (∀ h (f : NForm) s g e, Claim.InLanes s g e h → RoomFor s g [f.d.idx.toNat] → ∃ t, exec (.vRngDraw h f) s = .next t ∧
    (∀ l < 64, laneOf t g f.d.idx.toNat l =
      if (s.guardMask (.frag g e) h).getLsbD l then
        hi32 (Claim.mixed ((seedOf s (.frag g e)).1 ^^^ ((seedOf s (.frag g e)).2.setWidth 64 <<< 32) ^^^
          (BitVec.ofNat 64 l <<< 8) ^^^ 0xFF#64 ^^^ 0x9E3779B97F4A7C15#64))
      else laneOf s g f.d.idx.toNat l) ∧
    Leaves s t (.frag g e) [] [] [f.d.idx.toNat] (fun G => { G with ctr := G.ctr + 1#32 }) id ∧ QueuesStay s t ∧
    Advances s t (.frag g e)) ∧
  ∀ w sup, fieldNat w 86 10 = 0x107 → 4 ≤ fieldNat w 0 5 → decode .vector sup w = .bad 2 3

/-- v.shfl, v.bcast, v.match and v.rank give each participating lane a value from the member lanes, and v.compact and
v.expand move the selected lanes in ascending order (R110-R113, R115). -/
def Obligations.LaneExchange : Prop :=
  (∀ h f s g e, Claim.LaneResult s g e h (.vShfl h f) f.d.idx.toNat f.ty.is64
      [⟨f.a, f.ty.is64, h.lra⟩, ⟨f.b, false, h.lrb⟩] f.aux fun x l y =>
        y = Claim.fromLane (s.maskOfAgent (.frag g e) &&& s.predOf (.frag g e) f.c.idx.toNat) (x 0) l
          (Claim.shuffled (f.op.toNat % 4) l (lo32 (x 1 l)).toNat)) ∧
  (∀ h f s g e,
    Claim.LaneResult s g e h (.vBcast h f) f.d.idx.toNat f.ty.is64 (nSrcs h f f.ty.is64 1) f.aux fun x l y =>
      y = Claim.fromLane (s.maskOfAgent (.frag g e)) (x 0) l
        (if f.op = 0#5 then (lo32 (readScl s (.frag g e) f.b false)).toNat else Claim.trailing (s.guardMask (.frag g e) h))) ∧
  (∀ h f s g e, Claim.LaneResult s g e h (.vMatch h f) f.d.idx.toNat true (nSrcs h f f.ty.is64 1) f.aux fun x l y =>
      ∀ j < 64, y.getLsbD j = ((s.guardMask (.frag g e) h).getLsbD j && x 0 j == x 0 l)) ∧
  (∀ h f s g e, f.op.toNat ≤ 2 →
    Claim.LaneResult s g e h (.vRank h f) f.d.idx.toNat false (nSrcs h f true 1) f.aux fun x l y =>
      y.toNat = (List.range 64).countP fun j =>
        (x 0 l).getLsbD j && (if f.op = 0#5 then decide (j < l) else if f.op = 1#5 then decide (l < j) else true)) ∧
  ∀ h f s g e, Claim.InLanes s g e h → RoomFor s g (dstRegs f.d.idx.toNat (if f.ty.is64 then 2 else 1)) →
    (∃ t, exec (.vCompact h f) s = .next t ∧ VecDone s t g e f.d.idx.toNat f.ty.is64 (lastReadRegs (nSrcs h f f.ty.is64 1))
      ((lanesOf (s.guardMask (.frag g e) h)).zip
        ((lanesOf (s.guardMask (.frag g e) h &&& s.predOf (.frag g e) f.b.idx.toNat)).map
          (Claim.src s g e (nSrcs h f f.ty.is64 1) f.aux 0)))) ∧
    ∃ t, exec (.vExpand h f) s = .next t ∧ VecDone s t g e f.d.idx.toNat f.ty.is64 (lastReadRegs (nSrcs h f f.ty.is64 1))
      ((lanesOf (s.guardMask (.frag g e) h &&& s.predOf (.frag g e) f.b.idx.toNat)).zip
        ((lanesOf (s.guardMask (.frag g e) h)).map (Claim.src s g e (nSrcs h f f.ty.is64 1) f.aux 0)))

/-- The hash, partition and string instructions lane by lane (R119-R123, R125-R129). -/
def Obligations.HashAndStrings : Prop :=
  (∀ h f s g e, Claim.LaneResult s g e h (.vCrc h f) f.d.idx.toNat false (srcs3 h f f.ty.is64 false false 2) f.aux fun x l y =>
      lo32 y = (if f.op.getLsbD 3 then fun c => ~~~c else id)
        (((List.range (2 ^ (f.op.toNat % 4))).map (Claim.laneByte (x 0 l))).foldl crc32cStep
          (if f.op.getLsbD 2 then ~~~(lo32 (x 1 l)) else lo32 (x 1 l)))) ∧
  (∀ h f s g e, Claim.LaneResult s g e h (.vMix h f) f.d.idx.toNat (f.op == 0#5) (srcs3 h f true true false 2) f.aux fun x l y =>
      if f.op = 0#5 then y = Claim.mixed (x 0 l ^^^ x 1 l) else lo32 y = hi32 (Claim.mixed (x 0 l ^^^ x 1 l))) ∧
  (∀ h f s g e, Claim.LaneResult s g e h (.vHmul h f) f.d.idx.toNat f.ty.is64 (nSrcs h f f.ty.is64 2) 0#6 fun x l y =>
      y.toNat = (x 0 l).toNat * (x 1 l).toNat % 2 ^ Ty.width f.ty / 2 ^ (Ty.width f.ty - f.aux.toNat)) ∧
  (∀ h f s g e, f.ty = .b32 ∨ f.ty = .b64 →
    Claim.LaneResult s g e h (.vHmulImm h f) f.d.idx.toNat f.ty.is64 [⟨f.a, f.ty.is64, h.lra⟩] 0#6 fun x l y =>
      y.toNat = (x 0 l).toNat * f.imm.toNat % 2 ^ Ty.width f.ty / 2 ^ (Ty.width f.ty - f.aux.toNat)) ∧
  (∀ h f s g e, Claim.LaneResult s g e h (.vPart h f) f.d.idx.toNat f.ty.is64 (nSrcs h f f.ty.is64 2) f.aux fun x l y =>
      y = BitVec.ofNat 64 ((x 0 l).toNat * (x 1 l).toNat / 2 ^ Ty.width f.ty)) ∧
  (∀ h f s g e, f.ty = .s32 ∨ f.ty = .n32 →
    Claim.LaneResult s g e h (.vBkt h f) f.d.idx.toNat false (nSrcs h f false 1) 0#6 fun x l y =>
      y.toNat = (List.range f.aux.toNat).countP fun i =>
        decide (Claim.val (Ty.signed f.ty) (s.sread (.frag g e) (f.b.idx.toNat + i)) ≤ Claim.val (Ty.signed f.ty) (lo32 (x 0 l)))) ∧
  (∀ h f s g e, Claim.LaneResult s g e h (.vScmp h f) f.d.idx.toNat false (srcs3 h f f.ty.is64 f.ty.is64 false 3) f.aux
    fun x l y => lo32 y = Claim.compared f.op.toNat (x 0 l) (x 1 l) (min (lo32 (x 2 l)).toNat (Ty.width f.ty / 8))) ∧
  (∀ h f s g e, Claim.LaneResult s g e h (.vBfind h f) f.d.idx.toNat false (srcs3 h f f.ty.is64 false false 2) f.aux
    fun x l y => y.toNat = (((if f.op = 0#5 then id else List.reverse) (List.range (Ty.width f.ty / 8))).find?
      fun k => Claim.laneByte (x 0 l) k == Claim.laneByte (x 1 l) 0).getD (Ty.width f.ty / 8)) ∧
  (∀ h f s g e, Claim.LaneResult s g e h (.vBfindImm h f) f.d.idx.toNat false [⟨f.a, f.ty.is64, h.lra⟩] f.aux
    fun x l y => y.toNat = (((if f.op = 0#5 then id else List.reverse) (List.range (Ty.width f.ty / 8))).find?
      fun k => Claim.laneByte (x 0 l) k == f.imm.setWidth 8).getD (Ty.width f.ty / 8)) ∧
  (∀ h f s g e, Claim.LaneResult s g e h (.vBmask h f) f.d.idx.toNat f.ty.is64
    (srcs3 h f f.ty.is64 false false (if 8 ≤ f.op.toNat then 2 else 1)) f.aux fun x l y =>
      ∀ k < 64, y.getLsbD k = (decide (k < Ty.width f.ty / 8) && Claim.inClass f.op.toNat (x 1 l) (Claim.laneByte (x 0 l) k))) ∧
  (∀ h f s g e, Claim.LaneResult s g e h (.vUlen h f) f.d.idx.toNat false
    (srcs3 h f f.ty.is64 false false (if f.op = 0#5 then 2 else 1)) f.aux fun x l y =>
      y.toNat = if f.op = 0#5 then (List.range (min (lo32 (x 1 l)).toNat (Ty.width f.ty / 8))).countP
          (fun k => !((Claim.laneByte (x 0 l) k).extractLsb' 6 2 == 2#2))
        else Claim.utf8Length (Claim.laneByte (x 0 l) 0)) ∧
  ∀ h f s g e, Claim.LaneResult s g e h (.vFold h f) f.d.idx.toNat f.ty.is64 (nSrcs h f f.ty.is64 1) f.aux fun x l y =>
    ∀ k < Ty.width f.ty / 8, Claim.laneByte y k = Claim.folded f.op.toNat (Claim.laneByte (x 0 l) k)

/-- An instruction whose guard is true in no lane does nothing but go on at the next instruction (R14); one that waits is
judged again when it goes on. -/
def Obligations.FalseGuards : Prop :=
  ∀ h s a, Runs s a → s.guardMask a h = 0#64 → s.stOf a = .ready →
    (∀ c ∈ Claim.guardedN, ∀ f, ∃ t, exec (c h f) s = .next t ∧ OnlyRetires s t a) ∧
    (∀ c ∈ Claim.guardedI, ∀ f, ∃ t, exec (c h f) s = .next t ∧ OnlyRetires s t a) ∧
    (∀ c ∈ Claim.guardedM, ∀ f, ∃ t, exec (c h f) s = .next t ∧ OnlyRetires s t a) ∧
    (∀ c ∈ Claim.guardedE, ∀ f, ∃ t, exec (c h f) s = .next t ∧ OnlyRetires s t a) ∧
    ∀ c ∈ Claim.guardedK, ∀ f, ∃ t, exec (c h f) s = .next t ∧ OnlyRetires s t a

/-- A branch that every lane takes moves the agent whole: bra and call by the offset, call with PC + 12 in its link
registers, jmp whenever a lane's guard is true, and brx and ret to the address in A; an address that is not a multiple of 4
raises misaligned (0x04) with that address, and no lane moves (R132, R136). -/
def Obligations.BranchesWhole : Prop :=
  (∀ h (f : BForm) s a,
    (Claim.AllTake s a h → ∃ t, exec (.bra h f) s = .next t ∧ Claim.GoesTo s t a (Claim.target s a f.tgt) ∧
      OnlyRegs s t a [] [] []) ∧
    (Acts s a h → ∃ t, exec (.jmp h f) s = .next t ∧ Claim.GoesTo s t a (Claim.target s a f.tgt) ∧ OnlyRegs s t a [] [] []) ∧
    (Claim.AllTake s a h → f.d.cls ≠ .vec → ∃ t, exec (.call h f) s = .next t ∧
      Claim.GoesTo s t a (Claim.target s a f.tgt) ∧ t.sget a f.d.idx.toNat = lo32 (s.pcOf a + 12#64) ∧
      t.sget a (f.d.idx.toNat + 1) = hi32 (s.pcOf a + 12#64) ∧ OnlyRegs s t a [f.d.idx.toNat, f.d.idx.toNat + 1] [] []) ∧
    (∀ g e, a = .frag g e → Claim.AllTake s a h → f.d.cls = .vec → RoomFor s g [f.d.idx.toNat, f.d.idx.toNat + 1] →
      ∃ t, exec (.call h f) s = .next t ∧ Claim.GoesTo s t a (Claim.target s a f.tgt) ∧
        (∀ l < 64, (s.maskOfAgent a).getLsbD l → laneOf t g f.d.idx.toNat l = lo32 (s.pcOf a + 12#64) ∧
          laneOf t g (f.d.idx.toNat + 1) l = hi32 (s.pcOf a + 12#64)) ∧
        OnlyRegs s t a [] [] [f.d.idx.toNat, f.d.idx.toNat + 1]) ∧
    (Claim.AllTake s a h → f.a.cls = .scl → (Claim.pair s a f.a).toNat % 4 = 0 →
      (∃ t, exec (.brx h f) s = .next t ∧ Claim.GoesTo s t a (Claim.pair s a f.a) ∧ OnlyRegs s t a [] [] []) ∧
      ∃ t, exec (.ret h f) s = .next t ∧ Claim.GoesTo s t a (Claim.pair s a f.a) ∧ OnlyRegs s t a [] [] []) ∧
    ∀ g e v, a = .frag g e → Claim.AllTake s a h → f.a.cls = .vec → v.toNat % 4 = 0 →
      (∀ l < 64, (s.maskOfAgent a).getLsbD l → Claim.src s g e [⟨f.a, true, h.lra⟩] 0#6 0 l = v) →
      (∃ t, exec (.brx h f) s = .next t ∧ Claim.GoesTo s t a v ∧ OnlyRegs s t a [] [] (lastReadRegs [⟨f.a, true, h.lra⟩])) ∧
      ∃ t, exec (.ret h f) s = .next t ∧ Claim.GoesTo s t a v ∧ OnlyRegs s t a [] [] (lastReadRegs [⟨f.a, true, h.lra⟩])) ∧
  ∀ h (f : BForm) s a v, Acts s a h → f.a.cls = .scl → v = Claim.pair s a f.a → v.toNat % 4 ≠ 0 → ∀ c ∈ [Instr.brx, Instr.ret],
    ∃ u r, exec (c h f) s = .next (u.raise a [r]) ∧ r.cause = 4 ∧ r.addr = v ∧ r.pc = s.pcOf a ∧ r.acc = 0 ∧
      (∀ g e, a = .frag g e → r.lanes = s.guardMask a h) ∧ OnlyRegs s u a [] [] [] ∧ u.pcOf a = s.pcOf a

/-- A branch that some lanes take splits the fragment: its entry keeps the set with the lowest lane, the other set takes the
lowest free entry, and a nonzero rcv opens a record over all the lanes (R132, R133). -/
def Obligations.BranchSplits : Prop :=
  ∀ h (f : BForm) s g e G F, Claim.Alone s g e G F → G.fuses = [] →
    s.guardMask (.frag g e) h ≠ 0#64 → s.guardMask (.frag g e) h ≠ F.mask →
    Claim.target s (.frag g e) f.tgt ≠ F.pc + 12#64 → Claim.target s (.frag g e) f.rcv ≠ F.pc + 12#64 →
    Claim.target s (.frag g e) f.rcv ≠ Claim.target s (.frag g e) f.tgt → ∃ t H, exec (.bra h f) s = .next t ∧
      t.grps.get? g = some H ∧ H.frags.length = 2 ∧ OnlyRegs s t (.frag g e) [] [] [] ∧
      H.fuses = (if f.rcv = 0#23 then [] else
        [(0, { addr := Claim.target s (.frag g e) f.rcv, mask := F.mask, outer := none })]) ∧
      (let taken := (s.guardMask (.frag g e) h, Claim.target s (.frag g e) f.tgt, if f.rcv = 0#23 then none else some 0, FragState.ready)
       let rest := (F.mask &&& ~~~s.guardMask (.frag g e) h, F.pc + 12#64, if f.rcv = 0#23 then none else some 0, FragState.ready)
       let first := (s.guardMask (.frag g e) h).getLsbD (Claim.trailing F.mask)
       Claim.shows H e = some (if first then taken else rest) ∧
       Claim.shows H (if e = 0 then 1 else 0) = some (if first then rest else taken))

/-- Fragments that reach the address of their record merge into the lower entry, the record closes, and the whole goes on
there (R133); fragments that all wait at a join of one PC merge and go on after it (R135). -/
def Obligations.FragmentsMerge : Prop :=
  (∀ h f s g (G : Group) e1 e2 F1 F2 o, s.cur = some (.frag g e2) → s.grps.get? g = some G → G.frags = [(e1, F1), (e2, F2)] →
    e1 < e2 → F1.st = .fuseWait → F1.record = some 0 → F2.record = some 0 → F1.mask ≠ F1.mask ||| F2.mask →
    F2.mask ≠ F1.mask ||| F2.mask → G.fuses = [(0, { addr := F2.pc + 12#64, mask := F1.mask ||| F2.mask, outer := o })] →
    F1.pc = F2.pc + 12#64 → o = none →
    ∃ t H, exec (.nop h f) s = .next t ∧ t.grps.get? g = some H ∧ H.fuses = [] ∧ H.frags.length = 1 ∧
      Claim.shows H e1 = some (F1.mask ||| F2.mask, F2.pc + 12#64, none, .ready)) ∧
  (∀ h f s g (G : Group) e1 e2 F1 F2, s.cur = some (.frag g e2) → s.grps.get? g = some G → G.frags = [(e1, F1), (e2, F2)] →
    e1 < e2 → F1.st = .joinWait → F1.pc = F2.pc →
    ∃ t H, exec (.join h f) s = .next t ∧ t.grps.get? g = some H ∧ H.fuses = [] ∧ H.frags.length = 1 ∧
      Claim.shows H e1 = some (F1.mask ||| F2.mask, F2.pc + 12#64, none, .ready)) ∧
  ∀ h f s g (G : Group) e F, Claim.Alone s g e G F →
    ∃ t H, exec (.join h f) s = .next t ∧ t.grps.get? g = some H ∧ H.fuses = [] ∧
      Claim.shows H e = some (F.mask, F.pc + 12#64, none, .ready)

/-- exit removes the lanes whose guard is true; a group whose last lane exits gives up its registers and leaves its task,
which drains when no group is left, and a Keystone context ends (R137, R207). -/
def Obligations.LanesExit : Prop :=
  (∀ h f s g e G F, Claim.Alone s g e G F →
    s.guardMask (.frag g e) h ≠ 0#64 → s.guardMask (.frag g e) h ≠ F.mask → G.fuses = [] → F.st = .ready →
    ∃ t H, exec (.exit h f) s = .next t ∧ t.grps.get? g = some H ∧
      Claim.shows H e = some (F.mask &&& ~~~s.guardMask (.frag g e) h, F.pc + 12#64, none, .ready)) ∧
  (∀ h f s g e G F T, Claim.Alone s g e G F → s.guardMask (.frag g e) h = F.mask → s.tasks.get? G.task = some T → G.leases = [] →
    G.partials = [] → G.lost = none → T.ks = none → T.share = none → ∃ t H, exec (.exit h f) s = .next t ∧
      t.grps.get? g = some H ∧ H.st = .exited ∧ H.frags = [] ∧ H.reg = [] ∧ H.sreg = G.sreg ∧
      (t.tasks.get? G.task).map (fun T' => (T'.live, T'.st)) =
        some (T.live.filter (· != G.idx), if T.live.filter (· != G.idx) = [] then .draining else T.st) ∧ t.mem = s.mem) ∧
  ∀ h f s k, Acts s (.ks k) h → ∃ t, exec (.exit h f) s = .next t ∧ (t.ksCtx k).exited = true ∧ (t.ksCtx k).west = [] ∧
    (t.ksCtx k).north = [] ∧ t.mem = s.mem

/-- nop and yield change nothing but the PC and the yield request; sleep keeps its fragment not ready for at least imm32
clocks and at most 8,192 more, and #0 acts as yield; lease.fp declares a footprint: imm32 rounded up to 128 bytes, at most
524,288 (R138, R146). -/
def Obligations.Pauses : Prop :=
  (∀ h f s a, Runs s a → ∃ t, exec (.nop h f) s = .next t ∧ OnlyRetires s t a) ∧
  (∀ h f s g e, Acts s (.frag g e) h → (∃ t, exec (.yield h f) s = .next t ∧ OnlyRetires s t (.frag g e) ∧
    ∀ G F, s.grps.get? g = some G → G.frags = [(e, F)] → F.record = none → (t.frag? g e).map (·.yieldReq) = some true)) ∧
  (∀ h (f : IForm) s a, Acts s a h → s.stOf a = .ready →
    (f.imm ≠ 0#32 → ∃ t c, exec (.sleep h f) s = .next t ∧ t.stOf a = .waiting (.sleeping c) ∧ s.clk + f.imm.toNat ≤ c ∧
      c ≤ s.clk + f.imm.toNat + 8192 ∧ t.pcOf a = s.pcOf a ∧ OnlyRegs s t a [] [] []) ∧
    (f.imm = 0#32 → ∃ t, exec (.sleep h f) s = .next t ∧ OnlyRetires s t a)) ∧
  ∀ h (f : IForm) s g e, Acts s (.frag g e) h → ∃ t, exec (.leaseFp h f) s = .next t ∧
    Leaves s t (.frag g e) [] [] [] (fun G => { G with declared := min 524288 ((f.imm.toNat + 127) / 128 * 128) }) id ∧
    QueuesStay s t ∧ Advances s t (.frag g e)

/-- Barrier arrivals of the lanes whose guard is true: below the expected count the phase counts them, and bar waits where
bar.arv goes on; the arrival that meets it flips the phase and bar goes on; a count outside 1 to 1,024 is an illegal operand
(R139). -/
def Obligations.Barriers : Prop :=
  ∀ h (f : IForm) s g e G T, Acts s (.frag g e) h → s.grps.get? g = some G → s.tasks.get? G.task = some T →
    s.quiet (.frag g e) = true → s.stOf (.frag g e) = .ready → f.a.isZero = false → f.a.cls = .scl →
    ∀ n k b B, n = (Claim.reg s (.frag g e) f.a).toNat → k = Claim.ones (s.guardMask (.frag g e) h) → b = f.imm.toNat % 16 → B = T.bar b →
      (n = 0 ∨ 1024 < n → ∀ c ∈ [Instr.bar, Instr.barArv], exec (c h f) s =
        .next (s.raiseCode (.frag g e) 2 3#32 (s.maskOfAgent (.frag g e)))) ∧
      (n ≤ 1024 → B.expected = none → B.arrivals = 0 → k < n → ∀ c ∈ [Instr.bar, Instr.barArv], ∃ t, exec (c h f) s = .next t ∧
        (t.tasks.get? G.task).map (fun T' => ((T'.bar b).phase, (T'.bar b).arrivals, (T'.bar b).expected)) =
          some (B.phase, k, some n) ∧
        (t.grps.get? g).bind (fun H => H.barArr.get? b) = some B.phase) ∧
      (n ≤ 1024 → B.expected = none → B.arrivals = 0 → k < n →
        (∃ t, exec (.bar h f) s = .next t ∧ t.stOf (.frag g e) = .waiting (.barrier b B.phase) ∧ t.pcOf (.frag g e) = s.pcOf (.frag g e)) ∧
        ∃ t, exec (.barArv h f) s = .next t ∧ Advances s t (.frag g e)) ∧
      (n ≤ 1024 → B.expected = none → B.arrivals = 0 → k = n → ∀ c ∈ [Instr.bar, Instr.barArv], ∃ t, exec (c h f) s = .next t ∧
        (t.tasks.get? G.task).map (fun T' => ((T'.bar b).phase, (T'.bar b).arrivals, (T'.bar b).expected)) =
          some (B.phase + 1, 0, none) ∧ Advances s t (.frag g e))

/-- bar.wt waits while the phase of the group's last arrival is incomplete, and once that phase is complete goes on; waitcnt waits until each
count is at most its limit (R139, R143). -/
def Obligations.Waits : Prop :=
  (∀ h (f : IForm) s g e, Acts s (.frag g e) h →
    (s.stOf (.frag g e) = .ready →
      (s.barrierOpen g (f.imm.toNat % 16) = false → ∃ t, exec (.barWt h f) s = .next t ∧ OnlyRetires s t (.frag g e)) ∧
      (s.barrierOpen g (f.imm.toNat % 16) = true → ∃ t p, s.latestPhase g (f.imm.toNat % 16) = some p ∧
        exec (.barWt h f) s = .next t ∧ t.stOf (.frag g e) = .waiting (.barrier (f.imm.toNat % 16) p) ∧
        t.pcOf (.frag g e) = s.pcOf (.frag g e) ∧ OnlyRegs s t (.frag g e) [] [] [])) ∧
    ∀ p, s.stOf (.frag g e) = .waiting (.barrier (f.imm.toNat % 16) p) →
      (s.phaseOpen g (f.imm.toNat % 16) p = false → ∃ t, exec (.barWt h f) s = .next t ∧ OnlyRetires s t (.frag g e)) ∧
      (s.phaseOpen g (f.imm.toNat % 16) p = true → ∃ t, exec (.barWt h f) s = .next t ∧
        t.stOf (.frag g e) = s.stOf (.frag g e) ∧ t.pcOf (.frag g e) = s.pcOf (.frag g e) ∧ OnlyRegs s t (.frag g e) [] [] [])) ∧
  ∀ h (f : IForm) s a, Acts s a h →
    (s.ldOf a ≤ (f.imm.extractLsb' 0 6).toNat ∧ s.stcOf a ≤ (f.imm.extractLsb' 8 6).toNat ∧
        s.ecOf a ≤ (f.imm.extractLsb' 16 5).toNat ∧ s.trOf a ≤ (f.imm.extractLsb' 24 4).toNat →
      ∃ t, exec (.waitcnt h f) s = .next t ∧ OnlyRetires s t a) ∧
    (¬(s.ldOf a ≤ (f.imm.extractLsb' 0 6).toNat ∧ s.stcOf a ≤ (f.imm.extractLsb' 8 6).toNat ∧
        s.ecOf a ≤ (f.imm.extractLsb' 16 5).toNat ∧ s.trOf a ≤ (f.imm.extractLsb' 24 4).toNat) →
      ∃ t, exec (.waitcnt h f) s = .next t ∧ t.stOf a = .waiting (.counts f.imm) ∧ t.pcOf a = s.pcOf a ∧
        OnlyRegs s t a [] [] [])

/-- trap raises 0x12 and brk 0x11 with imm32 as the code and the lanes whose guard is true; in the group's handler when
TRAPVEC selects the cause (v255 receives the record, TRAPPC the next PC), otherwise to the fault queue. sys.rfe returns from
the handler: PC from TRAPPC, privilege from TRAPST[8], INH cleared; a TRAPPC that is not a multiple of 4 raises misaligned
(0x04) (R12, R144, R234, R350). -/
def Obligations.TrapsAndReturn : Prop :=
  (∀ h (f : IForm) s a, Acts s a h → ∀ c ∈ [((Instr.trap : Hdr → IForm → Instr), 0x12, 7), (Instr.brk, 0x11, 6)], ∃ t r,
    exec (c.1 h f) s = .next t ∧ r = s.mkRec a c.2.1 f.imm 0#64 (s.guardMask a h) 0 ∧ r.cause = c.2.1 ∧ r.code = f.imm ∧
      r.pc = s.pcOf a ∧
      (∀ g e, a = .frag g e → Claim.Handles s g c.2.2 → Claim.InHandler s t g e r (s.pcOf a + 12#64)) ∧
      ((∀ g e, a = .frag g e → s.trapvec.getLsbD c.2.2 = false ∨ ∀ G, s.grps.get? g = some G → G.trapst.getLsbD 9 = true) →
        Claim.ToQueue s t a r)) ∧
  ∀ h f s g e G F, Claim.Alone s g e G F → s.guardMask (.frag g e) h ≠ 0#64 → F.sup = true → F.handler = true →
    G.trapst.getLsbD 9 = true →
    (G.trappc.toNat % 4 = 0 → ∃ t H, exec (.sysRfe h f) s = .next t ∧ t.grps.get? g = some H ∧
      (H.frags.get? e).map (fun X => (X.pc, X.sup, X.handler, X.st, X.mask)) =
        some (G.trappc, G.trapst.getLsbD 8, false, .ready, F.mask) ∧
      H.trapst = G.trapst &&& ~~~0x200#32 ∧ Leaves s t (.frag g e) [] [] [] (fun G => { G with trapst := G.trapst &&& ~~~0x200#32 }) id) ∧
    (G.trappc.toNat % 4 ≠ 0 → exec (.sysRfe h f) s =
      .next (s.raise (.frag g e) [s.mkRec (.frag g e) 4 0#32 G.trappc F.mask 0]))

/-- Loads, stores and atomics: each lane's exact address, operand bytes and compare value enter the machine as one request,
LD or ST rises by 1, the agent goes on, and nothing else changes; lanes that fault in the address phase are reported and no
access is made (R70, R124, R149, R150, R154, R156, R159, R160). -/
def Obligations.MemoryInstructions : Prop :=
  (∀ c ∈ Claim.vectorMem, ∀ h f s g e, Claim.MemIssues s (.frag g e) h (c.1 h f)
    (Claim.vecSpec s g e h f c.2.1 c.2.2.1 c.2.2.2) (lastReadRegs (memOpnds h f c.2.2.1))) ∧
  (∀ h f s g e, Claim.MemIssues s (.frag g e) h (.vLdc h f) (Claim.constSpec s g e h f) []) ∧
  (∀ h f s g e, Claim.MemIssues s (.frag g e) h (.vSld h f) (Claim.stringSpec s g e h f)
    (lastReadRegs [⟨f.a, subSpace f.sub == .global, h.lra⟩, ⟨f.b, false, h.lrb⟩])) ∧
  (∀ h f s a, Claim.MemIssues s a h (.sLd h f) (Claim.scalarSpec s a f .load) [] ∧
    Claim.MemIssues s a h (.sSt h f) (Claim.scalarSpec s a f .store) []) ∧
  ∀ c ∈ Claim.atomics, ∀ h f s g e, Claim.MemIssues s (.frag g e) h (c.1 h f) (Claim.atomSpec s g e h f c.2.1 c.2.2)
    (lastReadRegs (Claim.atomSrcs h f c.2.1))

/-- The address phase changes nothing but what translation touches at its homes; a scratch or window offset that is
misaligned raises 0x04, one outside the bound 0x0C, and a slot of no group or no joined team 0x0D; an offset in a bank
between two roles waits for the switch point (R149-R151; the wait is the model's reading of R314 and R319, log 24). -/
def Obligations.AddressPhase : Prop :=
  (∀ s a m xs, s.swatches = [] → Claim.besidesHomes (s.addressPhase a m xs).1 = Claim.besidesHomes s ∧
    (m.space ≠ .global → (s.addressPhase a m xs).1 = s)) ∧
  ∀ (s : State) a t T sp (x : Int) (n : Nat), s.taskIdOf a = some t → s.taskOf a = some T → 0 < n → sp ≠ .global →
    (x % n ≠ 0 → s.checkLocal a sp x n = .error ⟨4, 0, 4096, none⟩) ∧
    (x % n = 0 → x < 0 → s.checkLocal a sp x n = .error ⟨0x0C, 0, 4096, none⟩) ∧
    (x % n = 0 → 0 ≤ x → sp = .scratch → s.checkLocal a sp x n =
      if T.scratch < x.toNat + n then .error ⟨0x0C, 0, 4096, none⟩
      else if s.switchingAt T x.toNat then .error (.waits (.switching t)) else .ok (.bank t x.toNat false)) ∧
    (x % n = 0 → 0 ≤ x → sp = .window → 2 ^ 23 ≤ x → s.checkLocal a sp x n = .error ⟨0x0C, 0, 4096, none⟩) ∧
    (x % n = 0 → 0 ≤ x → sp = .window → x < 2 ^ 23 → T.share = none → s.checkLocal a sp x n = .error ⟨0x0D, 0, 4096, none⟩) ∧
    ∀ k j, x % n = 0 → 0 ≤ x → sp = .window → x < 2 ^ 23 → T.share = some (k, j) →
      ((∀ q ∈ (s.shareOf (s.cluOf a) k).1, q.1 ≠ x.toNat / 524288) → s.checkLocal a sp x n = .error ⟨0x0D, 0, 4096, none⟩) ∧
      ∀ m M, ((s.shareOf (s.cluOf a) k).1.find? fun q => q.1 == x.toNat / 524288) = some (x.toNat / 524288, m) →
        s.tasks.get? m = some M → M.st = .resident → s.checkLocal a sp x n =
          if M.scratch < x.toNat % 524288 + n then .error ⟨0x0C, 0, 4096, none⟩
          else if s.switchingAt M (x.toNat % 524288) then .error (.waits (.switching m))
          else .ok (.bank m (x.toNat % 524288) false)

/-- Translation with no entry cached and no holder of a line it needs: the walk's leaf gives the physical address, page size, grain and policy, and A (for a
write also D) is set in the leaf; an entry that ends the walk raises 0x05 with its level as CODE; and a check of the leaf
that fails raises its cause. Of memory only the leaf and the frame's entry may change (R358-R363). -/
def Obligations.Translation : Prop :=
  ∀ s asid sup va acc, s.ptes = [] → s.xhist = [] → s.swatches = [] → s.heldTrees = [] →
    (∀ who w pa n, s.dirConflict who w pa n = false) → s.mem.wf = true → Claim.Canonical sup va →
    (∀ pa level v, Claim.WalksFromRoot s asid va.toNat (fun l p x => (l, p, x) = (level, pa, v) ∧ pteKind l x = .leaf) →
      pteSz v = 0 → listed (leafPa level v va.toNat) = true →
      (s.leafCheck v (leafPa level v va.toNat) va.toNat acc sup = none →
        (∀ k < 8, s.ftAddr (leafPa level v va.toNat) ≠ some (pa + k)) → ∃ s1,
        s.translate asid sup va acc = (s1, .ok ⟨s.ownWindow (leafPa level v va.toNat), leafBytes level v, 32 * 4 ^ pteGrain v,
          State.policyOf (ptePol v)⟩) ∧
        s1.pteAt pa = v ||| 0x40#64 ||| (if acc.writes then 0x80#64 else 0#64) ∧
        (∀ x, (x < pa ∨ pa + 8 ≤ x) → s.ftAddr (leafPa level v va.toNat) ≠ some x → s1.mem.read x = s.mem.read x) ∧
        Claim.besidesHomes s1 = Claim.besidesHomes s) ∧
      ∀ c, s.leafCheck v (leafPa level v va.toNat) va.toNat acc sup = some c →
        s.translate asid sup va acc = (s, .error ⟨c, 0, leafBytes level v, none⟩)) ∧
    ∀ level rsv, Claim.WalksFromRoot s asid va.toNat (fun l _ x => l = level ∧ pteKind l x = .bad rsv) →
      s.translate asid sup va acc = (s, .error ⟨5, level + (if rsv then 8 else 0), 4096, none⟩)

/-- The order in which homes may serve one fragment's accesses: an access to bytes that an older one has still to reach
waits, a write waits for older reads, and a release for everything older, but that one narrower than .sys does not wait for
writes off the package (R153, R155, R292, R307); an access that no order rule lets through is not served. -/
def Obligations.MemoryOrder : Prop :=
  (∀ (s : State) id r p q u, q ∈ s.olderThan id r → u ∈ q.lanes → u.got = none →
    (Place.overlap u.loc u.size p.loc p.size = true → s.orderAllows id r p = false) ∧
    (r.op.writes = true → q.op.inLd = true → s.orderAllows id r p = false) ∧
    (releases r.order = true → r.scope = .sys ∨ q.op.writes = false ∨ u.loc.remote = false → s.orderAllows id r p = false)) ∧
  ∀ s id r, s.reqs.get? id = some r → (∀ p ∈ r.lanes, s.orderAllows id r p = false) → exec (.homeAccess id) s = .next s

/-- HOME_ACCESS: a store's bytes and an atomic's new value are in memory and every other byte is as before, an atomic of
place .auto or .near possibly in the line that its group then holds instead; a load receives the bytes, an atomic the old
value (R160-R162, R296, R297). A unit that a holder or a request that arrived before it holds up changes no memory and is
not answered (R402). -/
def Obligations.HomeServes : Prop :=
  (∀ s id r p pa, Claim.OneUnit s id r p pa → r.op = .load → ∃ t, exec (.homeAccess id) s = .next t ∧ t.mem = s.mem ∧
    Claim.answered t id = some [some (s.mem.readBytes pa p.size)] ∧ t.tasks = s.tasks) ∧
  (∀ s id r p pa, Claim.OneUnit s id r p pa → r.op = .store → s.mem.wf = true → p.data.length = p.size → ∃ t, exec (.homeAccess id) s = .next t ∧
    Claim.Wrote s t pa p.data ∧ Claim.answered t id = some [some []] ∧ t.tasks = s.tasks) ∧
  (∀ s id r p pa op ty ret, Claim.OneUnit s id r p pa → r.op = .atom op ty ret → s.mem.wf = true →
    (1 ≤ op ∧ op ≤ 9 ∨ op = 13) → (ty = .s32 ∨ ty = .n32 → p.size = 4) → (ty = .s64 ∨ ty = .n64 → p.size = 8) →
    ty = .s32 ∨ ty = .n32 ∨ ty = .s64 ∨ ty = .n64 → p.data.length = p.size → p.cmp.length = p.size →
    s.hasAgent r.agent = true → (r.place < 2 → s.dirConflict (s.agentId r.agent) true (pa / 128 * 128) 128 = false ∧
      s.dirRoom (2 * (pa / 128)) = (s, true)) → ∀ new, new = (if p.size = 4 then
        Memory.leBytes 4 (Claim.atomInt op (ty = .s32) (BitVec.ofNat 32 (s.mem.readNat pa 4)) (BitVec.ofNat 32 (natOfBytes p.data))
          (BitVec.ofNat 32 (natOfBytes p.cmp))).toNat
        else Memory.leBytes 8 (Claim.atomInt op (ty = .s64) (BitVec.ofNat 64 (s.mem.readNat pa 8))
          (BitVec.ofNat 64 (natOfBytes p.data)) (BitVec.ofNat 64 (natOfBytes p.cmp))).toNat) →
    ∃ t, exec (.homeAccess id) s = .next t ∧ Claim.answered t id = some [some (s.mem.readBytes pa p.size)] ∧
      (Claim.Wrote s t pa new ∨ (r.place < 2 ∧ MemSame s t ∧ t.seenBytes r.agent pa p.size = new))) ∧
  ∀ s id r p pa gr pol, s.reqs.get? id = some r → r.lanes = [p] → p.loc = .mem pa gr pol →
    s.dirConflict r.who r.op.writes pa p.size = true ∨ s.queuedAhead (.req id) pa p.size = true →
    ∃ t, exec (.homeAccess id) s = .next t ∧ t.mem = s.mem ∧ Claim.answered t id = Claim.answered s id ∧ t.tasks = s.tasks

/-- LOAD_REPLY writes what the homes answered to the result's registers that no younger instruction wrote and lowers LD;
STORE_ACKNOWLEDGE lowers ST; neither acts before every home has answered (R70, R142, R150, R156). -/
def Obligations.Results : Prop :=
  (∀ s id r g e, s.reqs.get? id = some r → r.agent = .frag g e → s.hasAgent (.frag g e) = true → r.op = .load ∨ (∃ op ty, r.op = .atom op ty true) →
    Req.served r = true → ∀ d, r.dst = some (.vec, d) → ∃ t, exec (.loadReply id) s = .next t ∧ t.mem = s.mem ∧
      t.reqs = s.reqs.erase id ∧ t.ldOf (.frag g e) = s.ldOf (.frag g e) - 1 ∧
      (∀ k < r.regs, ∀ l < 64, laneOf t g (d + k) l =
        if r.part.getLsbD l = true ∧ ¬∃ q ∈ r.overwritten, q.1 = d + k ∧ q.2.getLsbD l = true then (r.word l (4 * k)).getD (laneOf s g (d + k) l)
        else laneOf s g (d + k) l) ∧
      ∀ v, v ∉ dstRegs d r.regs → ∀ l < 64, laneOf t g v l = laneOf s g v l) ∧
  (∀ s id r, s.reqs.get? id = some r → s.hasAgent r.agent = true → r.op = .load → Req.served r = true → ∀ d, r.dst = some (.scl, d) →
    ∃ t, exec (.loadReply id) s = .next t ∧ t.mem = s.mem ∧ t.reqs = s.reqs.erase id ∧ t.ldOf r.agent = s.ldOf r.agent - 1 ∧
      (∀ k < r.regs, d + k < 128 → t.sget r.agent (d + k) = if ∃ q ∈ r.overwritten, q.1 = d + k then s.sget r.agent (d + k)
        else (r.word 0 (4 * k)).getD (s.sget r.agent (d + k))) ∧
      ∀ x, x ∉ dstRegs d r.regs → t.sget r.agent x = s.sget r.agent x) ∧
  (∀ s id r, s.reqs.get? id = some r → s.hasAgent r.agent = true → r.op = .store ∨ (∃ op ty, r.op = .atom op ty false) →
    (Req.served r = true → ∃ t, exec (.storeAcknowledge id) s = .next t ∧ t.reqs = s.reqs.erase id ∧
      t.stcOf r.agent = s.stcOf r.agent - 1 ∧ t.mem = s.mem ∧ ∀ x, t.sget r.agent x = s.sget r.agent x) ∧
    (Req.served r = false → exec (.storeAcknowledge id) s = .next s)) ∧
  ∀ s id r, s.reqs.get? id = some r → r.op = .load → Req.served r = false → exec (.loadReply id) s = .next s

/-- v.pf changes no register and counts in no count but that of the measured lease; where no lane's address is aligned every
lane is dropped, and only the homes that translation touches change (R157, R269). -/
def Obligations.Prefetches : Prop :=
  ∀ h f s g e, Runs s (.frag g e) → s.guardMask (.frag g e) h ≠ 0#64 → s.reqs = [] → s.swatches = [] →
    (∀ G, s.grps.get? g = some G → G.frags.length ≤ 1) → (∀ T, s.taskOf (.frag g e) = some T → T.maps = []) →
    (∀ who w pa n, s.dirConflict who w pa n = false) →
    ∃ u t ls, exec (.vPf h f) s = .next t ∧ u.grps = s.grps ∧ u.ks = s.ks ∧ u.reqs = s.reqs ∧ u.pends = s.pends ∧
      Leaves u t (.frag g e) [] [] (lastReadRegs (memOpnds h f .global)) (Claim.noted ls) id ∧ QueuesStay u t ∧ Advances u t (.frag g e) ∧
      ((∀ l < 64, (wrapAddr (Claim.laneAddr s g e f .global true l)).toNat % szBytes f.size ≠ 0) →
        Claim.besidesHomes u = Claim.besidesHomes s ∧ Claim.sampled ls = [])

/-- FIFOs: a push appends the participating lanes' entries and a pop removes as many, in ascending lane order, low word
first; one without room or entries waits, and a bank not in the FIFO role or not in the team's rights raises 0x0C
(R158). -/
def Obligations.Fifos : Prop :=
  ∀ h (f : NForm) s g e k w part, Runs s (.frag g e) → part = s.guardMask (.frag g e) h → part ≠ 0#64 → s.reqs = [] →
    (∀ G, s.grps.get? g = some G → G.frags.length ≤ 1) → f.b.cls = .scl → k = (Claim.reg s (.frag g e) f.b).toNat % 32 → w = wideTy f.ty →
    (fifoBank s (.frag g e) k = none → exec (.vFifoPush h f) s =
      .next (s.raise (.frag g e) [s.mkRec (.frag g e) 0x0C 0#32 0#64 part 2])) ∧
    (fifoBank s (.frag g e) k = none → RoomFor s g (dstRegs f.d.idx.toNat (if w then 2 else 1)) → exec (.vFifoPop h f) s =
      .next (s.raise (.frag g e) [s.mkRec (.frag g e) 0x0C 0#32 0#64 part 1])) ∧
    ∀ b n, fifoBank s (.frag g e) k = some b → b.waiters = [] → n = Claim.ones part * (if w then 2 else 1) →
      (b.fifo.length + n ≤ 4096 → ∃ t, exec (.vFifoPush h f) s = .next t ∧
        (Claim.bankOf t (s.coreOf (.frag g e)) k).fifo = b.fifo ++ (lanesOf part).flatMap (fun l =>
          let x := Claim.src s g e [⟨f.a, w, false⟩] 0#6 0 l
          if w then [lo32 x, hi32 x] else [lo32 x]) ∧ MemSame s t ∧ Advances s t (.frag g e)) ∧
      (4096 < b.fifo.length + n → ∃ t, exec (.vFifoPush h f) s = .next t ∧ t.stOf (.frag g e) = .waiting (.fifo k n true) ∧
        t.pcOf (.frag g e) = s.pcOf (.frag g e) ∧ (Claim.bankOf t (s.coreOf (.frag g e)) k).fifo = b.fifo) ∧
      (RoomFor s g (dstRegs f.d.idx.toNat (if w then 2 else 1)) → n ≤ b.fifo.length → ∃ u t, exec (.vFifoPop h f) s = .next t ∧
        u.grps = s.grps ∧ (Claim.bankOf u (s.coreOf (.frag g e)) k).fifo = b.fifo.drop n ∧
        VecDone u t g e f.d.idx.toNat w [] (((List.range (Claim.ones part)).zip (lanesOf part)).map fun q =>
          (q.2, if w then pairOf (b.fifo.getD (2 * q.1) 0#32) (b.fifo.getD (2 * q.1 + 1) 0#32)
            else (b.fifo.getD q.1 0#32).setWidth 64)) ∧ MemSame s t) ∧
      (RoomFor s g (dstRegs f.d.idx.toNat (if w then 2 else 1)) → b.fifo.length < n → ∃ t, exec (.vFifoPop h f) s = .next t ∧
        t.stOf (.frag g e) = .waiting (.fifo k n false) ∧ t.pcOf (.frag g e) = s.pcOf (.frag g e) ∧
        (Claim.bankOf t (s.coreOf (.frag g e)) k).fifo = b.fifo)

/-- Deterministic reductions: red.det changes no location and folds its lanes in ascending order into the group's partial;
red.flush.drain moves partials to their homes' staging tables; red.flush.commit adds the staged partials to memory, a NaN
becoming the canonical one, and returns whether the order was not fixed (R163, R164). -/
def Obligations.DetReductions : Prop :=
  (∀ h f s g e s1 ps us pa gr pol G, Runs s (.frag g e) → s.guardMask (.frag g e) h ≠ 0#64 →
    Claim.MemReady s (.frag g e) (Claim.detSpec s g e h f) → releases f.order = false →
    Claim.Passes s s1 (.frag g e) (Claim.detSpec s g e h f) ps us → (∀ p ∈ us, p.loc = .mem pa gr pol) → us ≠ [] →
    (∀ T, s.taskOf (.frag g e) = some T → T.maps = []) → s1.grps.get? g = some G → G.partials = [] →
    ((s1.partitionGroups (s1.coreOfGrp g) G.partition).flatMap fun q => q.2.partials).length < 64 →
    ∃ t q, exec (.redDet h f) s = .next t ∧ MemSame s1 t ∧ q.pa = pa ∧ q.f64 = (szBytes f.size == 8) ∧
      q.val = Claim.laneSum (szBytes f.size == 8) us ∧
      Leaves s1 t (.frag g e) [] [] (lastReadRegs [⟨f.a, true, h.lra⟩])
        (fun G => { Claim.noted (us.map (·.loc)) G with stc := G.stc + 1, partials := [q] }) id ∧ Advances s1 t (.frag g e)) ∧
  (∀ h f s g e G p, Acts s (.frag g e) h → s.reqs = [] → s.grps.get? g = some G → G.partials = [p] →
    (s.staging.getD (s.homeOf p.pa) []).length < 1024 → (∀ q ∈ s.staging.getD (s.homeOf p.pa) [], q.key ≠ detKey s g) →
    ∃ t, exec (.redFlushDrain h f) s = .next t ∧ MemSame s t ∧ (t.grps.get? g).map (·.partials) = some [] ∧
      t.staging.getD (s.homeOf p.pa) [] = s.staging.getD (s.homeOf p.pa) [] ++
        [{ key := detKey s g, pa := p.pa, f64 := p.f64, launch := s.launchIdOf (.frag g e), parts := [(g / 16, p.val)] }] ∧
      Advances s t (.frag g e)) ∧
  ∀ h f s g e sl p, Acts s (.frag g e) h → s.reqs = [] → s.staging = [(sl, [p])] → p.launch = s.launchIdOf (.frag g e) → s.mem.wf = true →
    s.heldTrees = [] → s.swatches = [] → s.homeError p.pa (Claim.detBytes p.f64) .atomic = none →
    s.dirConflict (idMortar (s.homeOf p.pa)) true p.pa (Claim.detBytes p.f64) = false →
    ∃ t, exec (.redFlushCommit h f) s = .next t ∧ t.staging = [] ∧
      Claim.Wrote s t p.pa (Memory.leBytes (Claim.detBytes p.f64) (Claim.canonical p.f64
        (Claim.detSum p.f64 (BitVec.ofNat 64 (s.mem.readNat p.pa (Claim.detBytes p.f64))) (Staged.val p))).toNat) ∧
      t.sget (.frag g e) f.d.idx.toNat = (if ((s.launches.get? p.launch).map (·.nf)) = some true then 1#32 else 0#32) ∧
      (∀ i, i ≠ f.d.idx.toNat → t.sget (.frag g e) i = s.sget (.frag g e) i) ∧ Advances s t (.frag g e)

/-- lease.acq takes the line of its address exclusive for LLIM clocks, with what near atomics wrote under it, or sets D := 0 and
holds nothing, or waits for another holder; lease.rel returns the line, whose bytes are then those written under it, and
tells whether the lease was broken (R165, R166). -/
def Obligations.LineLeases : Prop :=
  ∀ h (f : MForm) s s1 g e G pa gr pol N, Acts s (.frag g e) h → s.reqs = [] → Claim.AtMemory s s1 (.frag g e) f 1 pa gr pol →
    s1.grps.get? g = some G → N = s1.noteLines (.frag g e) [.mem pa gr pol] →
    (s1.leases g (pa / 128) = true → ∃ t, exec (.leaseAcq h f) s = .next t ∧
      PredDone N t (.frag g e) f.d.idx.toNat [] (s1.maskOfAgent (.frag g e)) (s1.maskOfAgent (.frag g e))) ∧
    (s1.leases g (pa / 128) = false → 4 ≤ s1.leaseCount g ∨ pol ≠ .dflt ∨ isRemote pa = true →
      ∃ t, exec (.leaseAcq h f) s = .next t ∧ PredDone N t (.frag g e) f.d.idx.toNat [] (s1.maskOfAgent (.frag g e)) 0#64) ∧
    (s1.leases g (pa / 128) = false → s1.leaseCount g < 4 → pol = .dflt → isRemote pa = false →
      s1.dirConflict (s1.grpId g) true (pa / 128 * 128) 128 = true → ∃ t, exec (.leaseAcq h f) s = .next t ∧
        t.stOf (.frag g e) = .waiting (.lease (pa / 128)) ∧ t.pcOf (.frag g e) = s1.pcOf (.frag g e)) ∧
    (s1.leases g (pa / 128) = false → s1.leaseCount g < 4 → pol = .dflt → isRemote pa = false → s1.swatches = [] →
      s1.dirConflict (s1.grpId g) true (pa / 128 * 128) 128 = false → s1.homeError pa 1 .exclusive = none →
      s1.dirRoom (2 * (pa / 128)) = (s1, true) → (s1.core (s1.coreOfGrp g)).l1.wf = true → ∃ t, exec (.leaseAcq h f) s = .next t ∧ MemSame s1 t ∧
        (t.grps.get? g).map (·.leases) = some (G.leases.filter (·.line != pa / 128) ++
          [{ line := pa / 128, expiry := s1.clk + llim G.leasectl, near := false,
             dirty := ((s1.holdOn g (pa / 128)).map (·.dirty)).getD [] }]) ∧
        t.leases g (pa / 128) = true ∧ ((t.core (s1.coreOfGrp g)).l1.get? (pa / 128)).isNone ∧
        (f.d.idx.toNat < 15 → t.predOf (.frag g e) f.d.idx.toNat =
          s1.predOf (.frag g e) f.d.idx.toNat ||| s1.maskOfAgent (.frag g e)) ∧ Advances s1 t (.frag g e)) ∧
    (releases f.order = false → s1.swatches = [] → s1.heldTrees = [] → s1.mem.wf = true → (∀ l ∈ G.leases, l.dirty.wf = true) →
      ∃ t, exec (.leaseRel h f) s = .next t ∧
        (∀ x, t.mem.read x = if s1.leases g (pa / 128) then
            ((s1.holdOn g (pa / 128)).bind (·.dirty.get? x)).getD (s1.mem.read x) else s1.mem.read x) ∧
        (f.d.idx.toNat < 15 → t.predOf (.frag g e) f.d.idx.toNat =
          (s1.predOf (.frag g e) f.d.idx.toNat &&& ~~~s1.maskOfAgent (.frag g e)) |||
            (if s1.leases g (pa / 128) then 0#64 else s1.maskOfAgent (.frag g e))) ∧
        (t.grps.get? g).map (·.leases) = some (if s1.leases g (pa / 128) then G.leases.filter (·.line != pa / 128) else G.leases) ∧
        Advances s1 t (.frag g e))

/-- wait.addr returns 0 when the value differs from B; otherwise it watches the grain of the address and waits, its PC
kept, and once woken returns the cause (R167). -/
def Obligations.WaitsOnAddress : Prop :=
  ∀ h (f : MForm) s g e, Acts s (.frag g e) h →
    (∀ s1 pa gr pol want, s.reqs = [] → (∀ id, s.stOf (.frag g e) ≠ .waiting (.address id)) →
      Claim.AtMemory s s1 (.frag g e) f (szBytes f.size) pa gr pol → want = readScl s (.frag g e) f.b (szBytes f.size == 8) →
      isRemote pa = false → s1.dirConflict (s1.grpId g) false pa (szBytes f.size) = false → s1.holdOn g (pa / 128) = none →
      s1.homeError pa (szBytes f.size) .read = none → s1.swatches = [] → s1.hasAgent (.frag g e) = true →
      (BitVec.ofNat 64 (s1.mem.readNat pa (szBytes f.size)) ≠ want → ∃ t, exec (.waitAddr h f) s = .next t ∧
        t.sget (.frag g e) f.d.idx.toNat = 0#32 ∧ (∀ i, i ≠ f.d.idx.toNat → t.sget (.frag g e) i = s1.sget (.frag g e) i) ∧
        MemSame s1 t ∧ t.watches = s1.watches ∧ Advances s1 t (.frag g e)) ∧
      (BitVec.ofNat 64 (s1.mem.readNat pa (szBytes f.size)) = want → ∃ t id w, exec (.waitAddr h f) s = .next t ∧
        t.watches = s1.watches ++ [w] ∧ w.id = id ∧ w.who = .frag g e ∧ w.grain = pa / gr * gr ∧ w.size = gr ∧ w.cause = none ∧
        t.stOf (.frag g e) = .waiting (.address id) ∧ t.pcOf (.frag g e) = s1.pcOf (.frag g e) ∧ MemSame s1 t)) ∧
    ∀ id w c, s.stOf (.frag g e) = .waiting (.address id) → s.watches.find? (·.id == id) = some w → w.woken = true →
      w.cause = some c → ∃ t, exec (.waitAddr h f) s = .next t ∧
        SclDone { s with watches := s.watches.filter (·.id != id) } t (.frag g e) f.d.idx.toNat false (BitVec.ofNat 64 c)

/-- Fences: with every earlier access performed, a fence raises its core's logical time to the release time, then to the
time of the reads, and goes on; with one open it waits. fence.code publishes the fragment's sectors in frames that may
execute and raises code time to the visibility times of their writes; fence.eng goes on once every earlier write has taken effect (R168-R170, R298, R305). -/
def Obligations.Fences : Prop :=
  (∀ h f s g e c, Acts s (.frag g e) h → s.reqs = [] → c = s.coreOf (.frag g e) →
    (releases f.order = true → f.scope = .sys → s.offAcksOf (.frag g e) = 0 ∧ s.lostOf (.frag g e) = none) →
    ∃ t, exec (.fence h f) s = .next t ∧ MemSame s t ∧ Advances s t (.frag g e) ∧
      Claim.coreTime t c = max (max (Claim.coreTime s c)
        (if releases f.order && wideScope f.scope then s.relTs (.frag g e) (s.maskOfAgent (.frag g e)) else 0))
        (if acquires f.order && wideScope f.scope then s.acqTs (.frag g e) (s.maskOfAgent (.frag g e)) else 0)) ∧
  (∀ h f s a, Acts s a h → s.quiet a = false → releases f.order = true → ∃ t, exec (.fence h f) s = .next t ∧
    t.stOf a = .waiting .release ∧ t.pcOf a = s.pcOf a ∧ OnlyRegs s t a [] [] []) ∧
  (∀ h f s g e G, Acts s (.frag g e) h → s.writesDone (.frag g e) = true → s.coreOf (.frag g e) < 192 → s.grps.get? g = some G →
    G.leases = [] → ∃ t, exec (.fenceCode h f) s = .next t ∧
    (∀ x, x ∈ t.published ↔ x ∈ s.published ∨ s.exc (x * 32) = true ∧
      ∃ p ∈ G.written, p.1 &&& s.maskOfAgent (.frag g e) ≠ 0#64 ∧ ∃ v, (x, v) ∈ p.2) ∧
    (∀ p ∈ G.written, p.1 &&& s.maskOfAgent (.frag g e) ≠ 0#64 → ∀ x v, (x, v) ∈ p.2 → s.exc (x * 32) = true →
      v ≤ (t.core (s.coreOf (.frag g e))).kt) ∧
    MemSame s t ∧ Advances s t (.frag g e)) ∧
  ∀ h f s a, Acts s a h →
    (s.writesDone a = true → ∃ t, exec (.fenceEng h f) s = .next t ∧ OnlyRetires s t a) ∧
    (s.writesDone a = false → ∃ t, exec (.fenceEng h f) s = .next t ∧ t.stOf a = .waiting .release ∧ t.pcOf a = s.pcOf a ∧
      OnlyRegs s t a [] [] [])

/-- Banks: bank.qry shows each bank's role in two bits; bank.cfg waits for its team's earlier changes, then returns its
status, or puts its banks in transition and returns 0 once each has switched; the switch point gives a bank its role, scratch reading zero and joining the end of the
team's space; sharing groups give slots in order (R171-R173, R317, R318, R320). -/
def Obligations.Banks : Prop :=
  (∀ h f s g e, Acts s (.frag g e) h → ∃ t x, exec (.bankQry h f) s = .next t ∧ SclDone s t (.frag g e) f.d.idx.toNat true x ∧
    ∀ k < 32, (x.toNat / 4 ^ k) % 4 = (Claim.bankOf s (s.coreOf (.frag g e)) k).role.code) ∧
  (∀ h s g e t T d mask role, Acts s (.frag g e) h → s.taskIdOf (.frag g e) = some t → s.tasks.get? t = some T → role ≤ 2 →
    (∀ i, (∃ f : IForm, i = Instr.bankCfgImm h f ∧ f.d = d ∧ f.a = mask ∧ f.imm.toNat = role) ∨
      (∃ f : NForm, i = Instr.bankCfg h f ∧ f.d = d ∧ f.a = mask ∧ f.b.cls = .scl ∧ (Claim.reg s (.frag g e) f.b).toNat = role) →
      mask.cls = .scl →
      (∀ ids, s.stOf (.frag g e) = .waiting (.banks ids true) →
        ∃ u, exec i s = .next u ∧ SclDone s u (.frag g e) d.idx.toNat false 0#64) ∧
      (∀ x r, s.stOf (.frag g e) = .ready → s.ownSwitches T.core t = x :: r → ∃ u, exec i s = .next u ∧
        u.stOf (.frag g e) = .waiting (.banks (x :: r) false) ∧ u.pcOf (.frag g e) = s.pcOf (.frag g e) ∧
        OnlyRegs s u (.frag g e) [] [] []) ∧
      (s.stOf (.frag g e) = .ready → s.ownSwitches T.core t = [] →
        ((∃ k ∈ banksOf (Claim.reg s (.frag g e) mask), k ∉ s.bankRights t) → ∃ u, exec i s = .next u ∧
          SclDone s u (.frag g e) d.idx.toNat false 1#64) ∧
        ((∀ j ∈ banksOf (Claim.reg s (.frag g e) mask), j ∈ s.bankRights t ∧ (Claim.bankOf s T.core j).role = roleOf role) →
          ∃ u, exec i s = .next u ∧ SclDone s u (.frag g e) d.idx.toNat false 0#64) ∧
        (banksOf (Claim.reg s (.frag g e) mask) ≠ [] → role ≠ 0 →
          (∀ j ∈ banksOf (Claim.reg s (.frag g e) mask), j ∈ s.bankRights t ∧ (Claim.bankOf s T.core j).role = .cache) →
          ∃ u ids, exec i s = .next u ∧ u.stOf (.frag g e) = .waiting (.banks ids true) ∧ u.pcOf (.frag g e) = s.pcOf (.frag g e) ∧
            ∀ j ∈ banksOf (Claim.reg s (.frag g e) mask), (Claim.bankOf u T.core j).role = .switching role ∧
              (Claim.bankOf u T.core j).holder = some t)))) ∧
  (∀ s c k w rest t T, (s.core c).switches = w :: rest → w.bank = k → w.role = 1 → w.task = t → s.switchReady w = true →
    s.tasks.get? t = some T → k ∉ T.banks → ∃ u, exec (.bankSwitchPoint c k) s = .next u ∧
      (Claim.bankOf u c k).role = .scratch ∧ (Claim.bankOf u c k).data = [] ∧ (Claim.bankOf u c k).holder = some t ∧
      (u.core c).switches = rest ∧
      (u.tasks.get? t).map (fun X => (X.banks, X.scratch)) = some (T.banks ++ [k], 16384 * (T.banks.length + 1))) ∧
  (∀ h (f : NForm) s g e t T ms n k, Acts s (.frag g e) h → s.taskIdOf (.frag g e) = some t → s.tasks.get? t = some T → f.a.cls = .scl →
    k = (Claim.reg s (.frag g e) f.a).toNat % 16 → s.shareOf (s.cluOf (.frag g e)) k = (ms, n) →
    (∀ j sl, T.share = some (j, sl) → ∃ u, exec (.shareJoin h f) s = .next u ∧
      SclDone s u (.frag g e) f.d.idx.toNat false (BitVec.ofNat 64 (if k = j then sl else 0xFFFFFFFE))) ∧
    (T.share = none → 16 ≤ n → ∃ u, exec (.shareJoin h f) s = .next u ∧
      SclDone s u (.frag g e) f.d.idx.toNat false 0xFFFFFFFF#64) ∧
    (T.share = none → n < 16 → ∃ u, exec (.shareJoin h f) s = .next u ∧ u.sget (.frag g e) f.d.idx.toNat = BitVec.ofNat 32 n ∧
      u.shareOf (s.cluOf (.frag g e)) k = (ms ++ [(n, t)], n + 1) ∧ (u.tasks.get? t).map (·.share) = some (some (k, n)) ∧
      Advances s u (.frag g e))) ∧
  ∀ h f s g e t T, Acts s (.frag g e) h → s.taskIdOf (.frag g e) = some t → s.tasks.get? t = some T →
    (s.windowUnderWay t = false → ∃ u, exec (.shareLeave h f) s = .next u ∧ (u.tasks.get? t).map (·.share) = some none ∧
      MemSame s u ∧ Advances s u (.frag g e)) ∧
    (s.windowUnderWay t = true → ∃ u, exec (.shareLeave h f) s = .next u ∧ u.stOf (.frag g e) = .waiting .shareLeave ∧
      OnlyRegs s u (.frag g e) [] [] [])

/-- Mapped scratch: sp.map gives its status and, when that is 0, adds the mapping with no chunk filled; sp.unmap with
discard and sp.inv drop chunks without writing them; sp.wb and sp.unmap of clean chunks write nothing (R174, R175). -/
def Obligations.MappedScratch : Prop :=
  ∀ h (f : NForm) s g e t T, Acts s (.frag g e) h → s.reqs = [] → s.taskIdOf (.frag g e) = some t → s.tasks.get? t = some T →
    f.a.cls = .scl → f.b.cls = .scl → f.c.cls = .scl →
    ∀ va off len, va = Claim.pair s (.frag g e) f.a → off = (Claim.reg s (.frag g e) f.b).toNat → len = (Claim.reg s (.frag g e) f.c).toNat →
      (va.toNat % 128 = 0 → off % 128 = 0 → ∀ st, st = mapStatus T va.toNat off len →
        (st ≠ 0 → ∃ u, exec (.spMap h f) s = .next u ∧ SclDone s u (.frag g e) f.d.idx.toNat false (BitVec.ofNat 64 st)) ∧
        (st = 0 → ∃ u, exec (.spMap h f) s = .next u ∧
          SclDone (Claim.withMaps s t (T.maps ++ [{ va := va, off := off, len := len, valid := [], dirty := [] }])) u (.frag g e)
            f.d.idx.toNat false 0#64)) ∧
      ((∀ m ∈ T.maps, m.va ≠ va) → ∃ u, exec (.spUnmap h f) s = .next u ∧
        SclDone s u (.frag g e) f.d.idx.toNat false 1#64) ∧
      (∀ m rest, T.maps = m :: rest → m.va = va → f.op = 1#5 ∨ m.dirty = [] → ∃ u, exec (.spUnmap h f) s = .next u ∧
        (u.tasks.get? t).map (·.maps) = some rest ∧ u.mem = s.mem ∧ u.sget (.frag g e) f.d.idx.toNat = 0#32 ∧
        Advances s u (.frag g e)) ∧
      ((∀ m ∈ T.maps, State.dirtyIn m va.toNat off = []) → ∃ u, exec (.spWb h f) s = .next u ∧ u.mem = s.mem ∧ u.tasks = s.tasks ∧
        Advances s u (.frag g e)) ∧
      ∃ u, exec (.spInv h f) s = .next u ∧ OnlyRetires (Claim.withMaps s t (T.maps.map fun m =>
        { m with valid := m.valid.filter fun c => !rangesMeet (m.va.toNat + 128 * c) 128 va.toNat off,
                 dirty := m.dirty.filter fun c => !rangesMeet (m.va.toNat + 128 * c) 128 va.toNat off })) u (.frag g e)

/-- Engine commands enter with the operands and flags that their entries name, KV commands with their block's address and
matrix commands with their descriptors and registers; a scratch range outside the team's scratch raises 0x0C and a block
that is not 64-byte aligned 0x04, and nothing is issued (R180-R182, R196, R197, R201, R208, R214-R220). -/
def Obligations.EngineCommands : Prop :=
  ∀ h s a,
    (∀ (f : EForm) dst src n, dst = readScl s a f.a (!f.flags.getLsbD 0) → src = readScl s a f.b (!f.flags.getLsbD 1) →
      n = (readScl s a f.c false).toNat →
      (Claim.Within s a f dst src n → Claim.CmdIssues s a h (.cp h f) (Claim.valueRegs f.d)
        (Claim.copyOf s a f (.plain (f.flags.getLsbD 0) (f.flags.getLsbD 1)) dst src n none) false) ∧
      (Acts s a h → f.flags.getLsbD 0 = true → Claim.scratchOf s a < dst.toNat + n → exec (.cp h f) s =
        .next (s.raiseAt a .write ⟨0x0C, 0, 4096, none⟩ dst)) ∧
      (Acts s a h → (f.flags.getLsbD 0 = true → dst.toNat + n ≤ Claim.scratchOf s a) → f.flags.getLsbD 1 = true →
        Claim.scratchOf s a < src.toNat + n → exec (.cp h f) s = .next (s.raiseAt a .read ⟨0x0C, 0, 4096, none⟩ src)) ∧
      (Claim.Within s a f dst 0#64 n → Claim.CmdIssues s a h (.cpFill h f) (Claim.valueRegs f.d)
        (Claim.copyOf s a f (.fill (lo32 (readScl s a f.b false)) (f.flags.getLsbD 0)) dst 0#64 n none) false) ∧
      (Claim.Within s a f dst 0#64 (Claim.listBytes n) → Claim.CmdIssues s a h (.cpGth h f) (Claim.valueRegs f.d)
        (Claim.copyOf s a f (.gather (f.flags.getLsbD 0)) dst (readScl s a f.b true) n (Claim.listBad n)) false) ∧
      (Claim.Within s a f 0#64 src (Claim.listBytes n) → Claim.CmdIssues s a h (.cpSct h f) (Claim.valueRegs f.d)
        (Claim.copyOf s a f (.scatter (f.flags.getLsbD 1)) (readScl s a f.a true) src n (Claim.listBad n)) false)) ∧
    (∀ (f : EForm) dst src n, dst = readScl s a f.a true → src = readScl s a f.b true → n = (readScl s a f.c false).toNat →
      (Claim.Within s a f dst src n →
        Claim.CmdIssues s a h (.cpMc h f) (Claim.valueRegs f.d) (Claim.copyOf s a f .multicast dst src n none) false ∧
        Claim.CmdIssues s a h (.cpX h f) (Claim.valueRegs f.d) (Claim.copyOf s a f .remote dst src n none) false) ∧
      (∀ e rows cols sp dp bad, e = 2 ^ (f.flags.toNat % 4) → rows = (s.sread a f.c.idx.toNat).toNat →
        cols = (s.sread a (f.c.idx.toNat + 1)).toNat → sp = (s.sread a (f.c.idx.toNat + 2)).toNat →
        dp = (s.sread a (f.c.idx.toNat + 3)).toNat → (bad = some 0x34 ∧ Claim.TransposeBad e rows cols sp dp ∨
          bad = none ∧ ¬Claim.TransposeBad e rows cols sp dp) →
        Claim.CmdIssues s a h (.mTr h f) (Claim.valueRegs f.d) (.copy f.chan.toNat
          (CopyCmd.fresh (.transpose e rows cols sp dp) dst src 0 0 false false false (s.pcOf a) bad)) false) ∧
      ∀ e ty op, ty = f.flags.toNat % 16 → op = f.flags.toNat / 16 % 4 → e = (if ty = 2 ∨ ty = 3 ∨ ty = 5 then 8 else 4) →
        dst.toNat % e = 0 → src.toNat % e = 0 → Claim.CmdIssues s a h (.mRed h f) (Claim.valueRegs f.d) (.copy f.chan.toNat
          (CopyCmd.fresh (.reduce ty op) dst src n 0 false false false (s.pcOf a) (if n % e = 0 then none else some 0x34))) false) ∧
    (∀ c ∈ Claim.kvCommands, ∀ (f : EForm) blk, blk = readScl s a f.a true →
      (blk.toNat % 64 = 0 → Claim.CmdIssues s a h (c.1 h f) (Claim.valueRegs f.d)
        (.kv { value := 0, seq := 0, op := c.2, block := blk, pc := s.pcOf a }) false) ∧
      (Acts s a h → blk.toNat % 64 ≠ 0 → exec (c.1 h f) s = .next (s.raiseAt a .both ⟨4, 0, 4096, none⟩ blk))) ∧
    (∀ f : KForm,
      Claim.CmdIssues s a h (.kMma h f) [] (Claim.matOf s a (.mma (f.d.idx.toNat - 16) f.a.idx.toNat f.afmt.toNat f.bfmt.toNat
        f.kc.toNat f.hold f.zacc f.bkind.toNat (if f.bkind = 0#2 ∨ f.bkind = 3#2 then Claim.fourRegs s a f.b else [])
        (f.sub.getLsbD 0) (if f.afmt = 26#5 ∨ f.bfmt = 26#5 then s.sread a f.c.idx.toNat else 0#32)
        (if f.afmt = 26#5 ∨ f.bfmt = 26#5 then s.sread a (f.c.idx.toNat + 1) else 0#32))) false ∧
      Claim.CmdIssues s a h (.kZero h f) [] (Claim.matOf s a (.zero (f.d.idx.toNat - 16))) false ∧
      Claim.CmdIssues s a h (.kScale h f) [] (Claim.matOf s a (.scale (f.d.idx.toNat - 16) f.sub.toNat (readScl s a f.c (f.sub == 1#5)))) false) ∧
    ∀ f : EForm,
      (∀ src pitch shape, src = readScl s a f.b true → pitch = (s.sread a f.c.idx.toNat).toNat →
        shape = (s.sread a (f.c.idx.toNat + 1)).toNat → Claim.CmdIssues s a h (.kLda h f) (Claim.valueRegs f.d)
          (Claim.matOf s a (.lda f.a.idx.toNat src pitch (shape / 2 ^ 16 % 2 ^ 8) (shape % 2 ^ 10) (Claim.loadBad src pitch shape))) false) ∧
      Claim.CmdIssues s a h (.kDrain h f) (Claim.valueRegs f.d) (Claim.matOf s a (.drain (f.a.idx.toNat - 16) (f.flags.toNat % 16)
        (Claim.drainRound (f.flags.toNat / 16 % 8)) (f.flags.getLsbD 7) (readScl s a f.b true) (readScl s a f.c false).toNat
        (seedOf s a).1 (seedOf s a).2)) (f.flags.toNat / 16 % 8 == 5) ∧
      (∀ src, src = f.flags.toNat / 4 % 4 → Claim.CmdIssues s a h (.kPass h f) (Claim.valueRegs f.d)
        (Claim.matOf s a (.pass (f.flags.toNat % 4) src (if src = 0 ∨ src = 3 then Claim.fourRegs s a f.b else [])
          (if src = 0 ∨ src = 3 then (readScl s a f.c false).toNat else 0))) false) ∧
      Claim.CmdIssues s a h (.kRecv h f) (Claim.valueRegs f.d) (Claim.matOf s a (.recv (!f.flags.getLsbD 0) (f.flags.getLsbD 1)
        (if f.flags.getLsbD 1 then [] else Claim.fourRegs s a f.b))) false

/-- Timeline counters and channels: tc.wait waits until V reaches n and then tells whether a failure lies at or before n;
tc.get gives V or the last value, tc.err the error word and FIRST, which .clr clears; ch.wp gives how far the channel's
oldest command is done; ch.rst of a channel without commands gives V; ch.sum.get gives Rv, and ch.sum.set and ch.sum.exp set
Rv and X once no checksum command issued before them is open (R191-R195; that what complete commands have not brought to Rv
yet is dropped is the model's reading, log 18). -/
def Obligations.TimelinesAndChannels : Prop :=
  ∀ h (f : EForm) s a T, Acts s a h → T = s.counterOf a f.chan.toNat →
    (∀ n, n = (readScl s a f.a true).toNat →
      (T.v < n → ∃ t, exec (.tcWait h f) s = .next t ∧ t.stOf a = .waiting (.timeline f.chan.toNat n) ∧ t.pcOf a = s.pcOf a ∧
        OnlyRegs s t a [] [] []) ∧
      (n ≤ T.v → ∃ t, exec (.tcWait h f) s = .next t ∧ Claim.TruthIn s t a f.d.idx.toNat (T.err.getLsbD 31 && T.first ≤ n) ∧
        Claim.Keeps s t a [] [f.d.idx.toNat] ∧ Advances s t a)) ∧
    (∃ t, exec (.tcGet h f) s = .next t ∧
      SclDone s t a f.d.idx.toNat true (BitVec.ofNat 64 (if f.flags.getLsbD 0 then T.last else T.v))) ∧
    (∃ t, exec (.tcErr h f) s = .next t ∧ t.sget a f.d.idx.toNat = T.err ∧
      t.sget a (f.d.idx.toNat + 1) = BitVec.ofNat 32 T.first ∧ Claim.Keeps s t a [f.d.idx.toNat, f.d.idx.toNat + 1] [] ∧ Advances s t a ∧
      (f.flags.getLsbD 0 = true → (∀ g e, a = .frag g e → f.chan.toNat ≠ 16 ∧ ∃ X, s.taskOf a = some X) →
        t.counterOf a f.chan.toNat = { T with err := 0#32, first := 0 }) ∧
      (f.flags.getLsbD 0 = false → t.counterOf a f.chan.toNat = T)) ∧
    ∀ C V, C = s.getChan (s.chanOf a f.chan.toNat) → V = (s.chanTl (s.chanOf a f.chan.toNat)).v →
      (∀ p v, ((∀ c ∈ C.cmds, c.ended ≠ none) → p = C.lastLen ∧ v = V) →
        (∀ c rest, (C.cmds.filter fun c => c.ended.isNone) = c :: rest → v = c.value ∧
          p = min c.streamLen (4096 * (c.chunks.takeWhile ChunkSt.done?).length)) →
        ∃ t, exec (.chWp h f) s = .next t ∧ (∀ k < 4, t.sget a (f.d.idx.toNat + k) =
          [BitVec.ofNat 32 p, hi32 (BitVec.ofNat 64 p), BitVec.ofNat 32 v, hi32 (BitVec.ofNat 64 v)].getD k 0#32) ∧
          Claim.Keeps s t a ((List.range 4).map (f.d.idx.toNat + ·)) [] ∧ Advances s t a) ∧
      (C.cmds = [] → s.sets = [] → s.retries = [] → s.stOf a = .ready → ∃ t, exec (.chRst h f) s = .next t ∧
        t.sget a f.d.idx.toNat = lo32 (BitVec.ofNat 64 V) ∧ t.sget a (f.d.idx.toNat + 1) = hi32 (BitVec.ofNat 64 V) ∧
        (t.getChan (s.chanOf a f.chan.toNat)).stopped = false ∧ (t.getChan (s.chanOf a f.chan.toNat)).cmds = [] ∧
        Claim.Keeps s t a [f.d.idx.toNat, f.d.idx.toNat + 1] [] ∧ Advances s t a) ∧
      (∃ t, exec (.chSumGet h f) s = .next t ∧ SclDone s t a f.d.idx.toNat false (C.rv.setWidth 64)) ∧
      (s.sumsOpen a f.chan.toNat (Claim.sumsBefore s a) = true → ∀ c ∈ [Instr.chSumSet, Instr.chSumExp], ∃ t, exec (c h f) s = .next t ∧
        t.stOf a = .waiting (.sums f.chan.toNat (Claim.sumsBefore s a)) ∧ t.pcOf a = s.pcOf a ∧ OnlyRegs s t a [] [] []) ∧
      (s.sumsOpen a f.chan.toNat (Claim.sumsBefore s a) = false → (∃ X, s.taskOf a = some X) →
        (∃ t, exec (.chSumSet h f) s = .next t ∧ t.getChan (s.chanOf a f.chan.toNat) =
            { C with rv := lo32 (readScl s a f.a false), cmds := C.cmds.map fun c => { c with ck := 0 } } ∧
          Claim.Keeps s t a [] [] ∧ Advances s t a) ∧
        ∃ t, exec (.chSumExp h f) s = .next t ∧ t.getChan (s.chanOf a f.chan.toNat) = { C with x := lo32 (readScl s a f.a false) } ∧
          Claim.Keeps s t a [] [] ∧ Advances s t a)

/-- rs.hint raises or lowers the recency of the lines of its range under CACHE and KV contracts, rs.evict leaves its lines
clean and tells whether a store-only line was skipped, and rs.qry reports contract, presence, home and grain of a line
(R198-R200). -/
def Obligations.Residency : Prop :=
  ∀ h (f : NForm) s a, Acts s a h →
    (∀ s1 rs fs, s.rangeRuns a (State.pagesIn (readScl s a f.a true) (lo32 (readScl s a f.b false)).toNat) = (s1, rs, fs) →
      s1.hasAgent a = true →
      ((∀ x ∈ fs, x.1.held = none) → ∀ c ∈ [((Instr.rsHintKeep : Hdr → NForm → Instr), s1.clk, 7), (Instr.rsHintDrop, 0, 0)],
        ∃ t, exec (c.1 h f) s = .next t ∧ (∀ l L, l ∈ State.runLines rs → (s1.arrAt (l * 128)).cls = 0 ∨ (s1.arrAt (l * 128)).cls = 2 →
          s1.lines.get? l = some L → t.lines.get? l = some { L with recency := c.2.1, freq := c.2.2 }) ∧
          Claim.Keeps s1 t a [] [] ∧ Advances s1 t a) ∧
      ((∀ x ∈ fs, x.1.held = none) → ∃ t, exec (.rsHintFetch h f) s = .next t ∧ Claim.Keeps s1 t a [] [] ∧ Advances s1 t a ∧
        ∀ l, State.runLines rs = [l] → (s1.arrAt (l * 128)).cls = 0 ∨ (s1.arrAt (l * 128)).cls = 2 → regionOf (l * 128) = .hbm →
          (s1.linesAt (s1.homeOf (l * 128))).length < sliceLines → s1.atCap (s1.homeOf (l * 128)) (s1.arrAt (l * 128)) = false →
          (t.lines.get? l).isSome = true) ∧
      (fs = [] → ∀ c ∈ [((Instr.rsEvict : Hdr → NForm → Instr), false), (Instr.rsEvictInv, true)], s1.lines.wf = true →
        ∃ t, exec (c.1 h f) s = .next t ∧
          t.sget a f.d.idx.toNat = (if ∃ l ∈ State.runLines rs, regionOf (l * 128) = .storeOnly then 1#32 else 0#32) ∧
          (∀ l ∈ State.runLines rs, regionOf (l * 128) ≠ .storeOnly →
            (∀ L, t.lines.get? l = some L → L.dirty = false) ∧
            (c.2 = true → (s1.arrAt (l * 128)).cls ≠ 1 → t.lines.get? l = none)) ∧
          Claim.Keeps s1 t a [f.d.idx.toNat] [] ∧ Advances s1 t a) ∧
      (∀ x xs, fs = x :: xs → ∀ c ∈ [Instr.rsEvict, Instr.rsEvictInv], exec (c h f) s =
        .next (s1.raiseLanes a .read (some (s1.maskOfAgent a)) (fs.map fun b => laneFault 0 b.1 b.2)))) ∧
    (∀ s1 x, s.translate (s.asidOf a) (s.supOf a) (readScl s a f.a true) .read = (s1, .error x) →
      exec (.rsQry h f) s = .next (s1.raiseAt a .read x (readScl s a f.a true))) ∧
    ∀ s1 x idx cls, s.translate (s.asidOf a) (s.supOf a) (readScl s a f.a true) .read = (s1, .ok x) →
      s1.qryFields x.pa = [(idx, cls)] → s1.hasAgent a = true → ∃ t, exec (.rsQry h f) s = .next t ∧
        t.sget a f.d.idx.toNat = idx ∧ t.sget a (f.d.idx.toNat + 1) = BitVec.ofNat 32 (s1.qryWord x.pa cls) ∧
        t.sget a (f.d.idx.toNat + 2) = BitVec.ofNat 32 (s1.homeOf x.pa) ∧ t.sget a (f.d.idx.toNat + 3) = BitVec.ofNat 32 x.grain ∧
        Claim.Keeps s1 t a ((List.range 4).map (f.d.idx.toNat + ·)) [] ∧ Advances s1 t a

/-- kv.xlat's lanes enter the machine as one request counted in LD; k.stat gives the context's status and with .clr clears
SAT; v.accrd and v.accwr enter an access of the elements that B names, counted in TR, and without a bound Keystone context
are illegal (R204, R221, R222). -/
def Obligations.KeystoneAndKvAccess : Prop :=
  (∀ h (f : NForm) s g e, Runs s (.frag g e) → s.guardMask (.frag g e) h ≠ 0#64 → s.reqs = [] → s.ldOf (.frag g e) < 63 →
    (∀ G, s.grps.get? g = some G → G.frags.length ≤ 1) → RoomFor s g [f.d.idx.toNat, f.d.idx.toNat + 1] →
    ∃ t r, exec (.kvXlat h f) s = .next t ∧ t.reqs.get? s.nextId = some r ∧ r.agent = .frag g e ∧
      r.op = .xlat f.c.idx.toNat ∧ r.dst = some (.vec, f.d.idx.toNat) ∧ r.regs = 2 ∧ r.part = s.guardMask (.frag g e) h ∧
      r.lanes.map (fun p => (p.lane, p.data, p.cmp)) = (lanesOf (s.guardMask (.frag g e) h)).map (fun l =>
        (l, Memory.leBytes 4 (Claim.src s g e [⟨f.a, false, h.lra⟩, ⟨f.b, false, h.lrb⟩] f.aux 0 l).toNat,
          Memory.leBytes 4 (Claim.src s g e [⟨f.a, false, h.lra⟩, ⟨f.b, false, h.lrb⟩] f.aux 1 l).toNat)) ∧ MemSame s t ∧
      Leaves s t (.frag g e) [] [] (lastReadRegs [⟨f.a, false, h.lra⟩, ⟨f.b, false, h.lrb⟩] ++ [f.d.idx.toNat, f.d.idx.toNat + 1])
        (fun G => { G with ld := G.ld + 1 }) id ∧ Advances s t (.frag g e)) ∧
  (∀ h (f : NForm) s k c, Acts s (.ks k) h → c = s.ksCtx k → ∃ t, exec (.kStat h f) s = .next t ∧
    t.sget (.ks k) f.d.idx.toNat = BitVec.ofNat 32 (c.mq.length * 256 + (c.mq.filter fun q => q.started && q.kind.isMma).length * 32 +
      c.mqStopped.toNat * 8 + c.latch.isSome.toNat * 4 + c.sat.toNat) ∧
    (t.ksCtx k).sat = (if f.op = 1#5 then false else c.sat) ∧ Claim.Keeps s t (.ks k) [f.d.idx.toNat] [] ∧ Advances s t (.ks k)) ∧
  ∀ h (f : NForm) s g e, Runs s (.frag g e) → s.guardMask (.frag g e) h ≠ 0#64 →
    ((s.taskOf (.frag g e)).bind (·.ks) = none → s.reqs = [] → (∀ G, s.grps.get? g = some G → G.frags.length ≤ 1) →
      ∀ c ∈ [Instr.vAccrd, Instr.vAccwr], exec (c h f) s = .next (s.raiseCode (.frag g e) 2 1#32 (s.maskOfAgent (.frag g e)))) ∧
    ∀ k b, (s.taskOf (.frag g e)).bind (·.ks) = some k → s.reqs = [] → b = (readScl s (.frag g e) f.b false).toNat →
      (∀ G, s.grps.get? g = some G → G.frags.length ≤ 1) →
      (RoomFor s g [f.d.idx.toNat] → Claim.AccIssues s g e h (.vAccrd h f) (.accRead k (f.a.idx.toNat - 16)) (some f.d.idx.toNat) []
        (fun l => 256 * (b % 128) + 64 * (b / 256 % 4) + l) fun _ => 0#32) ∧
      Claim.AccIssues s g e h (.vAccwr h f) (.accWrite k (f.d.idx.toNat - 16)) none (lastReadRegs [⟨f.a, false, h.lra⟩])
        (fun l => 256 * (b % 128) + 64 * (b / 256 % 4) + l) fun l => lo32 (Claim.src s g e [⟨f.a, false, h.lra⟩] f.aux 0 l)

/-- sys.rd gives and sys.wr sets the register that the number names, group registers in the group, a die's in the die of the
core; an unassigned number, a group register named by a Keystone context, and a write to a read-only register are illegal
operands, and a register without access at the privilege is a privilege fault (R11, R229, R233, R234, R267). -/
def Obligations.ControlRegisters : Prop :=
  ∀ h (f : IForm) s a n, Acts s a h → n = f.imm.toNat % 4096 →
    (Claim.assigned n = false ∨ (onKeystone a = true ∧ Claim.ofGroup n = true) → ∀ c ∈ [Instr.sysRd, Instr.sysWr],
      exec (c h f) s = .next (s.raiseCode a 2 3#32 (s.maskOfAgent a))) ∧
    (Claim.assigned n = true → (onKeystone a = true → Claim.ofGroup n = false) → s.supOf a = false → Claim.userReads n = false →
      ∀ c ∈ [Instr.sysRd, Instr.sysWr], exec (c h f) s = .next (s.raiseCode a 3 0#32 (s.maskOfAgent a))) ∧
    (Claim.MayRead s a n → ¬Claim.MayWrite s a n → exec (.sysWr h f) s = .next (s.raiseCode a 2 3#32 (s.maskOfAgent a))) ∧
    (Claim.MayRead s a n → ∃ t x, exec (.sysRd h f) s = .next t ∧ SclDone (s.seeTail a n) t a f.d.idx.toNat (Claim.wideReg n) x ∧
      (n ≠ 0x021 → n ≠ 0x025 → SclDone s t a f.d.idx.toNat (Claim.wideReg n) x) ∧
      (∀ g e G, a = .frag g e → s.grps.get? g = some G →
        (n = 0 → x = G.fpctl.setWidth 64) ∧ (n = 1 → x = G.leasectl.setWidth 64) ∧ (n = 8 → x = G.trappc) ∧
        (n = 9 → x = G.trapst.setWidth 64)) ∧
      (∀ r ∈ Claim.packageRegs, n = r.1 → x = s.ctlReg n) ∧
      (∀ r ∈ Claim.dieRegs, n = r.1 → x = s.ctlReg (n + 4096 * dieOfCore (s.coreOf a))) ∧
      (n = 0x050 → ∀ k < 4, x.getLsbD k = ((s.core (s.coreOf a)).watch.get? k).isSome) ∧
      (0x400 ≤ n → n < 0x800 → n % 4 ≠ 3 → x = s.ctlReg n)) ∧
    (∀ v, v = readScl s a f.a (Claim.wideReg n) → Claim.MayWrite s a n → s.ctl.wf = true →
      (∀ g e, a = .frag g e →
        (n = 0 → ∃ t, exec (.sysWr h f) s = .next t ∧ QueuesStay s t ∧ Advances s t a ∧ Leaves s t a [] [] []
          (fun G => { G with fpctl := Claim.merged G.fpctl (lo32 v) 0xF837#32 0x7C0#32 }) id) ∧
        (n = 1 → ∃ t, exec (.sysWr h f) s = .next t ∧ QueuesStay s t ∧ Advances s t a ∧ Leaves s t a [] [] []
          (fun G => { G with leasectl := Claim.merged G.leasectl (lo32 v) 0xFFFF1FFF#32 0#32 }) id) ∧
        (n = 8 → ∃ t, exec (.sysWr h f) s = .next t ∧ QueuesStay s t ∧ Advances s t a ∧ Leaves s t a [] [] []
          (fun G => { G with trappc := v }) id) ∧
        (n = 9 → ∃ t, exec (.sysWr h f) s = .next t ∧ QueuesStay s t ∧ Advances s t a ∧ Leaves s t a [] [] []
          (fun G => { G with trapst := Claim.merged G.trapst (lo32 v) 0x33F#32 0#32 }) id)) ∧
      (∀ r ∈ Claim.packageRegs, n = r.1 → ∃ t, exec (.sysWr h f) s = .next t ∧ t.ctlReg n = Claim.merged (s.ctlReg n) v r.2 0#64 ∧
        (∀ m, m ≠ n → t.ctlReg m = s.ctlReg m) ∧ (∀ g, (t.grps.get? g).map groupRest = (s.grps.get? g).map groupRest) ∧ MemSame s t ∧
        Advances s t a ∧ (n = 0x040 → ∀ c < 192, (t.core c).f = max 8 (min 16 ((t.ctlReg 0x040).toNat % 32)))) ∧
      ∀ r ∈ Claim.dieRegs, n = r.1 → ∃ t, exec (.sysWr h f) s = .next t ∧
        t.ctlReg (n + 4096 * dieOfCore (s.coreOf a)) =
          Claim.merged (s.ctlReg (n + 4096 * dieOfCore (s.coreOf a))) v r.2.1 r.2.2 ∧
        (∀ m, m ≠ n + 4096 * dieOfCore (s.coreOf a) → t.ctlReg m = s.ctlReg m) ∧ MemSame s t ∧ Advances s t a)

/-- System instructions: sys.tlbi drops the entries it names; sys.halt removes a core from selection and puts it back with
its statuses; pre.mask and pre.unmask move MC and give MC and FORCED; sys.sig updates a semaphore as a released request;
sys.idle gives 0 when a ring holds records and otherwise waits for a cause; core and slice watches are armed and disarmed
with their statuses (R235-R238, R242, R243). -/
def Obligations.SystemInstructions : Prop :=
  ∀ h (f : NForm) s a, Acts s a h →
    (s.stOf a = .ready → s.reqs = [] → (∀ p ∈ s.ks, ∀ q ∈ p.2.mq, q.started = false) →
      (∀ ch ∈ s.allChans, s.executingOn ch = false) → ∀ va asid, va = (readScl s a f.a true).toNat →
      asid = (lo32 (readScl s a f.b false)).toNat →
      (∃ t, exec (.sysTlbiVa h f) s = .next t ∧ t.ptes = s.ptes.filter (fun p => !(asid == 0 && p.lo ≤ va && va < p.lo + p.size)) ∧
        t.xhist = .drop asid (some va) :: s.xhist ∧ Claim.Keeps s t a [] [] ∧ Advances s t a) ∧
      (∃ t, exec (.sysTlbiAs h f) s = .next t ∧ t.ptes = (if asid = 0 then [] else s.ptes) ∧
        t.xhist = .drop asid none :: s.xhist ∧ Claim.Keeps s t a [] [] ∧
        Advances s t a) ∧
      ∃ t, exec (.sysTlbiAll h f) s = .next t ∧ t.ptes = [] ∧ t.xhist = [] ∧ Claim.Keeps s t a [] [] ∧ Advances s t a) ∧
    (∀ c, c = (lo32 (readScl s a f.a false)).toNat →
      (191 < c → ∀ i ∈ [Instr.sysHaltCore, Instr.sysHaltResume], ∃ t, exec (i h f) s = .next t ∧ SclDone s t a f.d.idx.toNat false 3#64) ∧
      (c ≤ 191 → (s.core c).removed = true → ∃ t, exec (.sysHaltCore h f) s = .next t ∧ SclDone s t a f.d.idx.toNat false 1#64) ∧
      (c ≤ 191 → (s.core c).removed = false → ∃ t, exec (.sysHaltCore h f) s = .next t ∧
        SclDone (s.modCore c fun C => { C with removed := true }) t a f.d.idx.toNat false 0#64) ∧
      (c ≤ 191 → (s.core c).isolated = true → ∃ t, exec (.sysHaltResume h f) s = .next t ∧ SclDone s t a f.d.idx.toNat false 2#64) ∧
      (c ≤ 191 → (s.core c).isolated = false → (s.core c).removed = false → ∃ t, exec (.sysHaltResume h f) s = .next t ∧
        SclDone s t a f.d.idx.toNat false 1#64) ∧
      (c ≤ 191 → (s.core c).isolated = false → (s.core c).removed = true → ∃ t, exec (.sysHaltResume h f) s = .next t ∧
        SclDone (s.modCore c fun C => { C with removed := false }) t a f.d.idx.toNat false 0#64)) ∧
    (∀ k T L, s.taskIdOf a = some k → s.tasks.get? k = some T → s.launches.get? T.launch = some L →
      (L.pcls ≠ 2 → ∀ i ∈ [Instr.preMask, Instr.preUnmask], ∃ t, exec (i h f) s = .next t ∧ SclDone s t a f.d.idx.toNat false 0#64) ∧
      (L.pcls = 2 → (∃ t, exec (.preMask h f) s = .next t ∧
          (t.tasks.get? k).map (fun X => (X.mc, X.forced)) = some (min (T.mc + 1) 255, T.forced && T.mc != 0) ∧
          t.sget a f.d.idx.toNat = BitVec.ofNat 32 (min (T.mc + 1) 255 + (T.forced && T.mc != 0).toNat * 2 ^ 31) ∧
          Claim.Keeps s t a [f.d.idx.toNat] [] ∧ Advances s t a) ∧
        ∃ t, exec (.preUnmask h f) s = .next t ∧
          (t.tasks.get? k).map (fun X => (X.mc, X.forced)) = some (T.mc - 1, T.forced) ∧
          t.sget a f.d.idx.toNat = BitVec.ofNat 32 (T.mc - 1 + T.forced.toNat * 2 ^ 31) ∧
          Claim.Keeps s t a [f.d.idx.toNat] [] ∧ Advances s t a)) ∧
    Claim.MemIssues s a h (.sysSig h f) (Claim.signalSpec s a f) [] ∧
    ((∀ l x y z, s.stOf a ≠ .waiting (.idle l x y z)) →
      (s.ringsWaiting (s.dieOf a) = true → ∃ t, exec (.sysIdle h f) s = .next t ∧ SclDone s t a f.d.idx.toNat false 0#64) ∧
      (s.ringsWaiting (s.dieOf a) = false → ∃ t l x y, exec (.sysIdle h f) s = .next t ∧ t.stOf a = .waiting (.idle l x y none) ∧
        (l = none ↔ lo32 (readScl s a f.a false) = 0#32) ∧ (∀ c, l = some c → c = s.clk + (lo32 (readScl s a f.a false)).toNat) ∧
        t.pcOf a = s.pcOf a ∧ OnlyRegs s t a [] [] [])) ∧
    (∀ l x y c, s.stOf a = .waiting (.idle l x y (some c)) → ∃ t, exec (.sysIdle h f) s = .next t ∧
      SclDone s t a f.d.idx.toNat false (BitVec.ofNat 64 c)) ∧
    (∀ va d, va = readScl s a f.a true → d = (lo32 (readScl s a f.b false)).toNat →
      (∀ st, watchBad va.toNat d = [st] → ∃ t, exec (.sysWatch h f) s = .next t ∧ SclDone s t a f.d.idx.toNat false (BitVec.ofNat 64 st)) ∧
      (watchBad va.toNat d = [] → ∃ t, exec (.sysWatch h f) s = .next t ∧ t.sget a f.d.idx.toNat = 0#32 ∧
        Claim.Keeps s t a [f.d.idx.toNat] [] ∧ Advances s t a ∧
        ∀ c < 192, d / 2 ^ 16 % 256 = 255 ∨ d / 2 ^ 16 % 256 = c →
          (d / 16 % 2 = 1 → (t.core c).watch.get? (d % 4) = some (Claim.armed va (lo32 (readScl s a f.c false)).toNat d)) ∧
          (d / 16 % 2 = 0 → (s.core c).watch.wf = true → (t.core c).watch.get? (d % 4) = none)) ∧
      (∀ st, swatchBad s va.toNat d = [st] → ∃ t, exec (.sysSwatch h f) s = .next t ∧
        SclDone s t a f.d.idx.toNat false (BitVec.ofNat 64 st)) ∧
      (swatchBad s va.toNat d = [] → ∃ t, exec (.sysSwatch h f) s = .next t ∧ t.swatches =
        (if d / 128 % 2 = 1 then s.swatches.set (s.homeOf va.toNat * 16 + d % 16)
            { pa := va.toNat, len := 32 * 4 ^ (d / 16 % 4), rd := (d / 64 % 2 == 1) }
          else s.swatches.erase (s.homeOf va.toNat * 16 + d % 16)) ∧
        t.sget a f.d.idx.toNat = 0#32 ∧ Claim.Keeps s t a [f.d.idx.toNat] [] ∧ Advances s t a))

/-- sys.fqack acknowledges a first record of its ring: status 3 for an index that is not written, 2 for a later record of a
set or an operation the entry does not take, 1 for one already acknowledged; retry lets the set's fragment go on, skip moves it
past its instruction, kill ends its task, and resume and fail let an engine go on. sys.dirq reports the directory's entry of
an address, and sys.dirrc reclaims a lost unit (R239-R241, R346, R357, R401, R406). -/
def Obligations.QueueAndDirectory : Prop :=
  ∀ h (f : NForm) s a A b, Acts s a h → A = lo32 (readScl s a f.a false) → b = (lo32 (readScl s a f.b false)).toNat →
    (∀ c ∈ Claim.acks, (∀ e, ¬Claim.Written s A b e) → ∃ t, exec (c.1 h f) s = .next t ∧ SclDone s t a f.d.idx.toNat false 3#64) ∧
    (∀ c ∈ Claim.acks, ∀ e, Claim.Written s A b e →
      (e.first = false ∨ (e.acked = false ∧ e.withdrawn = false ∧ State.opValid (A.getLsbD 2) c.2 e = false) →
        ∃ t, exec (c.1 h f) s = .next t ∧ SclDone s t a f.d.idx.toNat false 2#64) ∧
      (e.first = true → e.acked = true ∨ e.withdrawn = true →
        ∃ t, exec (c.1 h f) s = .next t ∧ SclDone s t a f.d.idx.toNat false 1#64)) ∧
    (∀ e g en G F p, Claim.Pending s A b e → A.getLsbD 2 = false → e.target = .group g en → s.grps.get? g = some G →
      G.park = some p → G.frags.get? en = some F →
      (∀ e', a ≠ .frag g e') → (∃ t H, exec (.sysFqackRetry h f) s = .next t ∧ t.sget a f.d.idx.toNat = 0#32 ∧
        t.grps.get? g = some H ∧ H.park.map (·.unacked) = some (p.unacked - 1) ∧ H.frags = G.frags ∧ MemSame s t) ∧
      (e.cause = 0x11 ∨ e.cause = 0x12 → ∃ t H, exec (.sysFqackSkip h f) s = .next t ∧ t.sget a f.d.idx.toNat = 0#32 ∧
        t.grps.get? g = some H ∧ H.park.map (·.unacked) = some (p.unacked - 1) ∧
        (H.frags.get? en).map (·.pc) = some (F.pc + 12#64) ∧ MemSame s t)) ∧
    (∀ e g en T, Claim.Pending s A b e → A.getLsbD 2 = false → e.target = .group g en → s.tasks.get? (g / 16) = some T →
      T.st = .resident → s.taskIdOf a ≠ some (g / 16) → ∃ t, exec (.sysFqackKill h f) s = .next t ∧
        (t.tasks.get? (g / 16)).map (fun X => (X.killed, X.st)) = some (T.killed.or (some e.cause), .draining)) ∧
    (∀ e k n v, Claim.Pending s A b e → A.getLsbD 2 = true → e.target = .channel k n v → ∃ t,
      exec (.sysFqackResume h f) s = .next t ∧ t.sget a f.d.idx.toNat = 0#32 ∧ (t.getChan (.team k n)).stopped = false ∧
      (t.getChan (.team k n)).cmds = (s.getChan (.team k n)).cmds ∧ MemSame s t) ∧
    (∀ e k va T, Claim.Pending s A b e → A.getLsbD 2 = true → e.target = .scratchWb k va → s.tasks.get? k = some T → ∃ t,
      exec (.sysFqackFail h f) s = .next t ∧ t.sget a f.d.idx.toNat = 0#32 ∧ MemSame s t ∧
      (t.tasks.get? k).map (·.maps) = some (T.maps.map fun m => { m with dirty := m.dirty.filter fun c => State.chunkVa m c != va })) ∧
    ∀ pa base n, pa = (readScl s a f.a true).toNat →
      (s.homedHere pa = false → (∃ t, exec (.sysDirq h f) s = .next t ∧
          (∀ k < 4, t.sget a (f.d.idx.toNat + k) = [0xFFFFFFFF#32, 0xFFFFFFFF#32, 0#32, 0#32].getD k 0#32) ∧
          Claim.Keeps s t a ((List.range 4).map (f.d.idx.toNat + ·)) [] ∧ Advances s t a) ∧
        ∀ c ∈ [Instr.sysDirrcZero, Instr.sysDirrcCopy, Instr.sysDirrcKeep], ∃ t, exec (c h f) s = .next t ∧
          SclDone s t a f.d.idx.toNat false 2#64) ∧
      (s.homedHere pa = true → s.dir.get? (pa / 64) = none → s.poisonAt pa 1 = false → ∃ t, exec (.sysDirq h f) s = .next t ∧
        (∀ k < 4, t.sget a (f.d.idx.toNat + k) = [0#32, 0xFFFFFFFF#32, 0#32, 64#32].getD k 0#32) ∧
        Claim.Keeps s t a ((List.range 4).map (f.d.idx.toNat + ·)) [] ∧ Advances s t a) ∧
      (∀ E o, s.homedHere pa = true → s.dir.get? (pa / 64) = some E → E.st = 2 ∨ E.st = 3 → E.owner = some o → s.poisonAt pa 1 = false →
        ∃ t, exec (.sysDirq h f) s = .next t ∧ (∀ k < 4, t.sget a (f.d.idx.toNat + k) =
          [BitVec.ofNat 32 E.st, o, 0#32, if E.whole then 128#32 else 64#32].getD k 0#32) ∧ Advances s t a) ∧
      (s.homedHere pa = true → s.lostAt pa 1 = false → ∀ c ∈ [Instr.sysDirrcZero, Instr.sysDirrcKeep], ∃ t, exec (c h f) s = .next t ∧
        SclDone s t a f.d.idx.toNat false 1#64) ∧
      (Claim.LostUnit s pa base n →
        (∃ t, exec (.sysDirrcZero h f) s = .next t ∧ Claim.Wrote s t base (List.replicate n 0#8) ∧
          t.sget a f.d.idx.toNat = 0#32 ∧ t.dir.get? (base / 64) = none ∧ Advances s t a) ∧
        ∃ t, exec (.sysDirrcKeep h f) s = .next t ∧ MemSame s t ∧ t.sget a f.d.idx.toNat = 0#32 ∧
          t.dir.get? (base / 64) = none ∧ Advances s t a) ∧
      ∀ s1 x, Claim.LostUnit s1 pa base n → s.homedHere pa = true → s.lostUnit pa = (base, n) →
        (readScl s a f.b true).toNat % n = 0 → s.reqs = [] → s1.ownHold a (x.pa / 128) = none →
        s.translate (s.asidOf a) (s.supOf a) (readScl s a f.b true) .read = (s1, .ok x) →
        s1.dirConflict (s.agentId a) false x.pa n = false → s1.homeError x.pa n .read = none → readScl s1 a f.a true = readScl s a f.a true →
        ∃ t, exec (.sysDirrcCopy h f) s = .next t ∧ Claim.Wrote s1 t base (s1.mem.readBytes x.pa n) ∧
          t.sget a f.d.idx.toNat = 0#32 ∧ t.dir.get? (base / 64) = none ∧ Advances s1 t a

/-- Engine events. An accepted command leaves EC, takes the next value of its context, gives it to its registers and joins its
queue; a chunk copies or fills its bytes or stops its channel; an idle unit steals the busiest unit's last chunk; a KV
command answers in its block; a matrix command starts, ends with a status, zeroes or scales its accumulator; a vector access
reaches it; a binding ends once its commands are complete; a Keystone issues its next ready context in turn (R180, R183,
R185, R189, R201, R202, R207-R209, R211, R217, R222, R338, R388). -/
def Obligations.EngineEvents : Prop :=
  (∀ s id p k d, Claim.Acceptable s id p k → p.dst = [(d, false), (d + 1, true)] → ∃ t v, exec (.engineCommandAccept id) s = .next t ∧
    t.pends.get? id = none ∧ (∀ j, j ≠ id → t.pends.get? j = s.pends.get? j) ∧ t.ecOf p.agent = s.ecOf p.agent - 1 ∧
    t.sget64 p.agent d = BitVec.ofNat 64 v ∧
    (∀ c, p.cmd = .kv c → v = (s.taskTl k 17).last + 1 ∧ (t.taskTl k 17).last = v ∧
      (t.tasks.get? k).map (·.kvq) = (s.tasks.get? k).map fun T => T.kvq ++ [{ c with value := v, seq := s.nextId }]) ∧
    (∀ n c, p.cmd = .copy n c → v = (s.chanTl (s.chanOf p.agent n)).last + 1 ∧ (t.chanTl (s.chanOf p.agent n)).last = v ∧
      (c.bad = none → ∀ j < chunkCount c.streamLen,
        ∃ sl, { chan := s.chanOf p.agent n, value := v, idx := j : ChunkRef } ∈ t.mortar.getD sl [])) ∧
    ∀ c x, p.cmd = .matrix c → p.agent = .ks x → ¬((s.ksCtx x).exited = true ∧ c.kind.usesLink = true) → v = (s.ksCtx x).tc.last + 1 ∧ (t.ksCtx x).tc.last = v ∧
      (t.ksCtx x).mq.map (fun q => (q.value, q.kind, q.started)) =
        (s.ksCtx x).mq.map (fun q => (q.value, q.kind, q.started)) ++ [(v, c.kind, c.started)]) ∧
  (∀ s sl r c, Claim.AtHead s sl r c →
    (c.kind = .plain false false → ∀ s1 s2 d b,
      s.xlatRange (s.chanAsid r.chan) (s.chanSup r.chan) (Claim.chunkAt c.dst r) (Claim.chunkLen c r) .write = (s1, .ok [d]) →
      s1.xlatRange (s.chanAsid r.chan) (s.chanSup r.chan) (Claim.chunkAt c.src r) (Claim.chunkLen c r) .read = (s2, .ok [b]) →
      d.n = Claim.chunkLen c r → b.n = Claim.chunkLen c r → Claim.Free s2 sl true d → Claim.Free s2 sl false b → Claim.Plain s2 →
      ∃ t, exec (.copyChunkExecute sl) s = .next t ∧ Claim.Wrote s2 t d.pa (s2.mem.readBytes b.pa b.n) ∧ r ∉ t.mortar.getD sl []) ∧
    (∀ w s1 d, c.kind = .fill w false →
      s.xlatRange (s.chanAsid r.chan) (s.chanSup r.chan) (Claim.chunkAt c.dst r) (Claim.chunkLen c r) .write = (s1, .ok [d]) →
      d.n = Claim.chunkLen c r → Claim.Free s1 sl true d → Claim.Plain s1 → ∃ t, exec (.copyChunkExecute sl) s = .next t ∧
        Claim.Wrote s1 t d.pa ((List.range d.n).map fun i => (Memory.leBytes 4 w.toNat).getD (i % 4) 0#8) ∧ r ∉ t.mortar.getD sl []) ∧
    ∀ s1 f va, c.kind = .plain false false → f.held = none →
      s.xlatRange (s.chanAsid r.chan) (s.chanSup r.chan) (Claim.chunkAt c.dst r) (Claim.chunkLen c r) .write = (s1, .error (f, va)) →
      ∃ t, exec (.copyChunkExecute sl) s = .next t ∧ t.mem = s1.mem ∧ t.mortar = s1.mortar ∧ (t.getChan r.chan).stopped = true ∧
        ∃ x, t.sets = s1.sets ++ [x] ∧ x.retry = true ∧ x.cause = f.cause) ∧
  (∀ s i v x q r, s.unitIdle i = true → v / 16 = i / 16 → s.mortar.getD v [] = x :: q ++ [r] →
    r ∉ x :: q → s.stealable r = true → (∀ j, j / 16 = i / 16 → (s.mortar.getD j []).length < q.length + 2 ∨
      ((s.mortar.getD j []).length = q.length + 2 ∧ v ≤ j)) →
    ∃ t, exec (.chunkSteal i) s = .next t ∧ t.mortar.getD i [] = [r] ∧ t.mortar.getD v [] = x :: q ∧
      ∀ j, j ≠ i → j ≠ v → t.mortar.getD j [] = s.mortar.getD j []) ∧
  (∀ s sl r c y fate s0 s1 s2 d b, s.remoteChunk sl = some r → ((s.getChan r.chan).cmds.find? fun c => c.value == r.value) = some c →
    c.kind = .remote → c.bad = none → c.ended = none → y ∈ c.chunks.set r.idx (.done 0 []) → y.done? = false →
    ((s.getChan r.chan).cmds.map (·.value)).Nodup → pickFrom s [none, some 0x0A, some 0x0B] none = (fate, s0) →
    s0.xlatRange (s.chanAsid r.chan) (s.chanSup r.chan) (Claim.chunkAt c.dst r) (Claim.chunkLen c r) .write = (s1, .ok [d]) →
    s1.xlatRange (s.chanAsid r.chan) (s.chanSup r.chan) (Claim.chunkAt c.src r) (Claim.chunkLen c r) .read = (s2, .ok [b]) →
    (isRemote d.pa || isRemote b.pa) = true → s2.dirConflict (idMortar sl) true d.pa d.n = false →
    s2.dirConflict (idMortar sl) false b.pa b.n = false → s2.runsError [d] .write = none → s2.runsError [b] .read = none →
    ∃ t bs, exec (.remoteChunkAcknowledge sl) s = .next t ∧ ∃ e ∈ (t.getChan r.chan).cmds, e.value = r.value ∧
      e.chunks = c.chunks.set r.idx (.done (fate.getD 0) bs)) ∧
  (∀ s k T c asid sup b s2 hd, Claim.KvNext s k T c asid sup b s2 → c.op ≠ 6 → hd = s.mem.readNat b.pa 4 →
    ∃ t, exec (.kvCommandExecute k) s = .next t ∧ (t.tasks.get? k).map (·.kvq) = some (T.kvq.filter fun q => q.value != c.value) ∧
      (¬Claim.LiveSeq s c asid sup hd → t.mem.readBytes (b.pa + 0x14) 44 = Claim.kvBlock 0x34 0) ∧
      (Claim.LiveSeq s c asid sup hd → c.op = 9 → s.seqHold (s.treeOf (hd / 2 ^ 24)) (hd % 2 ^ 24) < 2 ^ 32 - 1 →
        t.mem.readBytes (b.pa + 0x14) 44 = Claim.kvBlock 0 (s.seqHold (s.treeOf (hd / 2 ^ 24)) (hd % 2 ^ 24) + 1))) ∧
  (∀ s n i, (n, i) ∈ s.refetch → (∀ sl, (s.linesAt sl).length + (State.pageLines (s.treeOf n) i).length < sliceLines) →
    (∀ l ∈ State.pageLines (s.treeOf n) i, (s.arrAt (l * 128)).cls = 2) →
    ∃ t, exec (.kvPageRefetch n i) s = .next t ∧ (n, i) ∉ t.refetch ∧ MemSame s t ∧
      ∀ l ∈ State.pageLines (s.treeOf n) i, (t.lines.get? l).isSome = true) ∧
  (∀ s k c, s.startCand k = some c → ((s.ksCtx k).task.map s.enginesRun) = some true →
    (∀ acc, c.kind = .zero acc → ∃ t, exec (.matrixCommandStart k) s = .next t ∧ MemSame s t ∧
      (t.ksCtx k).mq = (s.ksCtx k).mq.map fun q => if q.value = c.value then { q with started := true, reads := [], dests := [] } else q) ∧
    ∀ ta src pitch rows n, c.kind = .lda ta src pitch rows n true → ∃ t, exec (.matrixCommandStart k) s = .next t ∧ MemSame s t ∧
      (t.ksCtx k).mq = ((s.ksCtx k).mq.filter fun q => q.value != c.value) ∧
      (t.ksCtx k).tc = (s.ksCtx k).tc.complete c.value 0x34 0 []) ∧
  (∀ s k c acc, (s.ksCtx k).mq = [c] → s.ksKilled k = false → c.started = true → c.reads = [] → c.dests = [] → c.vaWrites = [] →
    (∀ n, s.mayInject 2 (k / 4) n = true) → (s.ksCtx k).acc.wf = true → (∀ a, ((s.ksCtx k).acc.getD a []).wf = true) →
    ((c.kind = .zero acc → ∃ t, exec (.matrixCommandComplete k) s = .next t ∧ MemSame s t ∧ (t.ksCtx k).mq = [] ∧
        (t.ksCtx k).tc = (s.ksCtx k).tc.complete c.value 0 0 [] ∧ (∀ e < 32768, (t.ksCtx k).accElem acc e = 0#32) ∧
        ∀ a, a ≠ acc → ∀ e, (t.ksCtx k).accElem a e = (s.ksCtx k).accElem a e) ∧
      ∀ sig, c.kind = .scale acc 0 sig → ∃ t, exec (.matrixCommandComplete k) s = .next t ∧ MemSame s t ∧ (t.ksCtx k).mq = [] ∧
        (∀ e < 32768, (t.ksCtx k).accElem acc e = BitVec.ofNat 32 (scaleElem 0 sig ((s.ksCtx k).accElem acc e).toNat)) ∧
        ∀ a, a ≠ acc → ∀ e, (t.ksCtx k).accElem a e = (s.ksCtx k).accElem a e)) ∧
  (∀ s id r k acc p g e, s.reqs = [(id, r)] → r.agent = .frag g e → r.op = .accWrite k acc → r.lanes = [p] →
    (s.ksCtx k).acc.wf = true → ((s.ksCtx k).acc.getD acc []).wf = true → ∃ t, exec (.accumulatorAccessComplete id) s = .next t ∧
      t.reqs = [] ∧ t.trOf (.frag g e) = s.trOf (.frag g e) - 1 ∧
      (t.ksCtx k).accElem acc p.off = BitVec.ofNat 32 (natOfBytes p.data) ∧
      ∀ a e, (a, e) ≠ (acc, p.off) → (t.ksCtx k).accElem a e = (s.ksCtx k).accElem a e) ∧
  (∀ s k n T, s.ks.wf = true → (s.ksCtx k).task = some n → s.tasks.get? n = some T → T.st = .draining →
    (s.ksCtx k).tc.v = (s.ksCtx k).tc.last → (∀ p ∈ s.pends, p.2.agent ≠ .ks k) →
    (∀ p ∈ s.reqs, p.2.agent ≠ .ks k) → ∃ t, exec (.keystoneBindingRelease k) s = .next t ∧
      (t.ksCtx k).task = none ∧ (t.tasks.get? n).map (·.ks) = some none ∧ ∀ j, j ≠ k → t.ksCtx j = s.ksCtx j) ∧
  ∀ s c i, (∀ j < 4, s.inWait (.ks (4 * c + j)) = false) → i < 4 → s.ksReady (4 * c + ((s.clu c).issueNext + i) % 4) = true →
    (∀ j < i, s.ksReady (4 * c + ((s.clu c).issueNext + j) % 4) = false) → ∃ t, exec (.keystoneIssue c) s = .next t ∧
      t.issue = s.issue ++ [.ks (4 * c + ((s.clu c).issueNext + i) % 4)] ∧
      (t.clu c).issueNext = (((s.clu c).issueNext + i) % 4 + 1) % 4 ∧ t.grps = s.grps ∧ t.ks = s.ks

/-- Scheduling. A partition's slot goes to the promoted candidate that has waited 512 clocks, else to the one that last issued and asks for no yield, else to
the oldest; the candidate that has waited 512 clocks longest is promoted; holds, results, sleeps, sys.idle, watches and
leases end when they are due; reviews keep the groups whose leases fit active; a parked group's frame is written and the
group returns from it; F, core times, TSLEASE and line frequencies move by their rules (R15, R138, R141, R166, R167, R236,
R266, R267, R269-R271, R276, R294, R295, R330, R354). -/
def Obligations.Scheduling : Prop :=
  (∀ s core part, Claim.SlotAOnly s core part →
    (∀ p, (s.core core).promoted.get? (part * 2) = some p → ((s.candidates core part false).map Claim.candOf).Nodup →
      (∃ c ∈ s.candidates core part false, Claim.candOf c = p ∧ c.2.2.2.1 + 512 ≤ s.clk) → Claim.Selects s core part p) ∧
    (∀ p, (s.core core).promoted.get? (part * 2) = none → (s.core core).last.get? (part * 2) = some p →
      ((s.candidates core part false).map Claim.candOf).Nodup →
      (∃ c ∈ s.candidates core part false, Claim.candOf c = p ∧ c.2.2.2.2 = false) → Claim.Selects s core part p) ∧
    ∀ c ∈ s.candidates core part false, c.2.2.2.2 = false → (s.core core).promoted.get? (part * 2) = none →
      (s.core core).last.get? (part * 2) = none →
      (∀ d ∈ s.candidates core part false, d = c ∨ c.2.2.1 < d.2.2.1 ∨ (c.2.2.1 = d.2.2.1 ∧ c.2.2.2.1 < d.2.2.2.1)) →
      Claim.Selects s core part (Claim.candOf c)) ∧
  (∀ s core part b, ∀ c ∈ s.candidates core part b, c.2.2.2.1 + 512 ≤ s.clk →
    (∀ d ∈ s.candidates core part b, d = c ∨ c.2.2.2.1 < d.2.2.2.1) → ∃ t, exec (.candidatePromotion core part b) s = .next t ∧
      (t.core core).promoted.get? (part * 2 + b.toNat) = some (Claim.candOf c) ∧ t.grps = s.grps ∧ t.issue = s.issue) ∧
  (∀ s g e F, s.frag? g e = some F → F.st = .held → F.holdUntil ≤ s.clk → ∃ t, exec (.stallHoldEnd (.frag g e)) s = .next t ∧
    t.frag? g e = some { F with st := .ready } ∧ ∀ a, a ≠ .frag g e → t.stOf a = s.stOf a) ∧
  (∀ s k, (s.ksCtx k).st = .held → (s.ksCtx k).holdUntil ≤ s.clk → ∃ t, exec (.stallHoldEnd (.ks k)) s = .next t ∧
    t.ksCtx k = { s.ksCtx k with st := .ready } ∧ t.grps = s.grps) ∧
  (∀ s g e G, s.grps.get? g = some G → ∃ t, exec (.fixedLatencyWriteback (.frag g e)) s = .next t ∧
    (∃ H, t.grps.get? g = some H ∧ H.sreg = G.sreg ∧ H.frags = G.frags ∧ ∀ b, b ∈ H.busy ↔ b ∈ G.busy ∧ s.clk < b.clk) ∧
    ∀ j, j ≠ g → t.grps.get? j = s.grps.get? j) ∧
  (∀ s a c, s.hasAgent a = true → s.stOf a = .waiting (.sleeping c) → (c ≤ s.clk → ∃ t, exec (.sleepExpiry a) s = .next t ∧
      OnlyRegs s t a [] [] [] ∧ Advances s t a) ∧ (s.clk < c → exec (.sleepExpiry a) s = .next s)) ∧
  (∀ s a l ft rt n, s.hasAgent a = true → s.stOf a = .waiting (.idle l ft rt none) →
    ((if s.ringTail (s.dieOf a) 0x020 ≠ ft then [1] else []) ++ (if s.ringTail (s.dieOf a) 0x024 ≠ rt then [2] else []) ++
      (if ∃ c, l = some c ∧ c ≤ s.clk then [3] else [])) = [n] → ∃ t, exec (.sysIdleWake a) s = .next t ∧
    t.stOf a = .waiting (.idle l ft rt (some n)) ∧ t.pcOf a = s.pcOf a) ∧
  (∀ s sl pre w post, s.watches = pre ++ w :: post → (s.watches.map (·.id)).Nodup → w.slice = sl → w.cause.isSome = true →
    w.woken = false → s.wakeAt.get? sl ≠ some s.storeClk → (∀ x ∈ pre, x.slice = sl → x.cause = none ∨ x.woken = true) → ∃ t, exec (.watchWake sl) s = .next t ∧
      t.watches = pre ++ { w with woken := true } :: post) ∧
  (∀ s pre w post c, s.watches = pre ++ w :: post → (s.watches.map (·.id)).Nodup → w.cause = none → w.expiry = some c →
    (c ≤ s.clk → ∃ t, exec (.waitAddrTimeout w.id) s = .next t ∧ t.watches = pre ++ { w with cause := some 3, woken := true } :: post) ∧
    (s.clk < c → exec (.waitAddrTimeout w.id) s = .next s)) ∧
  (∀ s g line G, s.grps.get? g = some G → (∃ l ∈ G.leases, l.line = line ∧ l.expiry ≤ s.clk) →
    ∃ t H, exec (.lineLeaseExpiry g line) s = .next t ∧ t.grps.get? g = some H ∧
      (∀ l, l ∈ H.leases ↔ l ∈ G.leases ∧ l.line ≠ line) ∧
      (s.swatches = [] → s.heldTrees = [] → s.mem.wf = true → (∀ l ∈ G.leases, l.dirty.wf = true) →
        ∀ x, t.mem.read x = ((s.holdOn g line).bind (·.dirty.get? x)).getD (s.mem.read x))) ∧
  (∀ s g G, s.grps.get? g = some G → 2048 ≤ G.memIssued → ∃ t H, exec (.measuredLeaseWindow g) s = .next t ∧
    t.grps.get? g = some H ∧ H.measured = min 524288 (16 * 128 * G.filter.length) ∧ H.filter = [] ∧ H.memIssued = 0 ∧ H.frags = G.frags) ∧
  (∀ s c, Claim.ReviewDue s c →
    (Claim.leaseSum s (s.reviewOrder c) ≤ Claim.capOf s c * (s.core c).f / 16 → ∃ t, exec (.footprintReview c) s = .next t ∧
      (t.core c).review = s.clk ∧ ∀ p ∈ s.reviewOrder c, (t.grps.get? p.1).map (·.st) = some .active) ∧
    (∀ p q, s.reviewOrder c = [p, q] → p.1 ≠ q.1 → s.grps.wf = true → s.countedLease p.1 p.2 ≤ Claim.capOf s c → Claim.capOf s c ≠ 0 →
      Claim.capOf s c * (s.core c).f / 16 < s.countedLease p.1 p.2 + s.countedLease q.1 q.2 → ∃ t, exec (.footprintReview c) s = .next t ∧
        (t.grps.get? p.1).map (·.st) = some .active ∧ (t.grps.get? q.1).map (·.st) = some .inactive)) ∧
  (∀ s g G p, s.grps.get? g = some G → G.st = .parking → G.park = some p → p.framed = false → G.ld = 0 → G.tr = 0 → s.mem.wf = true →
    s.frameOf 1 g = none → (∀ k o, (s.quietGroup g).frameRoom (dieOfCore (s.coreOfGrp g))
      (groupFrame { G with frags := s.savedFrags g G } k o).length ≠ none) →
    ∃ t H, exec (.parkFrameWrite g) s = .next t ∧ t.grps.get? g = some H ∧ H.st = (if p.sets = [] then .parked else .parking) ∧
      (t.frameOf 1 g).isSome = true ∧ t.frameGood 1 g = true ∧ g ∈ (t.core (s.coreOfGrp g)).parkOrder) ∧
  (∀ s c g G p, s.firstReturn c = some g → s.grps.get? g = some G → s.coreOfGrp g = c → s.returnParts c g = [p] →
    (s.frameGood 1 g = true → G.pending = none → ∃ t H, exec (.parkedGroupReturn c) s = .next t ∧ t.grps.get? g = some H ∧
      H.st = .inactive ∧ H.inactiveSince = s.clk - (G.park.map (·.waited)).getD 0 ∧ H.partition = p ∧ H.park = none ∧ H.frags = G.frags ∧ H.reg = G.reg ∧ t.frameOf 1 g = none ∧
      g ∉ (t.core c).parkOrder ∧ g ∉ (t.core c).reviewed) ∧
    (∀ T, s.frameGood 1 g = false → s.tasks.get? G.task = some T → T.killed = none → T.st = .resident →
      ∃ t, exec (.parkedGroupReturn c) s = .next t ∧ (t.tasks.get? G.task).map (·.killed) = some (some 0x0A))) ∧
  (∀ s v, s.ctl.wf = true → ∃ t, exec (.fpgateWrite v) s = .next t ∧ t.ctlReg 0x040 = v.setWidth 64 ||| (s.ctlReg 0x040 &&& ~~~0xFFFFFFFF#64) ∧
    ∀ c < 192, (t.core c).f = max 8 (min 16 (v.toNat % 32))) ∧
  (∀ s c, ∃ t, exec (.logicalTimeTick c) s = .next t ∧ (t.core c).ct = (s.core c).ct + 1 ∧ ∀ d, d ≠ c → t.core d = s.core d) ∧
  (∀ s v, s.ctl.wf = true → ∃ t, exec (.tsleaseWrite v) s = .next t ∧
    t.ctlReg 0x048 = (v &&& 0xFFFFF#32).setWidth 64 ||| (s.ctlReg 0x048 &&& ~~~0xFFFFF#64)) ∧
  ∀ s sl, ∃ t, exec (.frequencyAgeHalving sl) s = .next t ∧ ∀ l,
    (t.lines.get? l).map (·.freq) = (s.lines.get? l).map fun L => if s.homeOf (l * 128) = sl then L.freq / 2 else L.freq

/-- Queues and dispatch. launch writes the record at the queue's tail and gives 0, or gives 1 for a full queue and 2 for none,
and faults without access; a processor watches an empty queue and disables a defective one; a launch record hands out its tasks or is
rejected with its code; a wait entry passes when its condition holds; a signal entry updates its semaphore; a dispatcher admits its
first fitting task, offers a starved one alone and takes a sibling's; a task whose work is over is DONE, and its launch
completes with its last task (R145, R252-R264). -/
def Obligations.QueuesAndDispatch : Prop :=
  (∀ h f s a sel, Acts s a h → sel = (readScl s a f.b false).toNat →
    (s.supOf a = false → (s.ctlReg (0x018 + sel / 64 % 4)).getLsbD (sel % 64) = false →
      exec (.launch h f) s = .next (s.raiseCode a 3 0#32 (s.maskOfAgent a))) ∧
    ∀ s1 pa gr pol, s.supOf a = true ∨ (s.ctlReg (0x018 + sel / 64 % 4)).getLsbD (sel % 64) = true → s.reqs = [] → s.ldOf a < 63 →
      s.stcOf a < 63 → (s.releaseCt a .pkg).checkGlobal a (readScl s a f.a true) 128 .read .dflt = (s1, .ok (.mem pa gr pol)) →
      regionOf pa = .hbm → s1.dirConflict (s.agentId a) false pa 128 = false → s1.homeError pa 128 .read = none → Claim.Plain s1 →
      (s1.queueHead (sel / 64 % 4) (sel % 64) = none → ∃ t r id, exec (.launch h f) s = .next t ∧ t.reqs.get? id = some r ∧ r.agent = a ∧
        r.dst = some (.scl, f.d.idx.toNat) ∧ r.lanes.map (·.got) = [some (Memory.leBytes 4 2)] ∧ MemSame s1 t ∧ Advances s1 t a) ∧
      ∀ H, s1.queueHead (sel / 64 % 4) (sel % 64) = some H → s1.dirConflict (s.agentId a) true H.at' 128 = false → H.en = true →
        (2 ^ H.logn ≤ H.count → ∃ t r id, exec (.launch h f) s = .next t ∧ t.reqs.get? id = some r ∧ r.agent = a ∧
          r.dst = some (.scl, f.d.idx.toNat) ∧ r.lanes.map (·.got) = [some (Memory.leBytes 4 1)] ∧ MemSame s1 t ∧ Advances s1 t a) ∧
        (H.count < 2 ^ H.logn → s1.dirConflict (s.agentId a) true (H.slot H.tail) 128 = false →
          Claim.Apart (H.slot H.tail) 128 H.at' 128 → ∃ t r id, exec (.launch h f) s = .next t ∧ t.reqs.get? id = some r ∧ r.agent = a ∧
          r.dst = some (.scl, f.d.idx.toNat) ∧ r.lanes.map (·.got) = [some (Memory.leBytes 4 0)] ∧
          t.mem.readBytes (H.slot H.tail) 128 = s1.mem.readBytes pa 128 ∧ t.mem.readNat (H.at' + 0x40) 8 = (H.tail + 1) % 2 ^ 64 ∧
          t.ldOf a = s.ldOf a + 1 ∧ t.stcOf a = s.stcOf a + 1 ∧ Advances s1 t a)) ∧
  (∀ s die q H, s.queueHead die q = some H → H.en = true → s.dirConflict (idQueue die) true H.at' 128 = false → Claim.Plain s →
    ∃ t, exec (.queueTailWake die q) s = .next t ∧
      (H.bad = false → H.count = 0 → (t.queueSt die q).watching = true ∧ (∃ w ∈ t.watches, w.who = .queue die q ∧ w.cause = none) ∧ MemSame s t) ∧
      (H.bad = false → H.count ≠ 0 → (t.queueSt die q).watching = false ∧ MemSame s t) ∧
      (H.bad = true → Claim.Wrote s t (H.at' + 8) (Memory.leBytes 8 (H.word - 256)))) ∧
  (∀ s die q H e, Claim.QueueNext s die q H e → Claim.Plain s → recNat e 0x7F 1 = 0 →
    (recordCode e H.supq = none → (launchOfRecord e die q H.head H.asid s.nextId).ser = false →
      (∀ p ∈ s.tasks, p.1 < s.nextId ∧ p.2.launch < s.nextId) → ∃ t, exec (.launchRecord die q) s = .next t ∧ Claim.Consumed t H ∧
      t.launches.get? s.nextId = some { launchOfRecord e die q H.head H.asid s.nextId with acq := ((Claim.afterEntry s die q H).queueSt die q).ct } ∧
      (t.tasks.filter fun p => p.2.launch == s.nextId).length = taskCount ((recLevels e).take (recNat e 0x18 8 % 16)) ∧
      ∀ p ∈ t.tasks, p.2.launch = s.nextId → p.2.st = .distributed) ∧
    ∀ c, recordCode e H.supq = some c → recNat e 0x50 8 = 0 → ∃ t x, exec (.launchRecord die q) s = .next t ∧ Claim.Consumed t H ∧
      t.launches = s.launches ∧ t.tasks = s.tasks ∧ t.sets = s.sets ++ [x] ∧ x.die = die ∧ x.retry = false ∧ x.target = .reject) ∧
  (∀ s s1 die q H e x, Claim.QueueNext s die q H e → Claim.Plain s1 → recNat e 0x7F 1 = 1 → State.semCode e 6 = none →
    Claim.SemAt (Claim.afterEntry s die q H) s1 die H.asid (BitVec.ofNat 64 (recNat e 0 8)) .read false x → s1.queueHead die q = some H →
    (State.semCond (recNat e 0x10 8) (s1.mem.readNat x.pa 8) (recNat e 8 8) = true → ∃ t, exec (.semaphoreWait die q) s = .next t ∧
      Claim.Consumed t H ∧ t.launches = s1.launches) ∧
    (State.semCond (recNat e 0x10 8) (s1.mem.readNat x.pa 8) (recNat e 8 8) = false →
      (∃ w ∈ s1.watches, w.who = .queue die q ∧ w.cause = none) → ∃ t, exec (.semaphoreWait die q) s = .next t ∧ MemSame s1 t ∧
      t.launches = s1.launches)) ∧
  (∀ s s1 die q H e x, Claim.QueueNext s die q H e → Claim.Plain s1 → recNat e 0x7F 1 = 2 → State.semCode e 2 = none →
    (∀ p ∈ s.launches, p.2.die ≠ die ∨ p.2.queue ≠ q ∨ p.2.done = true) →
    Claim.SemAt (Claim.afterEntry s die q H) s1 die H.asid (BitVec.ofNat 64 (recNat e 0 8)) (if recNat e 0x10 8 = 0 then .write else .both) true x →
    s1.queueHead die q = some H → Claim.Apart x.pa 8 (H.at' + 0x10) 8 → ∃ t, exec (.semaphoreSignal die q) s = .next t ∧
      Claim.Consumed t H ∧ t.mem.readNat x.pa 8 = (match recNat e 0x10 8 with
        | 0 => recNat e 8 8
        | 1 => (s1.mem.readNat x.pa 8 + recNat e 8 8) % 2 ^ 64
        | _ => max (s1.mem.readNat x.pa 8) (recNat e 8 8))) ∧
  (∀ s quad n T L rest c r, s.offered quad = (n, T, L) :: rest → Claim.Admits s quad n T L c r →
    ∃ t, exec (.taskAdmission quad) s = .next t ∧ Claim.Started t n c L r ∧ MemSame s t) ∧
  (∀ s quad x rest c, s.dispatchAlone.get? quad = none → s.dispatchList quad = x :: rest → x.2.1.passedOver = some c →
    c + 1000000 ≤ s.clk → ∃ t, exec (.dispatchStarvation quad) s = .next t ∧ t.dispatchAlone.get? quad = some x.1 ∧ t.tasks = s.tasks) ∧
  (∀ s quad q n T L c r, s.aloneOf quad = none → (∀ x ∈ s.offered quad, s.admittingCore quad x.2.1 x.2.2 = none) → q / 4 = quad / 4 → q ≠ quad →
    s.stealFrom quad q = some (n, T, L) → (∀ j, j / 4 = quad / 4 → j ≠ quad → j ≠ q → s.stealFrom quad j = none) →
    Claim.Admits s quad n T L c r → ∃ t, exec (.dispatcherSteal quad) s = .next t ∧ Claim.Started t n c L r ∧
      (t.tasks.get? n).map (·.quad) = some quad) ∧
  (∀ s n T, s.tasks.get? n = some T → T.st = .draining → s.taskBusy n = false → (∀ m ∈ T.maps, m.dirty = []) →
    (∀ p ∈ T.tcs, p.2.v = p.2.last) → T.ks = none → s.ownSwitches T.core n = [] →
    (s.banksHeld n T ≠ [] → ∃ t, exec (.taskDone n) s = .next t ∧ MemSame s t ∧
      ∀ k ∈ s.banksHeld n T, (Claim.bankOf t T.core k).role = .switching 0) ∧
    (s.banksHeld n T = [] → (∃ m T', m ≠ n ∧ s.tasks.get? m = some T' ∧ T'.launch = T.launch ∧ T'.st ≠ .done) → ∃ t T', exec (.taskDone n) s = .next t ∧
      t.tasks.get? n = some T' ∧ T'.st = .done ∧ T'.banks = [] ∧ T'.scratch = 0 ∧ MemSame s t ∧ ∀ g G, t.grps.get? g = some G → G.task ≠ n) ∧
    ∀ L, s.banksHeld n T = [] → (∀ p ∈ s.tasks, p.2.launch = T.launch → p.1 ≠ n → p.2.st = .done) → s.launches.get? T.launch = some L → s.launches.wf = true →
      s.tasks.wf = true → L.done = false → L.cmop = 0 → L.killed = none → s.staging = [] → ∃ t, exec (.taskDone n) s = .next t ∧
      t.launches.get? T.launch = none ∧ ∀ p ∈ t.tasks, p.2.launch ≠ T.launch)

/-- Fault sets and pre-emption. A set is written at its ring's tail when it fits and TAIL moves; PREQ names resident tasks, holds
undispatched ones and releases held ones; a restartable task loses its groups and is handed out again; the request is over
for a task once its banks have left it; a saved one parks
its groups; an expired budget forces MC to 0; a saved task returns with its banks and its groups (R237, R342, R346, R349,
R353-R356). -/
def Obligations.FaultSetsAndPreemption : Prop :=
  (∀ s die pre x post b, s.sets = pre ++ x :: post → (∀ y ∈ pre, y.die ≠ die) → (∀ y ∈ s.sets, y.die = die → y.retry = false) →
    x.die = die → x.recs = [b] → b.length = 32 → s.mem.wf = true → s.ctl.wf = true → ∀ a,
    a = s.ringBase die 0x020 + 32 * (s.ringTail die 0x020 % 2 ^ s.ringLog die 0x020) → s.dirConflict noAgentId true a 32 = false →
    (s.ringFits die 0x020 1 = true → ∃ t, exec (.faultSetWrite die) s = .next t ∧ t.sets = pre ++ post ∧ Claim.Wrote s t a b ∧
      t.ringTail die 0x020 = (s.ringTail die 0x020 + 1) % 2 ^ 32 ∧ t.ringHead die 0x020 = s.ringHead die 0x020 ∧
      ∃ e, t.entries = s.entries ++ [e] ∧ e.die = die ∧ e.index = s.ringTail die 0x020 ∧ e.first = true ∧ e.target = x.target ∧
        e.acked = false ∧ e.withdrawn = false) ∧
    (s.ringFits die 0x020 1 = false → exec (.faultSetWrite die) s = .next s)) ∧
  (∀ s die v, Claim.PreqFree s die v 0 → ∃ t, exec (.preqPreemptLaunch die v) s = .next t ∧ MemSame s t ∧ ∀ n T, s.tasks.get? n = some T →
    s.preqNames die v T = true → (T.st = .resident → (n, 0) ∈ t.preq.getD die [] ∧ Claim.TimerStarts s t n T) ∧
    (T.st = .distributed → (t.tasks.get? n).map (·.hold) = some (some 0))) ∧
  (∀ s die v, Claim.PreqFree s die v 1 → ∃ t, exec (.preqPreemptCore die v) s = .next t ∧ MemSame s t ∧ ∀ n T, s.tasks.get? n = some T →
    T.st = .resident → T.core = v.toNat / 2 ^ 16 % 256 → (n, T.core + 1) ∈ t.preq.getD die [] ∧ Claim.TimerStarts s t n T) ∧
  (∀ s die v, Claim.PreqFree s die v 2 → ∃ t, exec (.preqResumeLaunch die v) s = .next t ∧ MemSame s t ∧ ∀ n T, s.tasks.get? n = some T →
    (t.tasks.get? n).map (·.hold) = some (if s.preqNames die v T = true then none else T.hold)) ∧
  (∀ s die v, Claim.PreqFree s die v 3 → ∃ t, exec (.preqResumeCore die v) s = .next t ∧ MemSame s t ∧ ∀ n T, s.tasks.get? n = some T →
    (t.tasks.get? n).map (·.hold) = some (if T.hold = some (v.toNat / 2 ^ 16 % 256 + 1) then none else T.hold)) ∧
  (∀ s die v, s.preqBusy die = true → ∀ i ∈ [Instr.preqPreemptLaunch die v, .preqPreemptCore die v, .preqResumeLaunch die v,
    .preqResumeCore die v], exec i s = .next s) ∧
  (∀ s n T, Claim.RestartReady s n T → ∃ t T', exec (.preemptionSequence n) s = .next t ∧ t.tasks.get? n = some T' ∧ T'.st = .distributed ∧
    T'.t = T.t ∧ T'.launch = T.launch ∧ T'.live = [] ∧ T'.banks = [] ∧ ∀ g G, t.grps.get? g = some G → G.task ≠ n) ∧
  (∀ s n T, s.tasks.get? n = some T → T.st ≠ .resident → s.banksSwitch n = false → ∃ t, exec (.preemptionSequence n) s = .next t ∧
    MemSame s t ∧ t.tasks = s.tasks ∧ ∀ x ∈ t.preq, ∀ y ∈ x.2, y.1 ≠ n) ∧
  (∀ s n T c, s.tasks.get? n = some T → s.proceeding n = true → ((s.launchOf T).map (·.pcls)) = some c → c ≠ 0 → T.live.Nodup →
    (∀ i ∈ T.live, i < 16) → (∃ i ∈ T.live, ∃ G, s.grps.get? (n * 16 + i) = some G ∧ G.park = none) →
    ∃ t, exec (.preemptionSequence n) s = .next t ∧ MemSame s t ∧ (t.tasks.get? n).map (·.st) = some T.st ∧
      ∀ i ∈ T.live, ∀ G, s.grps.get? (n * 16 + i) = some G → G.park = none → G.st ≠ .parked → ∃ H, t.grps.get? (n * 16 + i) = some H ∧
        H.st = .parking ∧ H.park.map (·.reason) = some 3 ∧ H.frags = G.frags) ∧
  (∀ s n T c, s.tasks.get? n = some T → T.budget = some c → T.mc ≠ 0 →
    (c ≤ s.clk → ∃ t T', exec (.maskBudgetExpiry n) s = .next t ∧ t.tasks.get? n = some T' ∧ T'.mc = 0 ∧ T'.forced = true ∧
      T'.budget = none ∧ ∀ m, m ≠ n → t.tasks.get? m = s.tasks.get? m) ∧
    (s.clk < c → ∃ t, exec (.maskBudgetExpiry n) s = .next t ∧ t.tasks.get? n = some T)) ∧
  ∀ s n T L image k parts, Claim.ReturnReady s n T L image k parts → ∃ t T', exec (.savedTaskReturn n) s = .next t ∧
    t.tasks.get? n = some T' ∧ T'.st = .resident ∧ T'.banks = (s.freeBanks T.core).take k ∧ t.frameOf 2 n = none ∧ MemSame s t ∧
    ∀ g ∈ s.liveGroups n, ∀ G, s.grps.get? g = some G → ∃ H, t.grps.get? g = some H ∧ H.st = .inactive ∧ H.park = none ∧
      H.frags = G.frags ∧ H.sreg = G.sreg ∧ H.reg = G.reg

/-- Package steps: contracts are installed, changed, removed and moved with their error codes; trees are enabled and disabled with
BUSY; a publication covers its frames; the sweeper clears an accessed frame's bit or queues a cold one; traffic windows
take their limits; control writes reach their registers; ring segments gate and wake; errors are counted, halved and acted on; an
island's level changes nothing else; reset and bring-up (R330-R333, R337, R368, R376, R419, R420, R423, R424, R427-R431). -/
def Obligations.PackageEvents : Prop :=
  (∀ s i v, i < 256 → s.ctl.wf = true → s.contractSt i = 0 →
    ((s.contractWord i 0).getLsbD 0 = false → v.getLsbD 0 = true → ∀ w e, w = v &&& 0x000FFFFFFFE00001#64 →
      e = s.contractError i false w (s.contractWord i 1) (s.contractWord i 2) (s.contractWord i 3) →
      ∃ t, exec (.contractInstall i v) s = .next t ∧ MemSame s t ∧ Claim.contractErr t i = e ∧
        (e = 0 → t.contractWord i 0 = w ∧ t.contractSt i = 1) ∧ (e ≠ 0 → t.contractWord i 0 = s.contractWord i 0 ∧ t.contractSt i = 0)) ∧
    ((s.contractWord i 0).getLsbD 0 = true → ∀ w e, w = v &&& 0xFFFF#64 →
      e = s.contractError i true (s.contractWord i 0) (s.contractWord i 1) (s.contractWord i 2) w →
      ∃ t, exec (.contractChange i 3 v) s = .next t ∧ MemSame s t ∧ Claim.contractErr t i = e ∧
        (e = 0 → t.contractWord i 3 = w ∧ t.contractSt i = 1 ∧
          t.contractFrom.get? i = some ([s.contractWord i 2, s.contractWord i 3], [])) ∧
        (e ≠ 0 → t.contractWord i 3 = s.contractWord i 3 ∧ t.contractSt i = 0)) ∧
    ((s.contractWord i 0).getLsbD 0 = true → v.getLsbD 0 = false → (v ^^^ s.contractWord i 0) &&& 0x000FFFFFFFE00000#64 = 0#64 →
      (s.contractWord i 2).toNat % 4 ≠ 2 → ∃ t, exec (.contractRemoval i v) s = .next t ∧ MemSame s t ∧ t.contractSt i = 2 ∧
        (t.contractWord i 0).getLsbD 0 = false)) ∧
  (∀ s i line old moved, s.contractFrom.get? i = some (old, moved) → s.contractFrom.wf = true → s.ctl.wf = true → line ∉ moved →
    (s.contractRange i).1 ≤ line * 128 → line * 128 < (s.contractRange i).2 → s.dirConflict noAgentId false (line * 128) 128 = false →
    regionOf (line * 128) = .hbm → ∃ t, exec (.contractLineMove i line) s = .next t ∧ MemSame s t ∧
      (((s.contractRange i).2 - (s.contractRange i).1) / 128 ≤ moved.length + 1 → t.contractFrom.get? i = none ∧ t.contractSt i = 0) ∧
      (moved.length + 1 < ((s.contractRange i).2 - (s.contractRange i).1) / 128 →
        t.contractFrom.get? i = some (old, NatSet.insert moved line) ∧ t.contractSt i = s.contractSt i)) ∧
  (∀ s n v, s.mmio.wf = true → n < 256 →
    ((s.treeWord n 6).getLsbD 0 = false → (s.treeWord n 6).getLsbD 1 = false → v.getLsbD 0 = true → ∀ e,
      e = (s.setTreeCtl n false false (Claim.treeLast s n) (v.toNat / 2 ^ 32 % 2 ^ 16)).treeErr n → ∃ t, exec (.treeEnable n v) s = .next t ∧
        MemSame s t ∧ t.treeWord n 6 = Claim.treeCtl (v.toNat / 2 ^ 32 % 2 ^ 16) e (e == 0) false) ∧
    ((s.treeWord n 6).getLsbD 0 = false → (s.treeWord n 6).getLsbD 1 = true →
      s.mem.wf = true → s.halvesHeld (idOrris (s.homeOf (s.treeArea n).1)) [s.treeArea n] = [] → ∃ t, exec (.treeEnableComplete n) s = .next t ∧
      t.treeWord n 6 = Claim.treeCtl (Claim.treeAsid s n) 0 false true ∧ t.treeWord n 7 = BitVec.ofNat 64 (s.treeOf n).npg ∧
      t.get4 (s.treeOf n).abase = 0xFFFFFFFF) ∧
    ((s.treeWord n 6).getLsbD 0 = true → (s.treeWord n 6).getLsbD 1 = false → v.getLsbD 0 = false → ∃ t, exec (.treeDisable n v) s = .next t ∧
      MemSame s t ∧ t.treeWord n 6 = Claim.treeCtl (Claim.treeAsid s n) (Claim.treeLast s n) true true ∧
      t.trees.get? n = some s.nextId) ∧
    ((s.treeWord n 6).getLsbD 0 = true → (s.treeWord n 6).getLsbD 1 = true → s.kvPendingOn n = false → ∃ t,
      exec (.treeDisableComplete n) s = .next t ∧ MemSame s t ∧
      t.treeWord n 6 = Claim.treeCtl (Claim.treeAsid s n) (Claim.treeLast s n) false false)) ∧
  (∀ s v, (s.pubBusy = none → ∃ t, exec (.pubreqWrite v) s = .next t ∧ MemSame s t ∧
      t.pubBusy = some (v.toNat / 2 ^ 12 % 2 ^ 40 * 2 ^ 12, v.toNat % 2 ^ 12 + 1)) ∧
    (s.pubBusy.isSome = true → exec (.pubreqWrite v) s = .next s)) ∧
  (∀ s base n, s.pubBusy = some (base, n) → ∃ t, exec .publicationComplete s = .next t ∧ MemSame s t ∧ t.pubBusy = none ∧
    ∀ k < n, s.exc (base + 4096 * k) = true → ∀ j < 128, s.exc (((base + 4096 * k) / 32 + j) * 32) = true →
      (base + 4096 * k) / 32 + j ∈ t.published) ∧
  (∀ s, Claim.Plain s → ((s.ctlReg 0x038).getLsbD 0 = false → exec .sweeperVisit s = .next s) ∧
    ((s.ctlReg 0x038).getLsbD 0 = true → (∀ x ∈ s.sweepSpots (sweptAddr s.sweep), s.dirConflict noAgentId true x.1 x.2 = false) →
      (s.mem.readNat (s.ftBase + 64) 8 + 2 ^ 64 - s.mem.readNat (s.ftBase + 16) 8) % 2 ^ 64 < s.mem.readNat (s.ftBase + 12) 4 →
      ∃ t, exec .sweeperVisit s = .next t ∧ t.sweep = (s.sweep + 1) % sweptFrames ∧
        ((s.ftByte (sweptAddr s.sweep)).getLsbD 6 = true → t.ftByte (sweptAddr s.sweep) = s.ftByte (sweptAddr s.sweep) &&& 0xBF#8) ∧
        ((s.ftByte (sweptAddr s.sweep)).getLsbD 6 = false → (s.ftByte (sweptAddr s.sweep)).getLsbD 7 = false →
          s.keptFrame (sweptAddr s.sweep) = false →
          t.mem.readNat (s.ftBase + 64) 8 = (s.mem.readNat (s.ftBase + 64) 8 + 1) % 2 ^ 64))) ∧
  (∀ s die cls n, n = (s.mmioReg (0x10000 + 0x100 * die + 8 * cls)).toNat % 2 ^ 32 → s.trafficUse.wf = true →
    s.trafficWin.wf = true → ∃ t, exec (.trafficWindowStart die cls) s = .next t ∧ MemSame s t ∧
      t.windowLength die cls = max 16 ((s.mmioReg (0x10000 + 0x100 * die + 8 * cls)).toNat / 2 ^ 32 % 2 ^ 16) ∧
      ∀ p ∈ portsOf die cls, t.trafficUse.get? (cls * 1000 + p) = if n = 0 then none else some (n, 0)) ∧
  (∀ s v, s.ctl.wf = true → (∀ r ∈ Claim.packageRegs, ∀ die, ∃ t, exec (.controlRegisterWrite (.ctl die r.1) v) s = .next t ∧
      t.ctlReg r.1 = Claim.merged (s.ctlReg r.1) v r.2 0#64 ∧ MemSame s t) ∧
    (∀ r ∈ Claim.dieRegs, ∀ die, ∃ t, exec (.controlRegisterWrite (.ctl die r.1) v) s = .next t ∧ MemSame s t ∧
      t.ctlReg (r.1 + 4096 * die) = Claim.merged (s.ctlReg (r.1 + 4096 * die)) v r.2.1 r.2.2) ∧
    (s.mmio.wf = true → ∀ die < 4, ∀ cls < 4, ∃ t, exec (.controlRegisterWrite (.mmio (0x10000 + 0x100 * die + 8 * cls)) v) s = .next t ∧
      t.mmioReg (0x10000 + 0x100 * die + 8 * cls) = v &&& 0x0000FFFFFFFFFFFF#64 ∧ MemSame s t)) ∧
  (∀ s i, i < 64 → (∀ c, s.segment i = .powered c → (c + 64 ≤ s.storeClk → ∃ t, exec (.ringGateDecision i) s = .next t ∧
        t.segment i = .deciding (s.storeClk + 2)) ∧ (s.storeClk < c + 64 → exec (.ringGateDecision i) s = .next s)) ∧
    (∀ c, s.segment i = .deciding c → c ≤ s.storeClk → ∃ t, exec (.ringSegmentGate i) s = .next t ∧ t.segment i = .gated) ∧
    (∀ c, s.segment i = .deciding c → ∃ t, exec (.ringSegmentWake i) s = .next t ∧ t.segment i = .powered s.storeClk) ∧
    (s.segment i = .gated → ∃ t, exec (.ringSegmentWake i) s = .next t ∧ t.segment i = .waking (s.storeClk + 40)) ∧
    (∀ c, s.segment i = .waking c → (c ≤ s.storeClk → ∃ t, exec (.ringSegmentWake i) s = .next t ∧
      t.segment i = .powered s.storeClk) ∧ (s.storeClk < c → exec (.ringSegmentWake i) s = .next s))) ∧
  (∀ s u k, k = s.errorsOf u + 1 → (k < 256 → ∃ t, exec (.correctedError u) s = .next t ∧ t.errorsOf u = k ∧ MemSame s t ∧
      t.health.st = if 64 ≤ k ∧ s.health.st = 0 then 1 else s.health.st) ∧
    ∀ c, u = .core c → 256 ≤ k → ∃ t, exec (.correctedError u) s = .next t ∧ (t.core c).isolated = true) ∧
  (∀ s line, (∀ i, s.errorsOf (.slice i) + 16 < 256 → ∃ t, exec (.uncorrectedError (.slice i) line) s = .next t ∧ 2 * line ∈ t.poisoned ∧
      2 * line + 1 ∈ t.poisoned ∧      t.errorsOf (.slice i) = s.errorsOf (.slice i) + 16 ∧ MemSame s t) ∧
    ∀ c, ∃ t, exec (.uncorrectedError (.core c) line) s = .next t ∧ (t.core c).isolated = true) ∧
  (∀ s, (s.health.counts.map (·.1)).Nodup → ∃ t, exec .errorCountHalving s = .next t ∧ MemSame s t ∧
    (∀ u, t.errorsOf u = s.errorsOf u / 2) ∧ (s.health.st = 1 → (∀ p ∈ s.health.counts, p.2 < 128) → t.health.st = 0)) ∧
  (∀ s i l, i < 512 → ∃ t, exec (.islandPowerChange i l) s = .next t ∧ t.health.islands.get? i = some l ∧
    { t with health := s.health } = s) ∧
  (∀ s r, Claim.AllGood s r → (∃ p ∈ [0, 1], p ∈ r.portsUp) → ∃ t, exec (.packageReset r) s = .next t ∧ t.mem = [] ∧ t.tasks = [] ∧
    t.grps = [] ∧ t.clk = 0 ∧ t.health.st = 0 ∧ t.firmware.version = r.imageVersion ∧
    t.firmware.security = r.securityVersion ∧ t.firmware.fused = r.securityVersion ∧
    (∀ p < 2, (t.ports.get? p).map (·.up) = some (r.portsUp.contains p)) ∧ t.selfId = r.ashlarId % 64) ∧
  ∀ s r, (r.railsOk = false → ∃ t, exec (.packageReset r) s = .next t ∧ t.health.st = 3 ∧ t.health.step = 1) ∧
    (r.railsOk = true → r.ecdsaOk = false ∨ r.lmsOk = false ∨ r.securityVersion < s.firmware.fused →
      ∃ t, exec (.packageReset r) s = .next t ∧ t.health.st = 3 ∧ t.health.step = 2 ∧ ∀ p P, t.ports.get? p = some P → P.up = false)

/-- Holders, peers and hosts: answers to recalls and returns remove holders, and an expired recall marks the unit owner-lost;
requests of peers and hosts read and write at their homes once, copies are answered again, others forwarded; writes to
remote homes take effect with their acknowledgement or are lost; flits are taken in sequence; a retrained link has its lanes; snoops are
answered; keys, integrity failures and SPDM requests act on the port (R403, R406-R410, R413, R414, R417, R418, R421, R422). -/
def Obligations.FabricEvents : Prop :=
  (∀ s u w E, s.dir.get? u = some E → s.dir.wf = true → E.st = 5 → w ≠ noAgentId → remoteId w = true ∨ s.holderId (u / 2) ≠ some w →
    w ∈ E.asked → ∃ t, exec (.recallAnswer u w) s = .next t ∧ MemSame s t ∧
      ((∀ x ∈ E.asked, x = w) → t.dir.get? u = none) ∧
      ((∃ x ∈ E.asked, x ≠ w) → (t.dir.get? u).map (fun e => (e.st, e.asked)) = some (5, E.asked.filter (· != w)))) ∧
  (∀ s u w E, s.dir.get? u = some E → s.dir.wf = true → remoteId w = true → w ≠ noAgentId →
    (E.st = 3 → E.owner = some w → ∃ t, exec (.voluntaryReturn u w) s = .next t ∧ MemSame s t ∧ t.dir.get? u = none) ∧
    (E.st = 1 → (∃ x ∈ E.sharers, x ≠ w) → ∃ t, exec (.voluntaryReturn u w) s = .next t ∧ MemSame s t ∧
      (t.dir.get? u).map (·.sharers) = some (E.sharers.filter (· != w)))) ∧
  (∀ s u E, s.dir.get? u = some E → E.st = 5 → E.asked ≠ [] →
    (E.deadline ≤ s.clk → E.whole = false → ∃ t, exec (.recallTimerExpiry u) s = .next t ∧ MemSame s t ∧
      (t.dir.get? u).map (fun e => (e.st, e.asked, e.sharers)) = some (6, [], [])) ∧
    (s.clk < E.deadline → exec (.recallTimerExpiry u) s = .next s)) ∧
  (∀ s r, (r.dst = s.selfId → (∀ p ∈ s.performed, p.1 ≠ r) →
      (∀ d, r.op = .write d → Claim.OutsideFree s (idPeer r.src) true r.pa d.length → ∃ t, exec (.ashlarRequest r) s = .next t ∧
        Claim.Wrote s t r.pa d ∧ t.out = s.out ++ [.peerAck r.src r.tag false] ∧ (r, .peerAck r.src r.tag false) ∈ t.performed) ∧
      (∀ n, r.op = .read n → Claim.OutsideFree s (idPeer r.src) false r.pa n → ∃ t, exec (.ashlarRequest r) s = .next t ∧ MemSame s t ∧
        t.out = s.out ++ [.peerReply r.src r.tag (s.mem.readBytes r.pa n) true])) ∧
    (∀ pre m post, r.dst = s.selfId → s.performed = pre ++ (r, m) :: post → (∀ p ∈ pre, p.1 ≠ r) → ∃ t, exec (.ashlarRequest r) s = .next t ∧
      MemSame s t ∧ t.out = s.out ++ [m]) ∧
    (∀ l ls, r.dst ≠ s.selfId → s.linksTo r.dst = l :: ls → ∃ t, exec (.ashlarRequest r) s = .next t ∧ MemSame s t ∧
      .forwarded l r.src r.tag r.dst ∈ t.out)) ∧
  (∀ s src tag id pa x r p g e G, s.peerTags.get? (src * 4096 + tag) = some (id, pa, x) → s.peerTags.wf = true →
    Claim.SentStore s id r p pa g e G →
    (∃ t, exec (.ashlarAcknowledgement src tag false) s = .next t ∧ Claim.Wrote s t pa p.data ∧
      t.peerTags.get? (src * 4096 + tag) = none ∧ (t.grps.get? g).map (·.offAcks) = some (G.offAcks - 1) ∧
      (t.grps.get? g).map (·.lost) = some G.lost) ∧
    ∃ t, exec (.ashlarAcknowledgement src tag true) s = .next t ∧ MemSame s t ∧ t.peerTags.get? (src * 4096 + tag) = none ∧
      (t.grps.get? g).map (·.lost) = some (if G.lost.isSome ∧ ¬(G.lostBy.1 = id ∧ p.lane < G.lostBy.2) then G.lost else some (p.va - BitVec.ofNat 64 p.off))) ∧
  (∀ s src tag b, s.peerTags.get? (src * 4096 + tag) = none → exec (.ashlarAcknowledgement src tag b) s = .next s) ∧
  (∀ s l L rs, s.links.get? l = some L → L.up = true →
    (∃ t, exec (.ashlarFlitReceive l L.rxSeq true rs) s = .next t ∧ t.out = s.out ++ [.flitAck l L.rxSeq] ∧
      t.agenda = s.agenda ++ rs.map .ashlarRequest ∧ (t.links.get? l).map (·.rxSeq) = some ((L.rxSeq + 1) % 4096)) ∧
    (∀ q b, b = false ∨ q ≠ L.rxSeq → ∃ t, exec (.ashlarFlitReceive l q b rs) s = .next t ∧ t.out = s.out ++ [.flitRetry l L.rxSeq] ∧
      (t.links.get? l).map (fun M => (M.rxSeq, M.retries)) = some (L.rxSeq, L.retries + 1) ∧
      (L.retries + 1 = 16 → t.agenda = s.agenda ++ [.linkRetrain l 4])) ∧
    (∀ pre q post, L.unacked = pre ++ q :: post → q ∉ pre → ∃ t, exec (.ashlarRetryRequest l q) s = .next t ∧
      t.out = s.out ++ (q :: post).map (.flitSend l) ∧ (t.links.get? l).map (·.unacked) = some (q :: post))) ∧
  (∀ s l L n, s.links.get? l = some L → s.peerTags = [] → ∃ t, exec (.linkRetrain l n) s = .next t ∧ MemSame s t ∧
    (t.links.get? l).map (fun M => (M.up, M.lanes)) =
      some (if 8 ≤ n then (true, 8) else if 4 ≤ n then (true, 4) else (false, 0))) ∧
  (∀ s id r p pa g e G, Claim.SentStore s id r p pa g e G → (s.clk < r.born + 6600000 → exec (.remoteRequestTimeout id) s = .next s) ∧
    (r.born + 6600000 ≤ s.clk → r.blocking = false → ∃ t, exec (.remoteRequestTimeout id) s = .next t ∧
      (t.grps.get? g).map (·.lost) = some (if G.lost.isSome ∧ ¬(G.lostBy.1 = id ∧ p.lane < G.lostBy.2) then G.lost else some (p.va - BitVec.ofNat 64 p.off)) ∧
      (MemSame s t ∨ Claim.Wrote s t pa p.data))) ∧
  (∀ s p P, s.port p = some P → (∀ pa d, pa + d.length ≤ 2 ^ 39 → Claim.OutsideFree s (idHost p) true pa d.length →
      ∃ t, exec (.cxlMemRequest p (.write pa d)) s = .next t ∧ Claim.Wrote s t pa d ∧ t.out = s.out ++ [.hostAck p]) ∧
    (∀ pa n, pa + n ≤ 2 ^ 39 → Claim.OutsideFree s (idHost p) false pa n → ∃ t, exec (.cxlMemRequest p (.read pa n)) s = .next t ∧
      MemSame s t ∧ t.out = s.out ++ [.hostReply p (s.mem.readBytes pa n) false]) ∧
    (∀ off v, P.ioKey = none → exec (.cxlMemRequest p (.bar0Write off v)) s = .next s) ∧
    (∀ u b, ∃ t, exec (.hostSnoop p u b) s = .next t ∧ MemSame s t ∧ t.out = s.out ++ [.snoopAnswer p u] ∧ t.reqs = s.reqs)) ∧
  (∀ s id r p pa g e G, Claim.SentStore s id r p pa g e G → regionOf pa = .host → ∃ t, exec (.globalObservation id) s = .next t ∧
    Claim.Wrote s t pa p.data ∧ (t.grps.get? g).map (·.offAcks) = some (G.offAcks - 1)) ∧
  (∀ s p P, s.port p = some P → (P.memKey.isSome = true → ∃ t, exec (.ideIntegrityFailure p) s = .next t ∧
      (t.ports.get? p).map (·.up) = some false) ∧
    (P.memKey = none → exec (.ideIntegrityFailure p) s = .next s) ∧
    (∀ k, P.session = none → ∀ b, exec (.ideKm p b k) s = .next s) ∧
    (∀ k, P.session.isSome = true → (∃ t, exec (.ideKm p true k) s = .next t ∧ t.ports.get? p = some { P with memKey := some k }) ∧
      ∃ t, exec (.ideKm p false k) s = .next t ∧ t.ports.get? p = some { P with ioKey := some k }) ∧
    (∃ t, exec (.getVersion p) s = .next t ∧ t.out = s.out ++ [.spdm p 1 [0x13]] ∧
      t.ports.get? p = some { P with spdm := 1, transcript := [1] }) ∧
    (∃ t, exec (.getCapabilities p) s = .next t ∧ t.out = s.out ++ [.spdm p 2 []] ∧
      t.ports.get? p = some { P with spdm := max 2 P.spdm, transcript := P.transcript ++ [2] }) ∧
    (∃ t, exec (.negotiateAlgorithms p) s = .next t ∧ t.out = s.out ++ [.spdm p 3 [384, 384, 384, 256]] ∧
      t.ports.get? p = some { P with spdm := 3, transcript := P.transcript ++ [3] }) ∧
    (∀ x ∈ Claim.spdmPlain s p P, ∃ t, exec x.1 s = .next t ∧ t.out = s.out ++ [.spdm p x.2.1 x.2.2] ∧
      t.ports.get? p = some { P with transcript := P.transcript ++ [x.2.1] }) ∧
    (∀ n, ∃ t y, exec (.challenge p n) s = .next t ∧ t.out = s.out ++ [.spdm p 6 [s.chainDigest, Config.sign s.aliasKey y]] ∧
      t.ports.get? p = some { P with transcript := P.transcript ++ [6] }) ∧
    (∀ n, ∃ t y, exec (.getMeasurements p 1 n) s = .next t ∧ t.out = s.out ++ [.spdm p 7 [s.firmware.digest, Config.sign s.aliasKey y]]) ∧
    (∀ x, ∃ t y z, exec (.keyExchange p x) s = .next t ∧ t.out = s.out ++ [.spdm p 8 [y, Config.sign s.aliasKey z]] ∧
      t.ports.get? p = some { P with handshake := some (Config.ecdhe y x), transcript := P.transcript ++ [8] }) ∧
    (∀ k, P.handshake = some k → (∃ t, exec (.finish p (Config.sha384 k)) s = .next t ∧ t.out = s.out ++ [.spdm p 9 [1]] ∧
        t.ports.get? p = some { P with session := some k, handshake := none, transcript := P.transcript ++ [9] }) ∧
      ∀ m, m ≠ Config.sha384 k → ∃ t, exec (.finish p m) s = .next t ∧ t.out = s.out ++ [.spdm p 9 [0]] ∧
        t.ports.get? p = some { P with handshake := none, transcript := P.transcript ++ [9] }) ∧
    ∃ t, exec (.endSession p) s = .next t ∧ t.out = s.out ++ [.spdm p 11 []] ∧
      t.ports.get? p = some { P with session := none, transcript := P.transcript ++ [11] })

/-- The worked encodings decode as their tables say, at supervisor privilege; the words that are no instruction have the cause and
sub-cause of R32's first row that applies; a supervisor-only instruction is refused at user privilege (R12-R29, R32, R33). -/
def Obligations.DecodeWords : Prop :=
  (∀ p ∈ Claim.vectorWords, decode .vector true p.1 = .instr p.2) ∧
  (∀ p ∈ Claim.keystoneWords, decode .keystone true p.1 = .instr p.2) ∧
  (∀ p ∈ Claim.badWords, decode .vector true p.1 = .bad p.2.1 p.2.2) ∧
  decode .vector false (Claim.word 0xE31E008F#32 0x22808B00#32 0x00000001#32) = .bad 3 0

/-- The encoder and the decoder agree: the word of every well-formed instruction of a stream decodes to it, whatever its operands
and fields, at user privilege too unless it is supervisor-only; and no other well-formed instruction has that word. -/
def Obligations.DecodeEncode : Prop :=
  (∀ st i, i.wf st = true → ∃ w, encode i = some w ∧ decode st true w = .instr i ∧
    decode st false w = if supervisorOnly i.opcode = true then .bad 3 0 else .instr i) ∧
  ∀ st i j w, i.wf st = true → j.wf st = true → encode i = some w → encode j = some w → i = j

/-- A step runs the device step presented first; else the instruction fetched at the selected agent's PC, which in a sector whose
line is current, published and as memory has it, is memory's 12 bytes there (R305, R306); a fault of fetch or decode is
taken; an agent that may not issue is passed over; with nothing selected a clock passes. -/
def Obligations.StepRunsDecoded : Prop :=
  (∀ s e r, s.agenda = e :: r → step s = exec e { s with agenda := r, cur := none }) ∧
  (∀ s a r, s.agenda = [] → s.issue = a :: r →
    (s.mayIssue a = false → step s = .next { s with issue := r }) ∧
    (s.mayIssue a = true →
      (∀ t f va, State.fetch { s with issue := r } a = (t, .error (f, va)) → step s = .next (t.fetchFault a f va)) ∧
      ∀ t bs, State.fetch { s with issue := r } a = (t, .ok bs) →
        (∀ i, decode (streamOf a) (t.supOf a) (wordOfBytes bs) = .instr i → step s = exec i { t with cur := some a }) ∧
        ∀ c n, decode (streamOf a) (t.supOf a) (wordOfBytes bs) = .bad c n → step s = .next (t.raisePlain a c n))) ∧
  (∀ (s t : State) (a : Agent) (x : Xlat) (l : ILine), (s.pcOf a).toNat % 32 ≤ 20 →
    s.translate (s.asidOf a) (s.supOf a) (s.pcOf a) .fetch = (t, .ok x) → x.pa % 32 = (s.pcOf a).toNat % 32 →
    (t.icache a).get? (x.pa / 32) = some l → t.codeTime a ≤ l.rts → l.data = t.mem.readBytes (x.pa / 32 * 32) 32 →
    t.isPublished (x.pa / 32 * 32) = true → s.fetch a = (t, .ok (t.mem.readBytes x.pa 12))) ∧
  ∀ s, s.agenda = [] → s.issue = [] → step s = .next s.clockTick

/-- Every step keeps memory in its canonical form: addresses rise, and no byte listed is the unlisted one. -/
def Obligations.StepKeepsMemory : Prop := ∀ s t, step s = .next t → s.mem.wf = true → t.mem.wf = true

/-- Right after reset: every control register at its reset value (every contract word, FAULTQ and RETRYQ among those that are 0), every
traffic register's WIN 0x0100 and every queue table entry 0, every core's logical and code time 0, its F at FDEF and all its banks in
the cache role, no queue served, no launch, task, group or fault set, HEALTH NOMINAL (a bring-up in which every step succeeds, log 8),
and memory in its canonical form (R230, R267, R294, R295, R305, R314, R328, R337, R349, R366, R423, R426). -/
def Obligations.ResetState : Prop :=
  (∀ n, State.reset.ctlReg n = Claim.resetControl (n % 4096)) ∧
  (∀ d k, d < 4 → k < 4 → State.reset.mmioReg (0x10000 + 0x100 * d + 8 * k) = BitVec.ofNat 64 (0x0100 * 2 ^ 32)) ∧
  (∀ d q, d < 4 → q < 64 → State.reset.mmioReg (0x50000 + 0x200 * d + 8 * q) = 0#64) ∧
  (∀ c, (State.reset.core c).ct = 0 ∧ (State.reset.core c).kt = 0 ∧ (State.reset.core c).f = 14 ∧
    ∀ k, ((State.reset.core c).bank k).role = .cache) ∧
  (∀ c, (State.reset.clu c).kt = 0) ∧
  State.reset.grps = [] ∧ State.reset.tasks = [] ∧ State.reset.launches = [] ∧ State.reset.queues = [] ∧ State.reset.sets = [] ∧
  State.reset.health.st = 0 ∧ State.reset.mem.wf = true
end

