-- ==== Sys2Proof/Laws/Assoc.lean ====
section
/-! SUPPORT. Laws of the sparse data: reading after storing or removing, and the canonical form. -/
set_option Elab.async false
namespace Sys2Proof.Machine
namespace Assoc

theorem get?_set_self {α : Type} (m : Assoc α) (k : Nat) (v : α) : (m.set k v).get? k = some v := by
  induction m with
  | nil => simp [set, get?]
  | cons p r ih =>
    obtain ⟨j, w⟩ := p
    by_cases h1 : k < j
    · simp [set, h1, get?]
    · by_cases h2 : k = j
      · simp [set, h2, get?]
      · have h3 : j ≠ k := fun h => h2 h.symm
        simp [set, h1, h2, get?, h3, ih]

theorem get?_set_ne {α : Type} (m : Assoc α) {k i : Nat} (v : α) (h : i ≠ k) : (m.set k v).get? i = m.get? i := by
  have hk : k ≠ i := fun e => h e.symm
  induction m with
  | nil => simp [set, get?, hk]
  | cons p r ih =>
    obtain ⟨j, w⟩ := p
    by_cases h1 : k < j
    · simp [set, h1, get?, hk]
    · by_cases h2 : k = j
      · subst h2
        simp [set, get?, hk]
      · simp only [set, h1, if_false, h2, get?]
        by_cases h4 : j = i
        · simp [h4]
        · simp [h4, ih]

theorem get?_set {α : Type} (m : Assoc α) (k i : Nat) (v : α) :
    (m.set k v).get? i = if i = k then some v else m.get? i := by
  by_cases h : i = k
  · simp [h, get?_set_self]
  · simp [h, get?_set_ne m v h]

theorem get?_erase_ne {α : Type} (m : Assoc α) {k i : Nat} (h : i ≠ k) : (m.erase k).get? i = m.get? i := by
  have hk : k ≠ i := fun e => h e.symm
  induction m with
  | nil => rfl
  | cons p r ih =>
    obtain ⟨j, w⟩ := p
    by_cases h2 : j = k
    · subst h2
      simp [erase, get?, hk]
    · simp only [erase, h2, if_false, get?]
      by_cases h4 : j = i
      · simp [h4]
      · simp [h4, ih]

theorem get?_update {α : Type} (m : Assoc α) (k i : Nat) (f : α → α) :
    (m.update k f).get? i = if i = k then (m.get? k).map f else m.get? i := by
  unfold update
  cases h : m.get? k with
  | none =>
    by_cases e : i = k
    · simp [e, h]
    · simp [e]
  | some v => simp only [get?_set, Option.map_some]

theorem get?_mapVal {α β : Type} (m : Assoc α) (f : Nat → α → β) (k : Nat) :
    (mapVal m f).get? k = (m.get? k).map (f k) := by
  induction m with
  | nil => rfl
  | cons p r ih =>
    obtain ⟨j, w⟩ := p
    by_cases h : j = k
    · simp [mapVal, get?, h]
    · have := ih
      simp only [mapVal] at this
      simp [mapVal, get?, h, this]

theorem getD_set {α : Type} (m : Assoc α) (k i : Nat) (v d : α) :
    (m.set k v).getD i d = if i = k then v else m.getD i d := by
  unfold getD
  rw [get?_set]
  by_cases h : i = k <;> simp [h]

/-! The canonical form. -/
theorem risingFrom_mono {α : Type} {i j : Nat} (h : i ≤ j) (m : Assoc α) (hm : risingFrom (some j) m = true) :
    risingFrom (some i) m = true := by
  cases m with
  | nil => rfl
  | cons p r =>
    simp only [risingFrom, Bool.and_eq_true, decide_eq_true_eq] at hm ⊢
    exact ⟨by omega, hm.2⟩

theorem risingFrom_none {α : Type} {j : Nat} (m : Assoc α) (hm : risingFrom (some j) m = true) :
    risingFrom none m = true := by
  cases m with
  | nil => rfl
  | cons p r =>
    simp only [risingFrom, Bool.and_eq_true] at hm ⊢
    exact ⟨trivial, hm.2⟩

theorem risingFrom_set {α : Type} (k : Nat) (v : α) (m : Assoc α) (b : Option Nat) (hb : ∀ j, b = some j → j < k)
    (hm : risingFrom b m = true) : risingFrom b (m.set k v) = true := by
  induction m generalizing b with
  | nil => cases b with
    | none => rfl
    | some j => simpa [set, risingFrom] using hb j rfl
  | cons p r ih =>
    obtain ⟨j, w⟩ := p
    simp only [risingFrom, Bool.and_eq_true] at hm
    unfold set
    split
    · rename_i h
      simp only [risingFrom, Bool.and_eq_true, decide_eq_true_eq]
      refine ⟨?_, h, hm.2⟩
      cases b with
      | none => rfl
      | some i => simpa using hb i rfl
    · split
      · rename_i h
        subst h
        simpa [risingFrom] using hm
      · simp only [risingFrom, Bool.and_eq_true]
        refine ⟨hm.1, ih _ (fun i hi => ?_) hm.2⟩
        injection hi with hi
        omega

theorem risingFrom_erase {α : Type} (k : Nat) (m : Assoc α) (b : Option Nat) (hm : risingFrom b m = true) :
    risingFrom b (m.erase k) = true := by
  induction m generalizing b with
  | nil => rfl
  | cons p r ih =>
    obtain ⟨j, w⟩ := p
    simp only [risingFrom, Bool.and_eq_true] at hm
    unfold erase
    split
    · cases b with
      | none => exact risingFrom_none r hm.2
      | some i =>
        have : i < j := by simpa using hm.1
        exact risingFrom_mono (Nat.le_of_lt this) r hm.2
    · simp only [risingFrom, Bool.and_eq_true]
      exact ⟨hm.1, ih _ hm.2⟩

theorem wf_set {α : Type} (m : Assoc α) (k : Nat) (v : α) (hm : wf m = true) : wf (m.set k v) = true :=
  risingFrom_set k v m none (fun _ h => nomatch h) hm
theorem wf_erase {α : Type} (m : Assoc α) (k : Nat) (hm : wf m = true) : wf (m.erase k) = true :=
  risingFrom_erase k m none hm
theorem wf_put {α : Type} [DecidableEq α] (d : α) (m : Assoc α) (k : Nat) (v : α) (hm : wf m = true) :
    wf (m.put d k v) = true := by
  unfold put
  split
  · exact wf_erase m k hm
  · exact wf_set m k v hm

/-- Absent keys below the first entry. -/
theorem get?_of_risingFrom {α : Type} (m : Assoc α) {i k : Nat} (hm : risingFrom (some i) m = true) (h : k ≤ i) :
    m.get? k = none := by
  induction m generalizing i with
  | nil => rfl
  | cons p r ih =>
    obtain ⟨j, w⟩ := p
    simp only [risingFrom, Bool.and_eq_true, decide_eq_true_eq] at hm
    have : j ≠ k := by omega
    simp only [get?, this, if_false]
    exact ih hm.2 (by omega)

theorem get?_erase_self {α : Type} (m : Assoc α) (k : Nat) (b : Option Nat) (hm : risingFrom b m = true) :
    (m.erase k).get? k = none := by
  induction m generalizing b with
  | nil => rfl
  | cons p r ih =>
    obtain ⟨j, w⟩ := p
    simp only [risingFrom, Bool.and_eq_true] at hm
    by_cases h : j = k
    · subst h
      simp only [erase, if_true]
      exact get?_of_risingFrom r hm.2 (Nat.le_refl _)
    · simp only [erase, h, if_false, get?]
      exact ih _ hm.2

theorem getD_put {α : Type} [DecidableEq α] (d : α) (m : Assoc α) (k i : Nat) (v : α) (hm : wf m = true) :
    (m.put d k v).getD i d = if i = k then v else m.getD i d := by
  unfold put getD
  by_cases hv : v = d
  · simp only [hv, if_true]
    by_cases h : i = k
    · simp [h, get?_erase_self m k none hm]
    · simp [h, get?_erase_ne m h]
  · simp only [hv, if_false, get?_set]
    by_cases h : i = k <;> simp [h]
end Assoc

theorem getD_setAt {α : Type} (d : α) (xs : List α) (i j : Nat) (x : α) :
    (setAt d xs i x).getD j d = if j = i then x else xs.getD j d := by
  induction xs generalizing i j with
  | nil =>
    induction i generalizing j with
    | zero => cases j <;> simp [setAt]
    | succ n ih => cases j with
      | zero => simp [setAt]
      | succ m => simpa [setAt] using ih m
  | cons y r ih =>
    cases i with
    | zero => cases j <;> simp [setAt]
    | succ n => cases j with
      | zero => simp [setAt]
      | succ m => simpa [setAt] using ih n m

end Sys2Proof.Machine
end

