-- ==== Sys2Proof/Laws/Elements.lean ====
section
/-! SUPPORT. The element operations on naturals against bit-vector arithmetic of the element's width. -/
set_option Elab.async false
namespace Sys2Proof.Machine

theorem two_pow_cast (w : Nat) : ((2 ^ w : Nat) : Int) = 2 ^ w := by norm_cast

theorem wrapInt_ofInt (w : Nat) (z : Int) : wrapInt w z = (BitVec.ofInt w z).toNat := by
  unfold wrapInt
  rw [BitVec.toNat_ofInt, two_pow_cast]

theorem intVal_unsigned {w : Nat} (x : BitVec w) : intVal w false x.toNat = (x.toNat : Int) := by
  unfold intVal
  rw [if_neg (by simp)]
  have h := x.isLt
  rw [← two_pow_cast, ← Int.natCast_emod, Nat.mod_eq_of_lt h]

theorem intVal_signed {w : Nat} (hw : 0 < w) (x : BitVec w) : intVal w true x.toNat = x.toInt := by
  unfold intVal
  rw [if_pos rfl]
  unfold sextNat
  have h := x.isLt
  rw [Nat.mod_eq_of_lt h, BitVec.toInt_eq_toNat_cond]
  have e : (2 ^ w : Nat) = 2 * 2 ^ (w - 1) := by
    conv => lhs; rw [show w = (w - 1) + 1 by omega, Nat.pow_succ]
    omega
  have e2 := two_pow_cast w
  have e3 : ((x.toNat : Int) % 2 ^ w) = (x.toNat : Int) := by
    rw [← e2, ← Int.natCast_emod, Nat.mod_eq_of_lt h]
  rw [e3]
  by_cases hc : 2 ^ (w - 1) ≤ x.toNat
  · rw [if_pos hc, if_neg (by omega), ← e2]
  · rw [if_neg hc, if_pos (by omega)]

theorem ofInt_intVal {w : Nat} (hw : 0 < w) (sg : Bool) (x : BitVec w) : BitVec.ofInt w (intVal w sg x.toNat) = x := by
  cases sg
  · rw [intVal_unsigned]
    simp
  · rw [intVal_signed hw]
    simp

theorem elAdd_wrap {w : Nat} (hw : 0 < w) (sg : Bool) (a b : BitVec w) (c : Nat) :
    elAdd w sg false a.toNat b.toNat c = (a + b).toNat := by
  unfold elAdd fitInt
  rw [if_neg (by simp), wrapInt_ofInt, BitVec.ofInt_add, ofInt_intVal hw, ofInt_intVal hw]
theorem elSub_wrap {w : Nat} (hw : 0 < w) (sg : Bool) (a b : BitVec w) (c : Nat) :
    elSub w sg false a.toNat b.toNat c = (a - b).toNat := by
  unfold elSub fitInt
  rw [if_neg (by simp), wrapInt_ofInt, Int.sub_eq_add_neg, BitVec.ofInt_add, BitVec.ofInt_neg, ofInt_intVal hw,
    ofInt_intVal hw, BitVec.sub_eq_add_neg]
theorem elMul_wrap {w : Nat} (hw : 0 < w) (sg : Bool) (a b : BitVec w) (c : Nat) :
    elMul w sg false a.toNat b.toNat c = (a * b).toNat := by
  unfold elMul fitInt
  rw [if_neg (by simp), wrapInt_ofInt, BitVec.ofInt_mul, ofInt_intVal hw, ofInt_intVal hw]
theorem elMad_wrap {w : Nat} (hw : 0 < w) (sg : Bool) (a b c : BitVec w) :
    elMad w sg false a.toNat b.toNat c.toNat = (a * b + c).toNat := by
  unfold elMad fitInt
  rw [if_neg (by simp), wrapInt_ofInt, BitVec.ofInt_add, BitVec.ofInt_mul, ofInt_intVal hw, ofInt_intVal hw, ofInt_intVal hw]
theorem elNeg_wrap {w : Nat} (hw : 0 < w) (sg : Bool) (a : BitVec w) (b c : Nat) :
    elNeg w sg false a.toNat b c = (-a).toNat := by
  unfold elNeg fitInt
  rw [if_neg (by simp), wrapInt_ofInt, BitVec.ofInt_neg, ofInt_intVal hw]

theorem intVal_lt {w : Nat} (hw : 0 < w) (sg : Bool) (a b : BitVec w) :
    intVal w sg a.toNat < intVal w sg b.toNat ↔ (if sg then a.slt b else a.ult b) = true := by
  cases sg
  · rw [intVal_unsigned, intVal_unsigned]
    simp [BitVec.ult]
  · rw [intVal_signed hw, intVal_signed hw]
    simp [BitVec.slt]

theorem elMin_eq {w : Nat} (hw : 0 < w) (sg sat : Bool) (a b : BitVec w) (c : Nat) :
    elMin w sg sat a.toNat b.toNat c = (if (if sg then b.slt a else b.ult a) then b else a).toNat := by
  unfold elMin
  rw [Nat.mod_eq_of_lt a.isLt, Nat.mod_eq_of_lt b.isLt]
  by_cases h : (if sg then b.slt a else b.ult a) = true
  · rw [if_pos ((intVal_lt hw sg b a).2 h), if_pos h]
  · rw [if_neg fun k => h ((intVal_lt hw sg b a).1 k), if_neg h]
theorem elMax_eq {w : Nat} (hw : 0 < w) (sg sat : Bool) (a b : BitVec w) (c : Nat) :
    elMax w sg sat a.toNat b.toNat c = (if (if sg then a.slt b else a.ult b) then b else a).toNat := by
  unfold elMax
  rw [Nat.mod_eq_of_lt a.isLt, Nat.mod_eq_of_lt b.isLt]
  by_cases h : (if sg then a.slt b else a.ult b) = true
  · rw [if_pos ((intVal_lt hw sg a b).2 h), if_pos h]
  · rw [if_neg fun k => h ((intVal_lt hw sg a b).1 k), if_neg h]

theorem elAnd_eq {w : Nat} (sg sat : Bool) (a b : BitVec w) (c : Nat) : elAnd w sg sat a.toNat b.toNat c = (a &&& b).toNat := by
  simp [elAnd]
theorem elOr_eq {w : Nat} (sg sat : Bool) (a b : BitVec w) (c : Nat) : elOr w sg sat a.toNat b.toNat c = (a ||| b).toNat := by
  simp [elOr]
theorem elXor_eq {w : Nat} (sg sat : Bool) (a b : BitVec w) (c : Nat) : elXor w sg sat a.toNat b.toNat c = (a ^^^ b).toNat := by
  simp [elXor]
theorem elNotNat_eq {w : Nat} (a : BitVec w) : elNotNat w a.toNat = (~~~a).toNat := by
  unfold elNotNat
  rw [Nat.mod_eq_of_lt a.isLt, BitVec.toNat_not]
theorem elNot_eq {w : Nat} (sg sat : Bool) (a : BitVec w) (b c : Nat) : elNot w sg sat a.toNat b c = (~~~a).toNat := elNotNat_eq a
theorem elAndn_eq {w : Nat} (sg sat : Bool) (a b : BitVec w) (c : Nat) :
    elAndn w sg sat a.toNat b.toNat c = (a &&& ~~~b).toNat := by
  unfold elAndn
  rw [elNotNat_eq]
  simp
theorem elMov_eq {w : Nat} (sg sat : Bool) (a : BitVec w) (b c : Nat) : elMov w sg sat a.toNat b c = a.toNat := rfl

/-! Shifts by a count that is not of 64 bits. -/
theorem elShl_eq {w : Nat} (sg : Bool) (a : BitVec w) (b c : Nat) :
    elShl w sg false a.toNat b c = (a <<< shiftCount w b).toNat := by
  unfold elShl
  dsimp only
  rw [if_neg (by simp), BitVec.toNat_shiftLeft]
  split
  · rename_i h
    rw [Nat.shiftLeft_eq]
    have : 2 ^ w ∣ a.toNat * 2 ^ shiftCount w b := Nat.dvd_trans (Nat.pow_dvd_pow 2 h) (Nat.dvd_mul_left _ _)
    exact (Nat.mod_eq_zero_of_dvd this).symm
  · rw [Nat.shiftLeft_eq]
theorem elShr_eq {w : Nat} (sg sat : Bool) (a : BitVec w) (b c : Nat) :
    elShr w sg sat a.toNat b c = (a >>> shiftCount w b).toNat := by
  unfold elShr
  dsimp only
  rw [Nat.mod_eq_of_lt a.isLt, BitVec.toNat_ushiftRight, Nat.shiftRight_eq_div_pow]
  split
  · rename_i h
    have : a.toNat < 2 ^ shiftCount w b := Nat.lt_of_lt_of_le a.isLt (Nat.pow_le_pow_right (by omega) h)
    exact (Nat.div_eq_of_lt this).symm
  · rfl
theorem elSar_eq {w : Nat} (hw : 0 < w) (sg sat : Bool) (a : BitVec w) (b c : Nat) :
    elSar w sg sat a.toNat b c = (a.sshiftRight (shiftCount w b)).toNat := by
  unfold elSar
  dsimp only
  have hs : sextNat w a.toNat = a.toInt := by
    have := intVal_signed hw a
    simpa [intVal] using this
  rw [Nat.mod_eq_of_lt a.isLt]
  have hm : (2 ^ (w - 1) ≤ a.toNat) ↔ a.msb = true := by
    rw [BitVec.msb_eq_decide]
    simp
  split
  · rename_i h
    have e : a.sshiftRight (shiftCount w b) = if a.msb then BitVec.allOnes w else 0#w := by
      ext i hi
      rw [BitVec.getElem_sshiftRight, dif_neg (by omega)]
      cases a.msb <;> simp
    rw [e]
    by_cases k : a.msb = true
    · rw [if_pos (hm.2 k), if_pos k, BitVec.toNat_allOnes]
    · rw [if_neg fun q => k (hm.1 q), if_neg k]
      rfl
  · rw [wrapInt_ofInt, hs, BitVec.sshiftRight, Int.shiftRight_eq_div_pow]
    norm_cast

/-! Counts of bits. -/
theorem popcNat_eq (n x : Nat) : popcNat n x = (List.range n).countP fun i => x.testBit i := by
  induction n generalizing x with
  | zero => rfl
  | succ n ih =>
    rw [popcNat, ih, List.range_succ_eq_map, List.countP_cons, List.countP_map]
    have e : (List.range n).countP ((fun i => x.testBit i) ∘ Nat.succ) = (List.range n).countP fun i => (x / 2).testBit i := by
      congr 1
      funext i
      simp [Nat.testBit_succ]
    rw [e, Nat.testBit_zero]
    rcases Nat.mod_two_eq_zero_or_one x with h | h <;> simp [h] <;> omega

theorem elPopc_eq {w : Nat} (sg sat : Bool) (a : BitVec w) (b c : Nat) :
    elPopc w sg sat a.toNat b c = (List.range w).countP a.getLsbD := popcNat_eq w a.toNat

theorem ctzNat_eq (n x : Nat) : ctzNat n x = ((List.range n).find? fun i => x.testBit i).getD n := by
  induction n generalizing x with
  | zero => rfl
  | succ n ih =>
    rw [ctzNat, ih, List.range_succ_eq_map, List.find?_cons, Nat.testBit_zero]
    by_cases h : x % 2 = 1
    · simp [h]
    · simp only [h, if_false, decide_false, List.find?_map]
      have e : ((fun i => x.testBit i) ∘ Nat.succ) = fun i => (x / 2).testBit i := by
        funext i
        simp [Nat.testBit_succ]
      rw [e]
      cases (List.range n).find? fun i => (x / 2).testBit i with
      | none => simp; omega
      | some i => simp; omega

theorem elCtz_eq {w : Nat} (sg sat : Bool) (a : BitVec w) (b c : Nat) :
    elCtz w sg sat a.toNat b c = ((List.range w).find? fun i => a.getLsbD i).getD w := ctzNat_eq w a.toNat

theorem find_range_least (n k : Nat) (p : Nat → Bool) (hk : k < n) (hp : p k = true) (hl : ∀ i, i < k → p i = false) :
    (List.range n).find? p = some k := by
  rw [List.find?_range_eq_some]
  exact ⟨hp, by simpa using hk, fun i hi => by simp [hl i hi]⟩

theorem elClz_eq {w : Nat} (sg sat : Bool) (a : BitVec w) (b c : Nat) :
    elClz w sg sat a.toNat b c = ((List.range w).find? fun i => a.getLsbD (w - 1 - i)).getD w := by
  unfold elClz
  rw [Nat.mod_eq_of_lt a.isLt]
  by_cases h : a.toNat = 0
  · rw [if_pos h]
    have : (List.range w).find? (fun i => a.getLsbD (w - 1 - i)) = none := by
      rw [List.find?_eq_none]
      intro i _
      simp [BitVec.getLsbD, h]
    rw [this]
    rfl
  · rw [if_neg h]
    have hlt : Nat.log2 a.toNat < w := (Nat.log2_lt h).2 a.isLt
    rw [find_range_least w (w - 1 - Nat.log2 a.toNat) _ (by omega)]
    · rfl
    · have : w - 1 - (w - 1 - Nat.log2 a.toNat) = Nat.log2 a.toNat := by omega
      rw [this]
      exact Nat.testBit_log2 h
    · intro i hi
      have hb : a.toNat < 2 ^ (w - 1 - i) := (Nat.log2_lt h).1 (by omega)
      exact Nat.testBit_lt_two_pow hb

theorem testBit_brevNat (n x i : Nat) (hi : i < n) : (brevNat n x).testBit i = x.testBit (n - 1 - i) := by
  induction n generalizing x i with
  | zero => omega
  | succ n ih =>
    have hb : ∀ (m y : Nat), brevNat m y < 2 ^ m := by
      intro m
      induction m with
      | zero => intro y; simp [brevNat]
      | succ m ihm =>
        intro y
        have := ihm (y / 2)
        have h2 : y % 2 ≤ 1 := by omega
        rw [brevNat, Nat.pow_succ]
        have : y % 2 * 2 ^ m ≤ 1 * 2 ^ m := Nat.mul_le_mul_right _ h2
        omega
    rw [brevNat, Nat.mul_comm, Nat.testBit_two_pow_mul_add _ (hb n (x / 2))]
    by_cases h : i < n
    · rw [if_pos h, ih (x / 2) i h]
      have : n + 1 - 1 - i = (n - 1 - i) + 1 := by omega
      rw [this, Nat.testBit_succ]
    · have e : i = n := by omega
      subst e
      rw [if_neg h]
      simp

theorem elBrev_eq {w : Nat} (sg sat : Bool) (a : BitVec w) (b c : Nat) : elBrev w sg sat a.toNat b c = a.reverse.toNat := by
  apply Nat.eq_of_testBit_eq
  intro i
  show (brevNat w a.toNat).testBit i = a.reverse.getLsbD i
  by_cases h : i < w
  · rw [testBit_brevNat w _ i h, BitVec.getLsbD_reverse, BitVec.getMsbD]
    simp [h, BitVec.getLsbD]
  · rw [BitVec.getLsbD_of_ge _ _ (by omega)]
    have hb : ∀ (m y : Nat), brevNat m y < 2 ^ m := by
      intro m
      induction m with
      | zero => intro y; simp [brevNat]
      | succ m ihm =>
        intro y
        have := ihm (y / 2)
        have h2 : y % 2 ≤ 1 := by omega
        rw [brevNat, Nat.pow_succ]
        have : y % 2 * 2 ^ m ≤ 1 * 2 ^ m := Nat.mul_le_mul_right _ h2
        omega
    exact Nat.testBit_lt_two_pow (Nat.lt_of_lt_of_le (hb w _) (Nat.pow_le_pow_right (by omega) (by omega)))

/-! Conditions (R81) and division (R68). -/
theorem intVal_inj {w : Nat} (hw : 0 < w) (sg : Bool) (a b : BitVec w) :
    intVal w sg a.toNat = intVal w sg b.toNat ↔ a = b := by
  constructor
  · intro h
    have := congrArg (BitVec.ofInt w) h
    rwa [ofInt_intVal hw, ofInt_intVal hw] at this
  · intro h
    rw [h]

theorem intVal_le {w : Nat} (hw : 0 < w) (sg : Bool) (a b : BitVec w) :
    intVal w sg a.toNat ≤ intVal w sg b.toNat ↔ (if sg then a.sle b else a.ule b) = true := by
  cases sg
  · rw [intVal_unsigned, intVal_unsigned]
    simp [BitVec.ule]
  · rw [intVal_signed hw, intVal_signed hw]
    simp [BitVec.sle]

theorem divRem_eq {w : Nat} (hw : 0 < w) (sg : Bool) (a b : BitVec w) :
    divRem w sg a.toNat b.toNat =
      ((if sg then (if b = 0#w then (if a.msb then BitVec.intMin w else BitVec.intMax w) else BitVec.sdiv a b)
        else if b = 0#w then BitVec.allOnes w else a / b).toNat,
        (if b = 0#w then a else if sg then BitVec.srem a b else a % b).toNat) := by
  unfold divRem
  dsimp only
  have h0 : intVal w sg b.toNat = 0 ↔ b = 0#w := by
    have hz : intVal w sg (0#w).toNat = 0 := by
      cases sg
      · rw [intVal_unsigned]; simp
      · rw [intVal_signed hw]; simp
    rw [← hz, intVal_inj hw]
  have e2 := two_pow_cast w
  by_cases hb : b = 0#w
  · rw [if_pos (h0.2 hb), if_pos hb, if_pos hb, if_pos hb, Nat.mod_eq_of_lt a.isLt]
    cases sg
    · simp [BitVec.toNat_allOnes]
    · rw [if_pos rfl, if_pos rfl, intVal_signed hw]
      have hm : 0 ≤ a.toInt ↔ a.msb = false := by
        rw [BitVec.msb_eq_toInt]
        simp
      have e3 : (2 : Int) ^ w = 2 * 2 ^ (w - 1) := by
        conv => lhs; rw [show w = (w - 1) + 1 by omega, Int.pow_succ]
        omega
      have e4 : (0 : Int) < 2 ^ (w - 1) := by
        have := two_pow_cast (w - 1)
        rw [← this]
        exact_mod_cast Nat.two_pow_pos (w - 1)
      by_cases hs : a.msb = true
      · rw [if_neg (by rw [hm]; simp [hs]), if_pos hs]
        unfold wrapInt intMin
        rw [if_pos rfl, BitVec.toNat_intMin_of_pos hw]
        have : (-2 ^ (w - 1) : Int) % 2 ^ w = 2 ^ (w - 1) := by
          rw [e3, ← Int.add_emod_right]
          rw [Int.emod_eq_of_lt] <;> omega
        rw [this]
        norm_cast
      · rw [if_pos (by rw [hm]; simpa using hs), if_neg hs]
        unfold wrapInt intMax
        rw [if_pos rfl, BitVec.toNat_intMax]
        have : (2 ^ (w - 1) - 1 : Int) % 2 ^ w = 2 ^ (w - 1) - 1 := by
          rw [Int.emod_eq_of_lt] <;> omega
        rw [this, ← two_pow_cast (w - 1)]
        have hp := Nat.two_pow_pos (w - 1)
        refine Prod.ext ?_ rfl
        show ((2 ^ (w - 1) : Nat) - 1 : Int).toNat = 2 ^ (w - 1) - 1
        omega
  · rw [if_neg fun q => hb (h0.1 q), if_neg hb, if_neg hb, if_neg hb]
    cases sg
    · rw [intVal_unsigned, intVal_unsigned]
      simp only [Bool.false_eq_true, if_false]
      have hd : Int.tdiv (a.toNat : Int) b.toNat = ((a.toNat / b.toNat : Nat) : Int) := by
        exact Int.ofNat_tdiv _ _ |>.symm
      have hr : (a.toNat : Int) - b.toNat * ((a.toNat / b.toNat : Nat) : Int) = ((a.toNat % b.toNat : Nat) : Int) := by
        have := Nat.div_add_mod a.toNat b.toNat
        have h2 : ((b.toNat * (a.toNat / b.toNat) + a.toNat % b.toNat : Nat) : Int) = (a.toNat : Int) := by rw [this]
        push_cast at h2 ⊢
        omega
      rw [hd, hr]
      have hw2 : ∀ n : Nat, n < 2 ^ w → wrapInt w (n : Int) = n := by
        intro n hn
        unfold wrapInt
        rw [← e2, ← Int.natCast_emod, Nat.mod_eq_of_lt hn]
        rfl
      rw [hw2 _ (Nat.lt_of_le_of_lt (Nat.div_le_self _ _) a.isLt), hw2 _ (Nat.lt_of_le_of_lt (Nat.mod_le _ _) a.isLt)]
      simp [BitVec.toNat_udiv, BitVec.toNat_umod]
    · rw [intVal_signed hw, intVal_signed hw, if_pos rfl, if_pos rfl]
      have hr : a.toInt - b.toInt * Int.tdiv a.toInt b.toInt = Int.tmod a.toInt b.toInt := (Int.tmod_def _ _).symm
      rw [hr, wrapInt_ofInt, wrapInt_ofInt]
      have h1 : BitVec.ofInt w (Int.tdiv a.toInt b.toInt) = BitVec.sdiv a b := by
        apply BitVec.eq_of_toInt_eq
        rw [BitVec.toInt_ofInt, BitVec.toInt_sdiv]
      have h2 : BitVec.ofInt w (Int.tmod a.toInt b.toInt) = BitVec.srem a b := by
        apply BitVec.eq_of_toInt_eq
        rw [← BitVec.toInt_srem, BitVec.ofInt_toInt]
      rw [h1, h2]

/-! Products, rotation and bit fields (R66, R76, R77). -/
theorem elMulhi_eq {w : Nat} (hw : 0 < w) (sg sat : Bool) (a b : BitVec w) (c : Nat) :
    elMulhi w sg sat a.toNat b.toNat c =
      (if sg then ((a.signExtend (2 * w) * b.signExtend (2 * w)) >>> w).setWidth w
        else ((a.setWidth (2 * w) * b.setWidth (2 * w)) >>> w).setWidth w).toNat := by
  unfold elMulhi
  have key : ∀ (z : Int), wrapInt w (z / 2 ^ w) = ((BitVec.ofInt (2 * w) z >>> w).setWidth w).toNat := by
    intro z
    unfold wrapInt
    rw [BitVec.toNat_setWidth, BitVec.toNat_ushiftRight, BitVec.toNat_ofInt, Nat.shiftRight_eq_div_pow]
    have e1 := two_pow_cast w
    have e2 := two_pow_cast (2 * w)
    have e3 : (2 : Int) ^ (2 * w) = 2 ^ w * 2 ^ w := by
      rw [Nat.two_mul, Int.pow_add]
    have hp : (0 : Int) < 2 ^ w := by rw [← e1]; exact_mod_cast Nat.two_pow_pos w
    have hz : 0 ≤ z % (2 ^ w * 2 ^ w) := Int.emod_nonneg _ (by
      have := Int.mul_pos hp hp
      omega)
    apply Int.ofNat_inj.1
    rw [Int.toNat_of_nonneg (Int.emod_nonneg _ (by omega))]
    push_cast
    rw [e3, Int.toNat_of_nonneg hz]
    have hB : (2 : Int) ^ w ≠ 0 := by omega
    conv => lhs; rw [← Int.mul_ediv_add_emod z (2 ^ w * 2 ^ w), Int.mul_assoc,
      Int.add_comm, Int.add_mul_ediv_left _ _ hB, Int.add_mul_emod_self_left]
  rw [key, BitVec.ofInt_mul]
  cases sg
  · rw [intVal_unsigned, intVal_unsigned]
    have e : ∀ x : BitVec w, BitVec.ofInt (2 * w) (x.toNat : Int) = x.setWidth (2 * w) := by
      intro x
      apply BitVec.eq_of_toNat_eq
      simp
    rw [e, e]
    rfl
  · rw [intVal_signed hw, intVal_signed hw]
    rfl

theorem intVal_mod (w : Nat) (sg : Bool) (y : Nat) : intVal w sg y = intVal w sg (BitVec.ofNat w y).toNat := by
  unfold intVal sextNat
  rw [BitVec.toNat_ofNat, Nat.mod_mod, ← two_pow_cast, ← Int.natCast_emod, ← Int.natCast_emod, Nat.mod_mod]

theorem testBit_wrapInt32 (len : Nat) (hl : 0 < len) (sg : Bool) (y i : Nat) (hi : i < 32) :
    (wrapInt 32 (intVal len sg y)).testBit i = if i < len then y.testBit i else sg && y.testBit (len - 1) := by
  rw [intVal_mod, wrapInt_ofInt]
  cases sg
  · rw [intVal_unsigned]
    have e : BitVec.ofInt 32 ((BitVec.ofNat len y).toNat : Int) = (BitVec.ofNat len y).setWidth 32 := by
      apply BitVec.eq_of_toNat_eq
      rw [BitVec.toNat_ofInt, BitVec.toNat_setWidth, ← Int.natCast_emod, Int.toNat_natCast]
    rw [e]
    show ((BitVec.ofNat len y).setWidth 32).getLsbD i = _
    rw [BitVec.getLsbD_setWidth, BitVec.getLsbD_ofNat]
    by_cases h : i < len <;> simp [h, hi]
  · rw [intVal_signed hl]
    show ((BitVec.ofNat len y).signExtend 32).getLsbD i = _
    rw [BitVec.getLsbD_signExtend]
    by_cases h : i < len
    · rw [if_pos h, if_pos h, BitVec.getLsbD_ofNat]
      simp [h, hi]
    · rw [if_neg h, if_neg h, BitVec.msb_eq_getLsbD_last, BitVec.getLsbD_ofNat]
      have : len - 1 < len := by omega
      simp [hi, this]

/-- Bit i of bfe of a under the field descriptor b. -/
theorem testBit_elBfe (sg sat : Bool) (a b c i : Nat) (hi : i < 32) :
    (elBfe 32 sg sat a b c).testBit i =
      if i < fieldLen b then a.testBit (fieldPos b + i) else fieldLen b != 0 && sg && a.testBit (fieldPos b + fieldLen b - 1) := by
  unfold elBfe
  dsimp only
  by_cases h : fieldLen b = 0
  · rw [if_pos h, if_neg (by omega)]
    simp [h]
  · rw [if_neg h, testBit_wrapInt32 _ (by omega) _ _ _ hi]
    have e : ∀ j, (a / 2 ^ fieldPos b).testBit j = a.testBit (fieldPos b + j) := fun j => by
      rw [Nat.testBit_div_two_pow, Nat.add_comm]
    rw [e, e]
    have e2 : fieldPos b + (fieldLen b - 1) = fieldPos b + fieldLen b - 1 := by omega
    have e3 : (fieldLen b != 0) = true := by simpa using h
    rw [e2, e3, Bool.true_and]

theorem fieldLen_le (b : Nat) : fieldPos b + fieldLen b ≤ 32 := by
  unfold fieldPos fieldLen
  omega

theorem elBfe_lt (sg sat : Bool) (a b c : Nat) : elBfe 32 sg sat a b c < 2 ^ 32 := by
  unfold elBfe
  dsimp only
  split
  · omega
  · rw [wrapInt_ofInt]
    exact (BitVec.ofInt 32 _).isLt

/-- Bit i of bfi: c with a field replaced by the low bits of a. -/
theorem testBit_elBfi (sg sat : Bool) (a b c i : Nat) (hi : i < 32) :
    (elBfi 32 sg sat a b c).testBit i =
      if fieldPos b ≤ i && i < fieldPos b + fieldLen b then a.testBit (i - fieldPos b) else c.testBit i := by
  unfold elBfi
  dsimp only
  have h1 := fieldLen_le b
  have hm : (2 ^ fieldLen b - 1) * 2 ^ fieldPos b < 2 ^ 32 := by
    have : (2 ^ fieldLen b - 1) * 2 ^ fieldPos b < 2 ^ fieldLen b * 2 ^ fieldPos b :=
      Nat.mul_lt_mul_of_pos_right (by have := Nat.two_pow_pos (fieldLen b); omega) (Nat.two_pow_pos _)
    rw [← Nat.pow_add] at this
    exact Nat.lt_of_lt_of_le this (Nat.pow_le_pow_right (by omega) (by omega))
  have hn : elNotNat 32 ((2 ^ fieldLen b - 1) * 2 ^ fieldPos b) = 2 ^ 32 - ((2 ^ fieldLen b - 1) * 2 ^ fieldPos b + 1) := by
    unfold elNotNat
    rw [Nat.mod_eq_of_lt hm]
    omega
  rw [hn, Nat.testBit_or, Nat.testBit_and, Nat.testBit_two_pow_sub_succ hm, Nat.testBit_mul_two_pow,
    Nat.testBit_mul_two_pow, Nat.testBit_two_pow_sub_one, Nat.testBit_mod_two_pow]
  by_cases p : fieldPos b ≤ i
  · by_cases q : i < fieldPos b + fieldLen b
    · have : i - fieldPos b < fieldLen b := by omega
      simp [p, q, this]
    · have : ¬ i - fieldPos b < fieldLen b := by omega
      simp [p, q, this, hi]
  · simp [p, hi]

end Sys2Proof.Machine
end

