-- ==== Sys2Proof/Laws/Fuse.lean ====
section
/-! SUPPORT. What the fuse and join rules leave as it was (R15, R133, R135): everything of a group but its fragments, its
records and the vector registers whose last read is pending. -/
set_option Elab.async false
namespace Sys2Proof.Machine

/-- The fuse rules change only fragments, records, and the registers whose last read is pending. -/
structure FuseKeeps (G H : Group) : Prop where
  rest : groupRest H = groupRest G
  sreg : H.sreg = G.sreg
  preds : H.preds = G.preds
  busy : H.busy = G.busy
  reg : ∀ v, v ∉ G.lastRead → H.reg.get? v = G.reg.get? v
  last : ∀ v, v ∈ H.lastRead → v ∈ G.lastRead

theorem FuseKeeps.refl (G : Group) : FuseKeeps G G := ⟨rfl, rfl, rfl, rfl, fun _ _ => rfl, fun _ h => h⟩

theorem FuseKeeps.trans {G H K : Group} (a : FuseKeeps G H) (b : FuseKeeps H K) : FuseKeeps G K :=
  ⟨b.rest.trans a.rest, b.sreg.trans a.sreg, b.preds.trans a.preds, b.busy.trans a.busy,
    fun v hv => (b.reg v fun h => hv (a.last v h)).trans (a.reg v hv), fun v h => a.last v (b.last v h)⟩

theorem fuseKeeps_frags (G : Group) (fr : Assoc Frag) (fu : Assoc FuseRec) :
    FuseKeeps G { G with frags := fr, fuses := fu } :=
  ⟨rfl, rfl, rfl, rfl, fun _ _ => rfl, fun _ h => h⟩

theorem unmap_rest (G : Group) (v : Nat) :
    groupRest (G.unmap v) = groupRest G ∧ (G.unmap v).sreg = G.sreg ∧ (G.unmap v).preds = G.preds ∧
      (G.unmap v).busy = G.busy ∧ (G.unmap v).lastRead = G.lastRead ∧ (G.unmap v).frags = G.frags ∧
      (G.unmap v).fuses = G.fuses ∧ ∀ w, w ≠ v → (G.unmap v).reg.get? w = G.reg.get? w :=
  ⟨rfl, rfl, rfl, rfl, rfl, rfl, rfl, fun _ hw => Assoc.get?_erase_ne _ hw⟩

theorem unmapAll_rest (vs : List Nat) (G : Group) :
    groupRest (vs.foldl Group.unmap G) = groupRest G ∧ (vs.foldl Group.unmap G).sreg = G.sreg ∧
      (vs.foldl Group.unmap G).preds = G.preds ∧ (vs.foldl Group.unmap G).busy = G.busy ∧
      (vs.foldl Group.unmap G).lastRead = G.lastRead ∧ (vs.foldl Group.unmap G).frags = G.frags ∧
      (vs.foldl Group.unmap G).fuses = G.fuses ∧
      ∀ w, w ∉ vs → (vs.foldl Group.unmap G).reg.get? w = G.reg.get? w := by
  induction vs generalizing G with
  | nil => exact ⟨rfl, rfl, rfl, rfl, rfl, rfl, rfl, fun _ _ => rfl⟩
  | cons v r ih =>
    obtain ⟨h1, h2, h3, h4, h5, h6, h7, h8⟩ := ih (G.unmap v)
    obtain ⟨k1, k2, k3, k4, k5, k6, k7, k8⟩ := unmap_rest G v
    refine ⟨h1.trans k1, h2.trans k2, h3.trans k3, h4.trans k4, h5.trans k5, h6.trans k6, h7.trans k7, fun w hw => ?_⟩
    simp only [List.mem_cons, not_or] at hw
    exact (h8 w hw.2).trans (k8 w hw.1)

theorem fusedReleases_keeps (G : Group) : FuseKeeps G G.fusedReleases := by
  obtain ⟨h1, h2, h3, h4, _, _, _, h8⟩ := unmapAll_rest G.lastRead G
  refine ⟨?_, h2, h3, h4, h8, fun v h => absurd h (by simp [Group.fusedReleases])⟩
  simpa [groupRest, Group.fusedReleases] using h1

theorem dropHist_keeps (G : Group) : FuseKeeps G G.dropHist := by
  unfold Group.dropHist
  split
  · exact FuseKeeps.refl G
  · exact ⟨rfl, rfl, rfl, rfl, fun _ _ => rfl, fun _ h => h⟩

theorem mergeAt_keeps (G : Group) (r : Nat) : FuseKeeps G (G.mergeAt r) := by
  unfold Group.mergeAt
  split
  · exact FuseKeeps.refl G
  · exact FuseKeeps.refl G
  · exact (fuseKeeps_frags G _ G.fuses).trans (fusedReleases_keeps _)

theorem closeAt_keeps (G : Group) (r : Nat) : FuseKeeps G (G.closeAt r) := by
  unfold Group.closeAt
  split
  · exact FuseKeeps.refl G
  · split
    · exact fuseKeeps_frags G G.frags _
    · split
      · split
        · exact fuseKeeps_frags G _ _
        · exact FuseKeeps.refl G
      · exact FuseKeeps.refl G

theorem enterFuse_keeps (G : Group) : ∀ r H, G.enterFuse = some (r, H) → FuseKeeps G H := by
  intro r H h
  unfold Group.enterFuse at h
  split at h
  · rename_i e F _
    cases hr : F.record with
    | none => simp [hr] at h
    | some q =>
      simp only [hr, Option.map_some, Option.some.injEq, Prod.mk.injEq] at h
      rw [← h.2]
      exact fuseKeeps_frags G _ _
  · cases h

theorem fuseAll_keeps (n : Nat) (G : Group) : FuseKeeps G (Group.fuseAll n G) := by
  induction n generalizing G with
  | zero => exact FuseKeeps.refl G
  | succ n ih =>
    unfold Group.fuseAll
    split
    · rename_i r H h
      exact ((enterFuse_keeps G r H h).trans ((mergeAt_keeps H r).trans (closeAt_keeps _ r))).trans (ih _)
    · exact FuseKeeps.refl G

theorem mergeClose_keeps (rs : List Nat) (G : Group) :
    FuseKeeps G (rs.foldl (fun G r => (G.mergeAt r).closeAt r) G) := by
  induction rs generalizing G with
  | nil => exact FuseKeeps.refl G
  | cons r rs ih => exact ((mergeAt_keeps G r).trans (closeAt_keeps _ r)).trans (ih _)

/-- The fuse rules (R133). -/
theorem fuse_keeps (G : Group) : FuseKeeps G G.fuse :=
  (mergeClose_keeps _ G).trans ((fuseAll_keeps _ _).trans (dropHist_keeps _))

/-- The join rule (R135). -/
theorem join_keeps (G : Group) : FuseKeeps G G.join := by
  unfold Group.join
  split
  · exact FuseKeeps.refl G
  · split
    · exact (fuseKeeps_frags G _ _).trans ((fusedReleases_keeps _).trans (dropHist_keeps _))
    · exact FuseKeeps.refl G

/-! One fragment without a record: the fuse rules leave it. -/
theorem mergeAt_one {G : Group} {e : Nat} {F : Frag} (h : G.frags = [(e, F)]) (r : Nat) : G.mergeAt r = G := by
  unfold Group.mergeAt
  split
  · rfl
  · rfl
  · rename_i a b c d hh
    have hle := List.length_filter_le (fun p : Nat × Frag => p.2.record == some r && p.2.st == .fuseWait) G.frags
    rw [hh, h] at hle
    exact absurd hle (by cases c with | nil => exact absurd rfl d | cons _ _ => simp)

theorem closeAt_one {G : Group} {e : Nat} {F : Frag} (h : G.frags = [(e, F)]) (hr : F.record = none) (r : Nat) :
    (G.closeAt r).frags = [(e, F)] := by
  unfold Group.closeAt
  split
  · exact h
  · split
    · exact h
    · rw [h]
      simp [hr, h]

theorem mergeClose_one (rs : List Nat) {G : Group} {e : Nat} {F : Frag} (h : G.frags = [(e, F)]) (hr : F.record = none) :
    (rs.foldl (fun G r => (G.mergeAt r).closeAt r) G).frags = [(e, F)] := by
  induction rs generalizing G with
  | nil => exact h
  | cons r rs ih =>
    rw [List.foldl_cons, mergeAt_one h]
    exact ih (closeAt_one h hr r)

theorem fuse_one {G : Group} {e : Nat} {F : Frag} (h : G.frags = [(e, F)]) (hr : F.record = none) :
    G.fuse.frags = [(e, F)] := by
  have h2 : ∀ H : Group, H.frags = [(e, F)] → (Group.fuseAll 33 H).dropHist.frags = [(e, F)] := by
    intro H hH
    have h3 : Group.fuseAll 33 H = H := by
      unfold Group.fuseAll Group.enterFuse
      simp [hH, hr]
    rw [h3]
    unfold Group.dropHist
    split <;> exact hH
  exact h2 _ (mergeClose_one (List.range 16) h hr)

end Sys2Proof.Machine
end

