-- ==== Sys2Proof/Laws/Memory.lean ====
section
/-! SUPPORT. Laws of memory: every write keeps the canonical form; a read after a write. -/
set_option Elab.async false
namespace Sys2Proof.Machine.Memory

theorem wfFrom_mono {i j : Nat} (h : i ≤ j) (m : Memory) (hm : wfFrom (some j) m = true) : wfFrom (some i) m = true := by
  cases m with
  | nil => rfl
  | cons p r =>
    simp only [wfFrom, Bool.and_eq_true, decide_eq_true_eq] at hm ⊢
    exact ⟨⟨by omega, hm.1.2⟩, hm.2⟩

theorem wfFrom_none {j : Nat} (m : Memory) (hm : wfFrom (some j) m = true) : wfFrom none m = true := by
  cases m with
  | nil => rfl
  | cons p r =>
    simp only [wfFrom, Bool.and_eq_true] at hm ⊢
    exact ⟨⟨trivial, hm.1.2⟩, hm.2⟩

theorem wfFrom_tail {a : Nat} {b : Option Nat} (r : Memory) (hb : ∀ j, b = some j → j < a)
    (h : wfFrom (some a) r = true) : wfFrom b r = true := by
  cases b with
  | none => exact wfFrom_none r h
  | some j => exact wfFrom_mono (Nat.le_of_lt (hb j rfl)) r h

theorem wfFrom_cons {b : Option Nat} {a : Nat} {x : Byte} {r : Memory} :
    wfFrom b ((a, x) :: r) = true ↔ (∀ j, b = some j → j < a) ∧ x ≠ unlisted ∧ wfFrom (some a) r = true := by
  cases b <;> simp [wfFrom, and_assoc]

theorem wfFrom_write (a : Nat) (x : Byte) (m : Memory) (b : Option Nat) (hb : ∀ j, b = some j → j < a)
    (hm : wfFrom b m = true) : wfFrom b (m.write a x) = true := by
  induction m generalizing b with
  | nil =>
    unfold write
    split
    · rfl
    · rename_i h
      exact wfFrom_cons.2 ⟨hb, h, rfl⟩
  | cons p r ih =>
    obtain ⟨j, c⟩ := p
    have hm' := wfFrom_cons.1 hm
    unfold write
    split
    · rename_i h
      split
      · exact hm
      · rename_i hx
        exact wfFrom_cons.2 ⟨hb, hx, wfFrom_cons.2 ⟨fun i hi => by injection hi with hi; omega, hm'.2⟩⟩
    · split
      · rename_i h
        subst h
        split
        · exact wfFrom_tail r hb hm'.2.2
        · rename_i hx
          exact wfFrom_cons.2 ⟨hb, hx, hm'.2.2⟩
      · refine wfFrom_cons.2 ⟨hm'.1, hm'.2.1, ih (some j) (fun i hi => ?_) hm'.2.2⟩
        injection hi with hi
        omega

/-- A write keeps the canonical form. -/
theorem wf_write {m : Memory} (a : Nat) (x : Byte) (hm : m.wf = true) : (m.write a x).wf = true :=
  wfFrom_write a x m none (fun _ h => nomatch h) hm
theorem wf_writeBytes {m : Memory} (a : Nat) (bs : List Byte) (hm : m.wf = true) : (m.writeBytes a bs).wf = true := by
  induction bs generalizing m a with
  | nil => exact hm
  | cons b r ih => exact ih (a + 1) (wf_write a b hm)
theorem wf_writeNat {m : Memory} (a n v : Nat) (hm : m.wf = true) : (m.writeNat a n v).wf = true :=
  wf_writeBytes a _ hm
theorem wf_nil : wf [] = true := rfl

theorem read_of_wfFrom {i a : Nat} (m : Memory) (hm : wfFrom (some i) m = true) (h : a ≤ i) : m.read a = unlisted := by
  induction m generalizing i with
  | nil => rfl
  | cons p r ih =>
    obtain ⟨j, c⟩ := p
    simp only [wfFrom, Bool.and_eq_true, decide_eq_true_eq] at hm
    have : j ≠ a := by omega
    simp only [read, this, if_false]
    exact ih hm.2 (by omega)

theorem read_write_self_from (a : Nat) (x : Byte) (m : Memory) (b : Option Nat) (hm : wfFrom b m = true) :
    (m.write a x).read a = x := by
  induction m generalizing b with
  | nil =>
    unfold write
    split
    · rename_i h
      simp [read, h]
    · simp [read]
  | cons p r ih =>
    obtain ⟨j, c⟩ := p
    simp only [wfFrom, Bool.and_eq_true] at hm
    unfold write
    split
    · rename_i h
      have hj : j ≠ a := by omega
      split
      · rename_i hx
        simp only [read, hj, if_false, hx]
        exact read_of_wfFrom r hm.2 (by omega)
      · simp [read]
    · split
      · rename_i h
        subst h
        split
        · rename_i hx
          rw [hx]
          exact read_of_wfFrom r hm.2 (Nat.le_refl _)
        · simp [read]
      · rename_i h
        have hj : j ≠ a := fun e => h e.symm
        simp only [read, hj, if_false]
        exact ih _ hm.2

/-- A read of the byte written. -/
theorem read_write_self {m : Memory} (a : Nat) (x : Byte) (hm : m.wf = true) : (m.write a x).read a = x :=
  read_write_self_from a x m none hm
/-- A write leaves every other byte. -/
theorem read_write_ne (m : Memory) {a c : Nat} (x : Byte) (h : c ≠ a) : (m.write a x).read c = m.read c := by
  have hk : a ≠ c := fun e => h e.symm
  induction m with
  | nil =>
    unfold write
    split <;> simp [read, hk]
  | cons p r ih =>
    obtain ⟨j, y⟩ := p
    unfold write
    split
    · split <;> simp [read, hk]
    · split
      · rename_i e
        subst e
        split <;> simp [read, hk]
      · simp only [read, ih]
theorem read_writeBytes_out (m : Memory) (a : Nat) (bs : List Byte) {c : Nat} (h : c < a ∨ a + bs.length ≤ c) :
    (m.writeBytes a bs).read c = m.read c := by
  induction bs generalizing m a with
  | nil => rfl
  | cons b r ih =>
    simp only [List.length_cons] at h
    unfold writeBytes
    rw [ih (m.write a b) (a + 1) (by omega), read_write_ne m b (by omega)]
theorem read_writeBytes_in {m : Memory} (a : Nat) (bs : List Byte) (hm : m.wf = true) {k : Nat} (h : k < bs.length) :
    (m.writeBytes a bs).read (a + k) = bs.getD k 0#8 := by
  induction bs generalizing m a k with
  | nil => simp at h
  | cons b r ih =>
    unfold writeBytes
    cases k with
    | zero =>
      rw [read_writeBytes_out _ _ _ (by omega)]
      simpa using read_write_self a b hm
    | succ n =>
      have := ih (a + 1) (wf_write a b hm) (k := n) (by simpa using h)
      rw [show a + (n + 1) = a + 1 + n by omega, this]
      simp

end Sys2Proof.Machine.Memory
end

