-- ==== Sys2Proof/Laws/State.lean ====
section
/-! SUPPORT. Each named update of the state, field by field: the field it changes and the fields it leaves. -/
set_option Elab.async false
namespace Sys2Proof.Machine
namespace State

/-! modCore. -/
section
variable (s : State) (c : Nat) (f : Core → Core)
@[simp] theorem modCore_cur : (s.modCore c f).cur = s.cur := rfl
@[simp] theorem modCore_issue : (s.modCore c f).issue = s.issue := rfl
@[simp] theorem modCore_agenda : (s.modCore c f).agenda = s.agenda := rfl
@[simp] theorem modCore_free : (s.modCore c f).free = s.free := rfl
@[simp] theorem modCore_nextId : (s.modCore c f).nextId = s.nextId := rfl
@[simp] theorem modCore_clk : (s.modCore c f).clk = s.clk := rfl
@[simp] theorem modCore_mem : (s.modCore c f).mem = s.mem := rfl
@[simp] theorem modCore_published : (s.modCore c f).published = s.published := rfl
@[simp] theorem modCore_grains : (s.modCore c f).grains = s.grains := rfl
@[simp] theorem modCore_mts : (s.modCore c f).mts = s.mts := rfl
@[simp] theorem modCore_lines : (s.modCore c f).lines = s.lines := rfl
@[simp] theorem modCore_poisoned : (s.modCore c f).poisoned = s.poisoned := rfl
@[simp] theorem modCore_sweep : (s.modCore c f).sweep = s.sweep := rfl
@[simp] theorem modCore_ptes : (s.modCore c f).ptes = s.ptes := rfl
@[simp] theorem modCore_xhist : (s.modCore c f).xhist = s.xhist := rfl
@[simp] theorem modCore_contended : (s.modCore c f).contended = s.contended := rfl
@[simp] theorem modCore_reqs : (s.modCore c f).reqs = s.reqs := rfl
@[simp] theorem modCore_pends : (s.modCore c f).pends = s.pends := rfl
@[simp] theorem modCore_grps : (s.modCore c f).grps = s.grps := rfl
@[simp] theorem modCore_tasks : (s.modCore c f).tasks = s.tasks := rfl
@[simp] theorem modCore_launches : (s.modCore c f).launches = s.launches := rfl
@[simp] theorem modCore_queues : (s.modCore c f).queues = s.queues := rfl
@[simp] theorem modCore_ks : (s.modCore c f).ks = s.ks := rfl
@[simp] theorem modCore_cores : (s.modCore c f).cores = s.cores.set c (f (s.core c)) := rfl
@[simp] theorem modCore_clus : (s.modCore c f).clus = s.clus := rfl
@[simp] theorem modCore_ctl : (s.modCore c f).ctl = s.ctl := rfl
@[simp] theorem modCore_tailTs : (s.modCore c f).tailTs = s.tailTs := rfl
@[simp] theorem modCore_mmio : (s.modCore c f).mmio = s.mmio := rfl
@[simp] theorem modCore_trafficUse : (s.modCore c f).trafficUse = s.trafficUse := rfl
@[simp] theorem modCore_trafficWin : (s.modCore c f).trafficWin = s.trafficWin := rfl
@[simp] theorem modCore_watches : (s.modCore c f).watches = s.watches := rfl
@[simp] theorem modCore_wakeAt : (s.modCore c f).wakeAt = s.wakeAt := rfl
@[simp] theorem modCore_swatches : (s.modCore c f).swatches = s.swatches := rfl
@[simp] theorem modCore_staging : (s.modCore c f).staging = s.staging := rfl
@[simp] theorem modCore_mortar : (s.modCore c f).mortar = s.mortar := rfl
@[simp] theorem modCore_mortarIdle : (s.modCore c f).mortarIdle = s.mortarIdle := rfl
@[simp] theorem modCore_contractFrom : (s.modCore c f).contractFrom = s.contractFrom := rfl
@[simp] theorem modCore_frames : (s.modCore c f).frames = s.frames := rfl
@[simp] theorem modCore_sets : (s.modCore c f).sets = s.sets := rfl
@[simp] theorem modCore_entries : (s.modCore c f).entries = s.entries := rfl
@[simp] theorem modCore_retries : (s.modCore c f).retries = s.retries := rfl
@[simp] theorem modCore_preq : (s.modCore c f).preq = s.preq := rfl
@[simp] theorem modCore_preqAt : (s.modCore c f).preqAt = s.preqAt := rfl
@[simp] theorem modCore_dispatchAlone : (s.modCore c f).dispatchAlone = s.dispatchAlone := rfl
@[simp] theorem modCore_dir : (s.modCore c f).dir = s.dir := rfl
@[simp] theorem modCore_peerTags : (s.modCore c f).peerTags = s.peerTags := rfl
@[simp] theorem modCore_performed : (s.modCore c f).performed = s.performed := rfl
@[simp] theorem modCore_homeQ : (s.modCore c f).homeQ = s.homeQ := rfl
@[simp] theorem modCore_peerQ : (s.modCore c f).peerQ = s.peerQ := rfl
@[simp] theorem modCore_hostQ : (s.modCore c f).hostQ = s.hostQ := rfl
@[simp] theorem modCore_peerM : (s.modCore c f).peerM = s.peerM := rfl
@[simp] theorem modCore_links : (s.modCore c f).links = s.links := rfl
@[simp] theorem modCore_ports : (s.modCore c f).ports = s.ports := rfl
@[simp] theorem modCore_hostM : (s.modCore c f).hostM = s.hostM := rfl
@[simp] theorem modCore_out : (s.modCore c f).out = s.out := rfl
@[simp] theorem modCore_refetch : (s.modCore c f).refetch = s.refetch := rfl
@[simp] theorem modCore_trees : (s.modCore c f).trees = s.trees := rfl
@[simp] theorem modCore_kvHist : (s.modCore c f).kvHist = s.kvHist := rfl
@[simp] theorem modCore_kvPast : (s.modCore c f).kvPast = s.kvPast := rfl
@[simp] theorem modCore_treeLog : (s.modCore c f).treeLog = s.treeLog := rfl
@[simp] theorem modCore_pubBusy : (s.modCore c f).pubBusy = s.pubBusy := rfl
@[simp] theorem modCore_health : (s.modCore c f).health = s.health := rfl
@[simp] theorem modCore_firmware : (s.modCore c f).firmware = s.firmware := rfl
end

/-! modClu. -/
section
variable (s : State) (c : Nat) (f : Cluster → Cluster)
@[simp] theorem modClu_cur : (s.modClu c f).cur = s.cur := rfl
@[simp] theorem modClu_issue : (s.modClu c f).issue = s.issue := rfl
@[simp] theorem modClu_agenda : (s.modClu c f).agenda = s.agenda := rfl
@[simp] theorem modClu_free : (s.modClu c f).free = s.free := rfl
@[simp] theorem modClu_nextId : (s.modClu c f).nextId = s.nextId := rfl
@[simp] theorem modClu_clk : (s.modClu c f).clk = s.clk := rfl
@[simp] theorem modClu_mem : (s.modClu c f).mem = s.mem := rfl
@[simp] theorem modClu_published : (s.modClu c f).published = s.published := rfl
@[simp] theorem modClu_grains : (s.modClu c f).grains = s.grains := rfl
@[simp] theorem modClu_mts : (s.modClu c f).mts = s.mts := rfl
@[simp] theorem modClu_lines : (s.modClu c f).lines = s.lines := rfl
@[simp] theorem modClu_poisoned : (s.modClu c f).poisoned = s.poisoned := rfl
@[simp] theorem modClu_sweep : (s.modClu c f).sweep = s.sweep := rfl
@[simp] theorem modClu_ptes : (s.modClu c f).ptes = s.ptes := rfl
@[simp] theorem modClu_xhist : (s.modClu c f).xhist = s.xhist := rfl
@[simp] theorem modClu_contended : (s.modClu c f).contended = s.contended := rfl
@[simp] theorem modClu_reqs : (s.modClu c f).reqs = s.reqs := rfl
@[simp] theorem modClu_pends : (s.modClu c f).pends = s.pends := rfl
@[simp] theorem modClu_grps : (s.modClu c f).grps = s.grps := rfl
@[simp] theorem modClu_tasks : (s.modClu c f).tasks = s.tasks := rfl
@[simp] theorem modClu_launches : (s.modClu c f).launches = s.launches := rfl
@[simp] theorem modClu_queues : (s.modClu c f).queues = s.queues := rfl
@[simp] theorem modClu_ks : (s.modClu c f).ks = s.ks := rfl
@[simp] theorem modClu_cores : (s.modClu c f).cores = s.cores := rfl
@[simp] theorem modClu_clus : (s.modClu c f).clus = s.clus.set c (f (s.clu c)) := rfl
@[simp] theorem modClu_ctl : (s.modClu c f).ctl = s.ctl := rfl
@[simp] theorem modClu_tailTs : (s.modClu c f).tailTs = s.tailTs := rfl
@[simp] theorem modClu_mmio : (s.modClu c f).mmio = s.mmio := rfl
@[simp] theorem modClu_trafficUse : (s.modClu c f).trafficUse = s.trafficUse := rfl
@[simp] theorem modClu_trafficWin : (s.modClu c f).trafficWin = s.trafficWin := rfl
@[simp] theorem modClu_watches : (s.modClu c f).watches = s.watches := rfl
@[simp] theorem modClu_wakeAt : (s.modClu c f).wakeAt = s.wakeAt := rfl
@[simp] theorem modClu_swatches : (s.modClu c f).swatches = s.swatches := rfl
@[simp] theorem modClu_staging : (s.modClu c f).staging = s.staging := rfl
@[simp] theorem modClu_mortar : (s.modClu c f).mortar = s.mortar := rfl
@[simp] theorem modClu_mortarIdle : (s.modClu c f).mortarIdle = s.mortarIdle := rfl
@[simp] theorem modClu_contractFrom : (s.modClu c f).contractFrom = s.contractFrom := rfl
@[simp] theorem modClu_frames : (s.modClu c f).frames = s.frames := rfl
@[simp] theorem modClu_sets : (s.modClu c f).sets = s.sets := rfl
@[simp] theorem modClu_entries : (s.modClu c f).entries = s.entries := rfl
@[simp] theorem modClu_retries : (s.modClu c f).retries = s.retries := rfl
@[simp] theorem modClu_preq : (s.modClu c f).preq = s.preq := rfl
@[simp] theorem modClu_preqAt : (s.modClu c f).preqAt = s.preqAt := rfl
@[simp] theorem modClu_dispatchAlone : (s.modClu c f).dispatchAlone = s.dispatchAlone := rfl
@[simp] theorem modClu_dir : (s.modClu c f).dir = s.dir := rfl
@[simp] theorem modClu_peerTags : (s.modClu c f).peerTags = s.peerTags := rfl
@[simp] theorem modClu_performed : (s.modClu c f).performed = s.performed := rfl
@[simp] theorem modClu_homeQ : (s.modClu c f).homeQ = s.homeQ := rfl
@[simp] theorem modClu_peerQ : (s.modClu c f).peerQ = s.peerQ := rfl
@[simp] theorem modClu_hostQ : (s.modClu c f).hostQ = s.hostQ := rfl
@[simp] theorem modClu_peerM : (s.modClu c f).peerM = s.peerM := rfl
@[simp] theorem modClu_links : (s.modClu c f).links = s.links := rfl
@[simp] theorem modClu_ports : (s.modClu c f).ports = s.ports := rfl
@[simp] theorem modClu_hostM : (s.modClu c f).hostM = s.hostM := rfl
@[simp] theorem modClu_out : (s.modClu c f).out = s.out := rfl
@[simp] theorem modClu_refetch : (s.modClu c f).refetch = s.refetch := rfl
@[simp] theorem modClu_trees : (s.modClu c f).trees = s.trees := rfl
@[simp] theorem modClu_kvHist : (s.modClu c f).kvHist = s.kvHist := rfl
@[simp] theorem modClu_kvPast : (s.modClu c f).kvPast = s.kvPast := rfl
@[simp] theorem modClu_treeLog : (s.modClu c f).treeLog = s.treeLog := rfl
@[simp] theorem modClu_pubBusy : (s.modClu c f).pubBusy = s.pubBusy := rfl
@[simp] theorem modClu_health : (s.modClu c f).health = s.health := rfl
@[simp] theorem modClu_firmware : (s.modClu c f).firmware = s.firmware := rfl
end

/-! modKs. -/
section
variable (s : State) (k : Nat) (f : KsCtx → KsCtx)
@[simp] theorem modKs_cur : (s.modKs k f).cur = s.cur := rfl
@[simp] theorem modKs_issue : (s.modKs k f).issue = s.issue := rfl
@[simp] theorem modKs_agenda : (s.modKs k f).agenda = s.agenda := rfl
@[simp] theorem modKs_free : (s.modKs k f).free = s.free := rfl
@[simp] theorem modKs_nextId : (s.modKs k f).nextId = s.nextId := rfl
@[simp] theorem modKs_clk : (s.modKs k f).clk = s.clk := rfl
@[simp] theorem modKs_mem : (s.modKs k f).mem = s.mem := rfl
@[simp] theorem modKs_published : (s.modKs k f).published = s.published := rfl
@[simp] theorem modKs_grains : (s.modKs k f).grains = s.grains := rfl
@[simp] theorem modKs_mts : (s.modKs k f).mts = s.mts := rfl
@[simp] theorem modKs_lines : (s.modKs k f).lines = s.lines := rfl
@[simp] theorem modKs_poisoned : (s.modKs k f).poisoned = s.poisoned := rfl
@[simp] theorem modKs_sweep : (s.modKs k f).sweep = s.sweep := rfl
@[simp] theorem modKs_ptes : (s.modKs k f).ptes = s.ptes := rfl
@[simp] theorem modKs_xhist : (s.modKs k f).xhist = s.xhist := rfl
@[simp] theorem modKs_contended : (s.modKs k f).contended = s.contended := rfl
@[simp] theorem modKs_reqs : (s.modKs k f).reqs = s.reqs := rfl
@[simp] theorem modKs_pends : (s.modKs k f).pends = s.pends := rfl
@[simp] theorem modKs_grps : (s.modKs k f).grps = s.grps := rfl
@[simp] theorem modKs_tasks : (s.modKs k f).tasks = s.tasks := rfl
@[simp] theorem modKs_launches : (s.modKs k f).launches = s.launches := rfl
@[simp] theorem modKs_queues : (s.modKs k f).queues = s.queues := rfl
@[simp] theorem modKs_ks : (s.modKs k f).ks = s.ks.set k (f (s.ksCtx k)) := rfl
@[simp] theorem modKs_cores : (s.modKs k f).cores = s.cores := rfl
@[simp] theorem modKs_clus : (s.modKs k f).clus = s.clus := rfl
@[simp] theorem modKs_ctl : (s.modKs k f).ctl = s.ctl := rfl
@[simp] theorem modKs_tailTs : (s.modKs k f).tailTs = s.tailTs := rfl
@[simp] theorem modKs_mmio : (s.modKs k f).mmio = s.mmio := rfl
@[simp] theorem modKs_trafficUse : (s.modKs k f).trafficUse = s.trafficUse := rfl
@[simp] theorem modKs_trafficWin : (s.modKs k f).trafficWin = s.trafficWin := rfl
@[simp] theorem modKs_watches : (s.modKs k f).watches = s.watches := rfl
@[simp] theorem modKs_wakeAt : (s.modKs k f).wakeAt = s.wakeAt := rfl
@[simp] theorem modKs_swatches : (s.modKs k f).swatches = s.swatches := rfl
@[simp] theorem modKs_staging : (s.modKs k f).staging = s.staging := rfl
@[simp] theorem modKs_mortar : (s.modKs k f).mortar = s.mortar := rfl
@[simp] theorem modKs_mortarIdle : (s.modKs k f).mortarIdle = s.mortarIdle := rfl
@[simp] theorem modKs_contractFrom : (s.modKs k f).contractFrom = s.contractFrom := rfl
@[simp] theorem modKs_frames : (s.modKs k f).frames = s.frames := rfl
@[simp] theorem modKs_sets : (s.modKs k f).sets = s.sets := rfl
@[simp] theorem modKs_entries : (s.modKs k f).entries = s.entries := rfl
@[simp] theorem modKs_retries : (s.modKs k f).retries = s.retries := rfl
@[simp] theorem modKs_preq : (s.modKs k f).preq = s.preq := rfl
@[simp] theorem modKs_preqAt : (s.modKs k f).preqAt = s.preqAt := rfl
@[simp] theorem modKs_dispatchAlone : (s.modKs k f).dispatchAlone = s.dispatchAlone := rfl
@[simp] theorem modKs_dir : (s.modKs k f).dir = s.dir := rfl
@[simp] theorem modKs_peerTags : (s.modKs k f).peerTags = s.peerTags := rfl
@[simp] theorem modKs_performed : (s.modKs k f).performed = s.performed := rfl
@[simp] theorem modKs_homeQ : (s.modKs k f).homeQ = s.homeQ := rfl
@[simp] theorem modKs_peerQ : (s.modKs k f).peerQ = s.peerQ := rfl
@[simp] theorem modKs_hostQ : (s.modKs k f).hostQ = s.hostQ := rfl
@[simp] theorem modKs_peerM : (s.modKs k f).peerM = s.peerM := rfl
@[simp] theorem modKs_links : (s.modKs k f).links = s.links := rfl
@[simp] theorem modKs_ports : (s.modKs k f).ports = s.ports := rfl
@[simp] theorem modKs_hostM : (s.modKs k f).hostM = s.hostM := rfl
@[simp] theorem modKs_out : (s.modKs k f).out = s.out := rfl
@[simp] theorem modKs_refetch : (s.modKs k f).refetch = s.refetch := rfl
@[simp] theorem modKs_trees : (s.modKs k f).trees = s.trees := rfl
@[simp] theorem modKs_kvHist : (s.modKs k f).kvHist = s.kvHist := rfl
@[simp] theorem modKs_kvPast : (s.modKs k f).kvPast = s.kvPast := rfl
@[simp] theorem modKs_treeLog : (s.modKs k f).treeLog = s.treeLog := rfl
@[simp] theorem modKs_pubBusy : (s.modKs k f).pubBusy = s.pubBusy := rfl
@[simp] theorem modKs_health : (s.modKs k f).health = s.health := rfl
@[simp] theorem modKs_firmware : (s.modKs k f).firmware = s.firmware := rfl
end

/-! modGrp. -/
section
variable (s : State) (g : Nat) (f : Group → Group)
@[simp] theorem modGrp_cur : (s.modGrp g f).cur = s.cur := rfl
@[simp] theorem modGrp_issue : (s.modGrp g f).issue = s.issue := rfl
@[simp] theorem modGrp_agenda : (s.modGrp g f).agenda = s.agenda := rfl
@[simp] theorem modGrp_free : (s.modGrp g f).free = s.free := rfl
@[simp] theorem modGrp_nextId : (s.modGrp g f).nextId = s.nextId := rfl
@[simp] theorem modGrp_clk : (s.modGrp g f).clk = s.clk := rfl
@[simp] theorem modGrp_mem : (s.modGrp g f).mem = s.mem := rfl
@[simp] theorem modGrp_published : (s.modGrp g f).published = s.published := rfl
@[simp] theorem modGrp_grains : (s.modGrp g f).grains = s.grains := rfl
@[simp] theorem modGrp_mts : (s.modGrp g f).mts = s.mts := rfl
@[simp] theorem modGrp_lines : (s.modGrp g f).lines = s.lines := rfl
@[simp] theorem modGrp_poisoned : (s.modGrp g f).poisoned = s.poisoned := rfl
@[simp] theorem modGrp_sweep : (s.modGrp g f).sweep = s.sweep := rfl
@[simp] theorem modGrp_ptes : (s.modGrp g f).ptes = s.ptes := rfl
@[simp] theorem modGrp_xhist : (s.modGrp g f).xhist = s.xhist := rfl
@[simp] theorem modGrp_contended : (s.modGrp g f).contended = s.contended := rfl
@[simp] theorem modGrp_reqs : (s.modGrp g f).reqs = s.reqs := rfl
@[simp] theorem modGrp_pends : (s.modGrp g f).pends = s.pends := rfl
@[simp] theorem modGrp_grps : (s.modGrp g f).grps = s.grps.update g f := rfl
@[simp] theorem modGrp_tasks : (s.modGrp g f).tasks = s.tasks := rfl
@[simp] theorem modGrp_launches : (s.modGrp g f).launches = s.launches := rfl
@[simp] theorem modGrp_queues : (s.modGrp g f).queues = s.queues := rfl
@[simp] theorem modGrp_ks : (s.modGrp g f).ks = s.ks := rfl
@[simp] theorem modGrp_cores : (s.modGrp g f).cores = s.cores := rfl
@[simp] theorem modGrp_clus : (s.modGrp g f).clus = s.clus := rfl
@[simp] theorem modGrp_ctl : (s.modGrp g f).ctl = s.ctl := rfl
@[simp] theorem modGrp_tailTs : (s.modGrp g f).tailTs = s.tailTs := rfl
@[simp] theorem modGrp_mmio : (s.modGrp g f).mmio = s.mmio := rfl
@[simp] theorem modGrp_trafficUse : (s.modGrp g f).trafficUse = s.trafficUse := rfl
@[simp] theorem modGrp_trafficWin : (s.modGrp g f).trafficWin = s.trafficWin := rfl
@[simp] theorem modGrp_watches : (s.modGrp g f).watches = s.watches := rfl
@[simp] theorem modGrp_wakeAt : (s.modGrp g f).wakeAt = s.wakeAt := rfl
@[simp] theorem modGrp_swatches : (s.modGrp g f).swatches = s.swatches := rfl
@[simp] theorem modGrp_staging : (s.modGrp g f).staging = s.staging := rfl
@[simp] theorem modGrp_mortar : (s.modGrp g f).mortar = s.mortar := rfl
@[simp] theorem modGrp_mortarIdle : (s.modGrp g f).mortarIdle = s.mortarIdle := rfl
@[simp] theorem modGrp_contractFrom : (s.modGrp g f).contractFrom = s.contractFrom := rfl
@[simp] theorem modGrp_frames : (s.modGrp g f).frames = s.frames := rfl
@[simp] theorem modGrp_sets : (s.modGrp g f).sets = s.sets := rfl
@[simp] theorem modGrp_entries : (s.modGrp g f).entries = s.entries := rfl
@[simp] theorem modGrp_retries : (s.modGrp g f).retries = s.retries := rfl
@[simp] theorem modGrp_preq : (s.modGrp g f).preq = s.preq := rfl
@[simp] theorem modGrp_preqAt : (s.modGrp g f).preqAt = s.preqAt := rfl
@[simp] theorem modGrp_dispatchAlone : (s.modGrp g f).dispatchAlone = s.dispatchAlone := rfl
@[simp] theorem modGrp_dir : (s.modGrp g f).dir = s.dir := rfl
@[simp] theorem modGrp_peerTags : (s.modGrp g f).peerTags = s.peerTags := rfl
@[simp] theorem modGrp_performed : (s.modGrp g f).performed = s.performed := rfl
@[simp] theorem modGrp_homeQ : (s.modGrp g f).homeQ = s.homeQ := rfl
@[simp] theorem modGrp_peerQ : (s.modGrp g f).peerQ = s.peerQ := rfl
@[simp] theorem modGrp_hostQ : (s.modGrp g f).hostQ = s.hostQ := rfl
@[simp] theorem modGrp_peerM : (s.modGrp g f).peerM = s.peerM := rfl
@[simp] theorem modGrp_links : (s.modGrp g f).links = s.links := rfl
@[simp] theorem modGrp_ports : (s.modGrp g f).ports = s.ports := rfl
@[simp] theorem modGrp_hostM : (s.modGrp g f).hostM = s.hostM := rfl
@[simp] theorem modGrp_out : (s.modGrp g f).out = s.out := rfl
@[simp] theorem modGrp_refetch : (s.modGrp g f).refetch = s.refetch := rfl
@[simp] theorem modGrp_trees : (s.modGrp g f).trees = s.trees := rfl
@[simp] theorem modGrp_kvHist : (s.modGrp g f).kvHist = s.kvHist := rfl
@[simp] theorem modGrp_kvPast : (s.modGrp g f).kvPast = s.kvPast := rfl
@[simp] theorem modGrp_treeLog : (s.modGrp g f).treeLog = s.treeLog := rfl
@[simp] theorem modGrp_pubBusy : (s.modGrp g f).pubBusy = s.pubBusy := rfl
@[simp] theorem modGrp_health : (s.modGrp g f).health = s.health := rfl
@[simp] theorem modGrp_firmware : (s.modGrp g f).firmware = s.firmware := rfl
end

/-! modTask. -/
section
variable (s : State) (t : Nat) (f : Task → Task)
@[simp] theorem modTask_cur : (s.modTask t f).cur = s.cur := rfl
@[simp] theorem modTask_issue : (s.modTask t f).issue = s.issue := rfl
@[simp] theorem modTask_agenda : (s.modTask t f).agenda = s.agenda := rfl
@[simp] theorem modTask_free : (s.modTask t f).free = s.free := rfl
@[simp] theorem modTask_nextId : (s.modTask t f).nextId = s.nextId := rfl
@[simp] theorem modTask_clk : (s.modTask t f).clk = s.clk := rfl
@[simp] theorem modTask_mem : (s.modTask t f).mem = s.mem := rfl
@[simp] theorem modTask_published : (s.modTask t f).published = s.published := rfl
@[simp] theorem modTask_grains : (s.modTask t f).grains = s.grains := rfl
@[simp] theorem modTask_mts : (s.modTask t f).mts = s.mts := rfl
@[simp] theorem modTask_lines : (s.modTask t f).lines = s.lines := rfl
@[simp] theorem modTask_poisoned : (s.modTask t f).poisoned = s.poisoned := rfl
@[simp] theorem modTask_sweep : (s.modTask t f).sweep = s.sweep := rfl
@[simp] theorem modTask_ptes : (s.modTask t f).ptes = s.ptes := rfl
@[simp] theorem modTask_xhist : (s.modTask t f).xhist = s.xhist := rfl
@[simp] theorem modTask_contended : (s.modTask t f).contended = s.contended := rfl
@[simp] theorem modTask_reqs : (s.modTask t f).reqs = s.reqs := rfl
@[simp] theorem modTask_pends : (s.modTask t f).pends = s.pends := rfl
@[simp] theorem modTask_grps : (s.modTask t f).grps = s.grps := rfl
@[simp] theorem modTask_tasks : (s.modTask t f).tasks = s.tasks.update t f := rfl
@[simp] theorem modTask_launches : (s.modTask t f).launches = s.launches := rfl
@[simp] theorem modTask_queues : (s.modTask t f).queues = s.queues := rfl
@[simp] theorem modTask_ks : (s.modTask t f).ks = s.ks := rfl
@[simp] theorem modTask_cores : (s.modTask t f).cores = s.cores := rfl
@[simp] theorem modTask_clus : (s.modTask t f).clus = s.clus := rfl
@[simp] theorem modTask_ctl : (s.modTask t f).ctl = s.ctl := rfl
@[simp] theorem modTask_tailTs : (s.modTask t f).tailTs = s.tailTs := rfl
@[simp] theorem modTask_mmio : (s.modTask t f).mmio = s.mmio := rfl
@[simp] theorem modTask_trafficUse : (s.modTask t f).trafficUse = s.trafficUse := rfl
@[simp] theorem modTask_trafficWin : (s.modTask t f).trafficWin = s.trafficWin := rfl
@[simp] theorem modTask_watches : (s.modTask t f).watches = s.watches := rfl
@[simp] theorem modTask_wakeAt : (s.modTask t f).wakeAt = s.wakeAt := rfl
@[simp] theorem modTask_swatches : (s.modTask t f).swatches = s.swatches := rfl
@[simp] theorem modTask_staging : (s.modTask t f).staging = s.staging := rfl
@[simp] theorem modTask_mortar : (s.modTask t f).mortar = s.mortar := rfl
@[simp] theorem modTask_mortarIdle : (s.modTask t f).mortarIdle = s.mortarIdle := rfl
@[simp] theorem modTask_contractFrom : (s.modTask t f).contractFrom = s.contractFrom := rfl
@[simp] theorem modTask_frames : (s.modTask t f).frames = s.frames := rfl
@[simp] theorem modTask_sets : (s.modTask t f).sets = s.sets := rfl
@[simp] theorem modTask_entries : (s.modTask t f).entries = s.entries := rfl
@[simp] theorem modTask_retries : (s.modTask t f).retries = s.retries := rfl
@[simp] theorem modTask_preq : (s.modTask t f).preq = s.preq := rfl
@[simp] theorem modTask_preqAt : (s.modTask t f).preqAt = s.preqAt := rfl
@[simp] theorem modTask_dispatchAlone : (s.modTask t f).dispatchAlone = s.dispatchAlone := rfl
@[simp] theorem modTask_dir : (s.modTask t f).dir = s.dir := rfl
@[simp] theorem modTask_peerTags : (s.modTask t f).peerTags = s.peerTags := rfl
@[simp] theorem modTask_performed : (s.modTask t f).performed = s.performed := rfl
@[simp] theorem modTask_homeQ : (s.modTask t f).homeQ = s.homeQ := rfl
@[simp] theorem modTask_peerQ : (s.modTask t f).peerQ = s.peerQ := rfl
@[simp] theorem modTask_hostQ : (s.modTask t f).hostQ = s.hostQ := rfl
@[simp] theorem modTask_peerM : (s.modTask t f).peerM = s.peerM := rfl
@[simp] theorem modTask_links : (s.modTask t f).links = s.links := rfl
@[simp] theorem modTask_ports : (s.modTask t f).ports = s.ports := rfl
@[simp] theorem modTask_hostM : (s.modTask t f).hostM = s.hostM := rfl
@[simp] theorem modTask_out : (s.modTask t f).out = s.out := rfl
@[simp] theorem modTask_refetch : (s.modTask t f).refetch = s.refetch := rfl
@[simp] theorem modTask_trees : (s.modTask t f).trees = s.trees := rfl
@[simp] theorem modTask_kvHist : (s.modTask t f).kvHist = s.kvHist := rfl
@[simp] theorem modTask_kvPast : (s.modTask t f).kvPast = s.kvPast := rfl
@[simp] theorem modTask_treeLog : (s.modTask t f).treeLog = s.treeLog := rfl
@[simp] theorem modTask_pubBusy : (s.modTask t f).pubBusy = s.pubBusy := rfl
@[simp] theorem modTask_health : (s.modTask t f).health = s.health := rfl
@[simp] theorem modTask_firmware : (s.modTask t f).firmware = s.firmware := rfl
end

/-! modLaunch. -/
section
variable (s : State) (l : Nat) (f : Launch → Launch)
@[simp] theorem modLaunch_cur : (s.modLaunch l f).cur = s.cur := rfl
@[simp] theorem modLaunch_issue : (s.modLaunch l f).issue = s.issue := rfl
@[simp] theorem modLaunch_agenda : (s.modLaunch l f).agenda = s.agenda := rfl
@[simp] theorem modLaunch_free : (s.modLaunch l f).free = s.free := rfl
@[simp] theorem modLaunch_nextId : (s.modLaunch l f).nextId = s.nextId := rfl
@[simp] theorem modLaunch_clk : (s.modLaunch l f).clk = s.clk := rfl
@[simp] theorem modLaunch_mem : (s.modLaunch l f).mem = s.mem := rfl
@[simp] theorem modLaunch_published : (s.modLaunch l f).published = s.published := rfl
@[simp] theorem modLaunch_grains : (s.modLaunch l f).grains = s.grains := rfl
@[simp] theorem modLaunch_mts : (s.modLaunch l f).mts = s.mts := rfl
@[simp] theorem modLaunch_lines : (s.modLaunch l f).lines = s.lines := rfl
@[simp] theorem modLaunch_poisoned : (s.modLaunch l f).poisoned = s.poisoned := rfl
@[simp] theorem modLaunch_sweep : (s.modLaunch l f).sweep = s.sweep := rfl
@[simp] theorem modLaunch_ptes : (s.modLaunch l f).ptes = s.ptes := rfl
@[simp] theorem modLaunch_xhist : (s.modLaunch l f).xhist = s.xhist := rfl
@[simp] theorem modLaunch_contended : (s.modLaunch l f).contended = s.contended := rfl
@[simp] theorem modLaunch_reqs : (s.modLaunch l f).reqs = s.reqs := rfl
@[simp] theorem modLaunch_pends : (s.modLaunch l f).pends = s.pends := rfl
@[simp] theorem modLaunch_grps : (s.modLaunch l f).grps = s.grps := rfl
@[simp] theorem modLaunch_tasks : (s.modLaunch l f).tasks = s.tasks := rfl
@[simp] theorem modLaunch_launches : (s.modLaunch l f).launches = s.launches.update l f := rfl
@[simp] theorem modLaunch_queues : (s.modLaunch l f).queues = s.queues := rfl
@[simp] theorem modLaunch_ks : (s.modLaunch l f).ks = s.ks := rfl
@[simp] theorem modLaunch_cores : (s.modLaunch l f).cores = s.cores := rfl
@[simp] theorem modLaunch_clus : (s.modLaunch l f).clus = s.clus := rfl
@[simp] theorem modLaunch_ctl : (s.modLaunch l f).ctl = s.ctl := rfl
@[simp] theorem modLaunch_tailTs : (s.modLaunch l f).tailTs = s.tailTs := rfl
@[simp] theorem modLaunch_mmio : (s.modLaunch l f).mmio = s.mmio := rfl
@[simp] theorem modLaunch_trafficUse : (s.modLaunch l f).trafficUse = s.trafficUse := rfl
@[simp] theorem modLaunch_trafficWin : (s.modLaunch l f).trafficWin = s.trafficWin := rfl
@[simp] theorem modLaunch_watches : (s.modLaunch l f).watches = s.watches := rfl
@[simp] theorem modLaunch_wakeAt : (s.modLaunch l f).wakeAt = s.wakeAt := rfl
@[simp] theorem modLaunch_swatches : (s.modLaunch l f).swatches = s.swatches := rfl
@[simp] theorem modLaunch_staging : (s.modLaunch l f).staging = s.staging := rfl
@[simp] theorem modLaunch_mortar : (s.modLaunch l f).mortar = s.mortar := rfl
@[simp] theorem modLaunch_mortarIdle : (s.modLaunch l f).mortarIdle = s.mortarIdle := rfl
@[simp] theorem modLaunch_contractFrom : (s.modLaunch l f).contractFrom = s.contractFrom := rfl
@[simp] theorem modLaunch_frames : (s.modLaunch l f).frames = s.frames := rfl
@[simp] theorem modLaunch_sets : (s.modLaunch l f).sets = s.sets := rfl
@[simp] theorem modLaunch_entries : (s.modLaunch l f).entries = s.entries := rfl
@[simp] theorem modLaunch_retries : (s.modLaunch l f).retries = s.retries := rfl
@[simp] theorem modLaunch_preq : (s.modLaunch l f).preq = s.preq := rfl
@[simp] theorem modLaunch_preqAt : (s.modLaunch l f).preqAt = s.preqAt := rfl
@[simp] theorem modLaunch_dispatchAlone : (s.modLaunch l f).dispatchAlone = s.dispatchAlone := rfl
@[simp] theorem modLaunch_dir : (s.modLaunch l f).dir = s.dir := rfl
@[simp] theorem modLaunch_peerTags : (s.modLaunch l f).peerTags = s.peerTags := rfl
@[simp] theorem modLaunch_performed : (s.modLaunch l f).performed = s.performed := rfl
@[simp] theorem modLaunch_homeQ : (s.modLaunch l f).homeQ = s.homeQ := rfl
@[simp] theorem modLaunch_peerQ : (s.modLaunch l f).peerQ = s.peerQ := rfl
@[simp] theorem modLaunch_hostQ : (s.modLaunch l f).hostQ = s.hostQ := rfl
@[simp] theorem modLaunch_peerM : (s.modLaunch l f).peerM = s.peerM := rfl
@[simp] theorem modLaunch_links : (s.modLaunch l f).links = s.links := rfl
@[simp] theorem modLaunch_ports : (s.modLaunch l f).ports = s.ports := rfl
@[simp] theorem modLaunch_hostM : (s.modLaunch l f).hostM = s.hostM := rfl
@[simp] theorem modLaunch_out : (s.modLaunch l f).out = s.out := rfl
@[simp] theorem modLaunch_refetch : (s.modLaunch l f).refetch = s.refetch := rfl
@[simp] theorem modLaunch_trees : (s.modLaunch l f).trees = s.trees := rfl
@[simp] theorem modLaunch_kvHist : (s.modLaunch l f).kvHist = s.kvHist := rfl
@[simp] theorem modLaunch_kvPast : (s.modLaunch l f).kvPast = s.kvPast := rfl
@[simp] theorem modLaunch_treeLog : (s.modLaunch l f).treeLog = s.treeLog := rfl
@[simp] theorem modLaunch_pubBusy : (s.modLaunch l f).pubBusy = s.pubBusy := rfl
@[simp] theorem modLaunch_health : (s.modLaunch l f).health = s.health := rfl
@[simp] theorem modLaunch_firmware : (s.modLaunch l f).firmware = s.firmware := rfl
end

/-! modReq. -/
section
variable (s : State) (i : Nat) (f : Req → Req)
@[simp] theorem modReq_cur : (s.modReq i f).cur = s.cur := rfl
@[simp] theorem modReq_issue : (s.modReq i f).issue = s.issue := rfl
@[simp] theorem modReq_agenda : (s.modReq i f).agenda = s.agenda := rfl
@[simp] theorem modReq_free : (s.modReq i f).free = s.free := rfl
@[simp] theorem modReq_nextId : (s.modReq i f).nextId = s.nextId := rfl
@[simp] theorem modReq_clk : (s.modReq i f).clk = s.clk := rfl
@[simp] theorem modReq_mem : (s.modReq i f).mem = s.mem := rfl
@[simp] theorem modReq_published : (s.modReq i f).published = s.published := rfl
@[simp] theorem modReq_grains : (s.modReq i f).grains = s.grains := rfl
@[simp] theorem modReq_mts : (s.modReq i f).mts = s.mts := rfl
@[simp] theorem modReq_lines : (s.modReq i f).lines = s.lines := rfl
@[simp] theorem modReq_poisoned : (s.modReq i f).poisoned = s.poisoned := rfl
@[simp] theorem modReq_sweep : (s.modReq i f).sweep = s.sweep := rfl
@[simp] theorem modReq_ptes : (s.modReq i f).ptes = s.ptes := rfl
@[simp] theorem modReq_xhist : (s.modReq i f).xhist = s.xhist := rfl
@[simp] theorem modReq_contended : (s.modReq i f).contended = s.contended := rfl
@[simp] theorem modReq_reqs : (s.modReq i f).reqs = s.reqs.update i f := rfl
@[simp] theorem modReq_pends : (s.modReq i f).pends = s.pends := rfl
@[simp] theorem modReq_grps : (s.modReq i f).grps = s.grps := rfl
@[simp] theorem modReq_tasks : (s.modReq i f).tasks = s.tasks := rfl
@[simp] theorem modReq_launches : (s.modReq i f).launches = s.launches := rfl
@[simp] theorem modReq_queues : (s.modReq i f).queues = s.queues := rfl
@[simp] theorem modReq_ks : (s.modReq i f).ks = s.ks := rfl
@[simp] theorem modReq_cores : (s.modReq i f).cores = s.cores := rfl
@[simp] theorem modReq_clus : (s.modReq i f).clus = s.clus := rfl
@[simp] theorem modReq_ctl : (s.modReq i f).ctl = s.ctl := rfl
@[simp] theorem modReq_tailTs : (s.modReq i f).tailTs = s.tailTs := rfl
@[simp] theorem modReq_mmio : (s.modReq i f).mmio = s.mmio := rfl
@[simp] theorem modReq_trafficUse : (s.modReq i f).trafficUse = s.trafficUse := rfl
@[simp] theorem modReq_trafficWin : (s.modReq i f).trafficWin = s.trafficWin := rfl
@[simp] theorem modReq_watches : (s.modReq i f).watches = s.watches := rfl
@[simp] theorem modReq_wakeAt : (s.modReq i f).wakeAt = s.wakeAt := rfl
@[simp] theorem modReq_swatches : (s.modReq i f).swatches = s.swatches := rfl
@[simp] theorem modReq_staging : (s.modReq i f).staging = s.staging := rfl
@[simp] theorem modReq_mortar : (s.modReq i f).mortar = s.mortar := rfl
@[simp] theorem modReq_mortarIdle : (s.modReq i f).mortarIdle = s.mortarIdle := rfl
@[simp] theorem modReq_contractFrom : (s.modReq i f).contractFrom = s.contractFrom := rfl
@[simp] theorem modReq_frames : (s.modReq i f).frames = s.frames := rfl
@[simp] theorem modReq_sets : (s.modReq i f).sets = s.sets := rfl
@[simp] theorem modReq_entries : (s.modReq i f).entries = s.entries := rfl
@[simp] theorem modReq_retries : (s.modReq i f).retries = s.retries := rfl
@[simp] theorem modReq_preq : (s.modReq i f).preq = s.preq := rfl
@[simp] theorem modReq_preqAt : (s.modReq i f).preqAt = s.preqAt := rfl
@[simp] theorem modReq_dispatchAlone : (s.modReq i f).dispatchAlone = s.dispatchAlone := rfl
@[simp] theorem modReq_dir : (s.modReq i f).dir = s.dir := rfl
@[simp] theorem modReq_peerTags : (s.modReq i f).peerTags = s.peerTags := rfl
@[simp] theorem modReq_performed : (s.modReq i f).performed = s.performed := rfl
@[simp] theorem modReq_homeQ : (s.modReq i f).homeQ = s.homeQ := rfl
@[simp] theorem modReq_peerQ : (s.modReq i f).peerQ = s.peerQ := rfl
@[simp] theorem modReq_hostQ : (s.modReq i f).hostQ = s.hostQ := rfl
@[simp] theorem modReq_peerM : (s.modReq i f).peerM = s.peerM := rfl
@[simp] theorem modReq_links : (s.modReq i f).links = s.links := rfl
@[simp] theorem modReq_ports : (s.modReq i f).ports = s.ports := rfl
@[simp] theorem modReq_hostM : (s.modReq i f).hostM = s.hostM := rfl
@[simp] theorem modReq_out : (s.modReq i f).out = s.out := rfl
@[simp] theorem modReq_refetch : (s.modReq i f).refetch = s.refetch := rfl
@[simp] theorem modReq_trees : (s.modReq i f).trees = s.trees := rfl
@[simp] theorem modReq_kvHist : (s.modReq i f).kvHist = s.kvHist := rfl
@[simp] theorem modReq_kvPast : (s.modReq i f).kvPast = s.kvPast := rfl
@[simp] theorem modReq_treeLog : (s.modReq i f).treeLog = s.treeLog := rfl
@[simp] theorem modReq_pubBusy : (s.modReq i f).pubBusy = s.pubBusy := rfl
@[simp] theorem modReq_health : (s.modReq i f).health = s.health := rfl
@[simp] theorem modReq_firmware : (s.modReq i f).firmware = s.firmware := rfl
end

/-! modFrag. -/
section
variable (s : State) (g e : Nat) (f : Frag → Frag)
@[simp] theorem modFrag_cur : (s.modFrag g e f).cur = s.cur := rfl
@[simp] theorem modFrag_issue : (s.modFrag g e f).issue = s.issue := rfl
@[simp] theorem modFrag_agenda : (s.modFrag g e f).agenda = s.agenda := rfl
@[simp] theorem modFrag_free : (s.modFrag g e f).free = s.free := rfl
@[simp] theorem modFrag_nextId : (s.modFrag g e f).nextId = s.nextId := rfl
@[simp] theorem modFrag_clk : (s.modFrag g e f).clk = s.clk := rfl
@[simp] theorem modFrag_mem : (s.modFrag g e f).mem = s.mem := rfl
@[simp] theorem modFrag_published : (s.modFrag g e f).published = s.published := rfl
@[simp] theorem modFrag_grains : (s.modFrag g e f).grains = s.grains := rfl
@[simp] theorem modFrag_mts : (s.modFrag g e f).mts = s.mts := rfl
@[simp] theorem modFrag_lines : (s.modFrag g e f).lines = s.lines := rfl
@[simp] theorem modFrag_poisoned : (s.modFrag g e f).poisoned = s.poisoned := rfl
@[simp] theorem modFrag_sweep : (s.modFrag g e f).sweep = s.sweep := rfl
@[simp] theorem modFrag_ptes : (s.modFrag g e f).ptes = s.ptes := rfl
@[simp] theorem modFrag_xhist : (s.modFrag g e f).xhist = s.xhist := rfl
@[simp] theorem modFrag_contended : (s.modFrag g e f).contended = s.contended := rfl
@[simp] theorem modFrag_reqs : (s.modFrag g e f).reqs = s.reqs := rfl
@[simp] theorem modFrag_pends : (s.modFrag g e f).pends = s.pends := rfl
@[simp] theorem modFrag_grps : (s.modFrag g e f).grps = s.grps.update g fun G => { G with frags := G.frags.update e f } := rfl
@[simp] theorem modFrag_tasks : (s.modFrag g e f).tasks = s.tasks := rfl
@[simp] theorem modFrag_launches : (s.modFrag g e f).launches = s.launches := rfl
@[simp] theorem modFrag_queues : (s.modFrag g e f).queues = s.queues := rfl
@[simp] theorem modFrag_ks : (s.modFrag g e f).ks = s.ks := rfl
@[simp] theorem modFrag_cores : (s.modFrag g e f).cores = s.cores := rfl
@[simp] theorem modFrag_clus : (s.modFrag g e f).clus = s.clus := rfl
@[simp] theorem modFrag_ctl : (s.modFrag g e f).ctl = s.ctl := rfl
@[simp] theorem modFrag_tailTs : (s.modFrag g e f).tailTs = s.tailTs := rfl
@[simp] theorem modFrag_mmio : (s.modFrag g e f).mmio = s.mmio := rfl
@[simp] theorem modFrag_trafficUse : (s.modFrag g e f).trafficUse = s.trafficUse := rfl
@[simp] theorem modFrag_trafficWin : (s.modFrag g e f).trafficWin = s.trafficWin := rfl
@[simp] theorem modFrag_watches : (s.modFrag g e f).watches = s.watches := rfl
@[simp] theorem modFrag_wakeAt : (s.modFrag g e f).wakeAt = s.wakeAt := rfl
@[simp] theorem modFrag_swatches : (s.modFrag g e f).swatches = s.swatches := rfl
@[simp] theorem modFrag_staging : (s.modFrag g e f).staging = s.staging := rfl
@[simp] theorem modFrag_mortar : (s.modFrag g e f).mortar = s.mortar := rfl
@[simp] theorem modFrag_mortarIdle : (s.modFrag g e f).mortarIdle = s.mortarIdle := rfl
@[simp] theorem modFrag_contractFrom : (s.modFrag g e f).contractFrom = s.contractFrom := rfl
@[simp] theorem modFrag_frames : (s.modFrag g e f).frames = s.frames := rfl
@[simp] theorem modFrag_sets : (s.modFrag g e f).sets = s.sets := rfl
@[simp] theorem modFrag_entries : (s.modFrag g e f).entries = s.entries := rfl
@[simp] theorem modFrag_retries : (s.modFrag g e f).retries = s.retries := rfl
@[simp] theorem modFrag_preq : (s.modFrag g e f).preq = s.preq := rfl
@[simp] theorem modFrag_preqAt : (s.modFrag g e f).preqAt = s.preqAt := rfl
@[simp] theorem modFrag_dispatchAlone : (s.modFrag g e f).dispatchAlone = s.dispatchAlone := rfl
@[simp] theorem modFrag_dir : (s.modFrag g e f).dir = s.dir := rfl
@[simp] theorem modFrag_peerTags : (s.modFrag g e f).peerTags = s.peerTags := rfl
@[simp] theorem modFrag_performed : (s.modFrag g e f).performed = s.performed := rfl
@[simp] theorem modFrag_homeQ : (s.modFrag g e f).homeQ = s.homeQ := rfl
@[simp] theorem modFrag_peerQ : (s.modFrag g e f).peerQ = s.peerQ := rfl
@[simp] theorem modFrag_hostQ : (s.modFrag g e f).hostQ = s.hostQ := rfl
@[simp] theorem modFrag_peerM : (s.modFrag g e f).peerM = s.peerM := rfl
@[simp] theorem modFrag_links : (s.modFrag g e f).links = s.links := rfl
@[simp] theorem modFrag_ports : (s.modFrag g e f).ports = s.ports := rfl
@[simp] theorem modFrag_hostM : (s.modFrag g e f).hostM = s.hostM := rfl
@[simp] theorem modFrag_out : (s.modFrag g e f).out = s.out := rfl
@[simp] theorem modFrag_refetch : (s.modFrag g e f).refetch = s.refetch := rfl
@[simp] theorem modFrag_trees : (s.modFrag g e f).trees = s.trees := rfl
@[simp] theorem modFrag_kvHist : (s.modFrag g e f).kvHist = s.kvHist := rfl
@[simp] theorem modFrag_kvPast : (s.modFrag g e f).kvPast = s.kvPast := rfl
@[simp] theorem modFrag_treeLog : (s.modFrag g e f).treeLog = s.treeLog := rfl
@[simp] theorem modFrag_pubBusy : (s.modFrag g e f).pubBusy = s.pubBusy := rfl
@[simp] theorem modFrag_health : (s.modFrag g e f).health = s.health := rfl
@[simp] theorem modFrag_firmware : (s.modFrag g e f).firmware = s.firmware := rfl
end

/-! setCtl. -/
section
variable (s : State) (n : Nat) (v : W64)
@[simp] theorem setCtl_cur : (s.setCtl n v).cur = s.cur := rfl
@[simp] theorem setCtl_issue : (s.setCtl n v).issue = s.issue := rfl
@[simp] theorem setCtl_agenda : (s.setCtl n v).agenda = s.agenda := rfl
@[simp] theorem setCtl_free : (s.setCtl n v).free = s.free := rfl
@[simp] theorem setCtl_nextId : (s.setCtl n v).nextId = s.nextId := rfl
@[simp] theorem setCtl_clk : (s.setCtl n v).clk = s.clk := rfl
@[simp] theorem setCtl_mem : (s.setCtl n v).mem = s.mem := rfl
@[simp] theorem setCtl_published : (s.setCtl n v).published = s.published := rfl
@[simp] theorem setCtl_grains : (s.setCtl n v).grains = s.grains := rfl
@[simp] theorem setCtl_mts : (s.setCtl n v).mts = s.mts := rfl
@[simp] theorem setCtl_lines : (s.setCtl n v).lines = s.lines := rfl
@[simp] theorem setCtl_poisoned : (s.setCtl n v).poisoned = s.poisoned := rfl
@[simp] theorem setCtl_sweep : (s.setCtl n v).sweep = s.sweep := rfl
@[simp] theorem setCtl_ptes : (s.setCtl n v).ptes = s.ptes := rfl
@[simp] theorem setCtl_xhist : (s.setCtl n v).xhist = s.xhist := rfl
@[simp] theorem setCtl_contended : (s.setCtl n v).contended = s.contended := rfl
@[simp] theorem setCtl_reqs : (s.setCtl n v).reqs = s.reqs := rfl
@[simp] theorem setCtl_pends : (s.setCtl n v).pends = s.pends := rfl
@[simp] theorem setCtl_grps : (s.setCtl n v).grps = s.grps := rfl
@[simp] theorem setCtl_tasks : (s.setCtl n v).tasks = s.tasks := rfl
@[simp] theorem setCtl_launches : (s.setCtl n v).launches = s.launches := rfl
@[simp] theorem setCtl_queues : (s.setCtl n v).queues = s.queues := rfl
@[simp] theorem setCtl_ks : (s.setCtl n v).ks = s.ks := rfl
@[simp] theorem setCtl_cores : (s.setCtl n v).cores = s.cores := rfl
@[simp] theorem setCtl_clus : (s.setCtl n v).clus = s.clus := rfl
@[simp] theorem setCtl_ctl : (s.setCtl n v).ctl = s.ctl.put (ctlReset (n % 4096)) n v := rfl
@[simp] theorem setCtl_tailTs : (s.setCtl n v).tailTs = s.tailTs := rfl
@[simp] theorem setCtl_mmio : (s.setCtl n v).mmio = s.mmio := rfl
@[simp] theorem setCtl_trafficUse : (s.setCtl n v).trafficUse = s.trafficUse := rfl
@[simp] theorem setCtl_trafficWin : (s.setCtl n v).trafficWin = s.trafficWin := rfl
@[simp] theorem setCtl_watches : (s.setCtl n v).watches = s.watches := rfl
@[simp] theorem setCtl_wakeAt : (s.setCtl n v).wakeAt = s.wakeAt := rfl
@[simp] theorem setCtl_swatches : (s.setCtl n v).swatches = s.swatches := rfl
@[simp] theorem setCtl_staging : (s.setCtl n v).staging = s.staging := rfl
@[simp] theorem setCtl_mortar : (s.setCtl n v).mortar = s.mortar := rfl
@[simp] theorem setCtl_mortarIdle : (s.setCtl n v).mortarIdle = s.mortarIdle := rfl
@[simp] theorem setCtl_contractFrom : (s.setCtl n v).contractFrom = s.contractFrom := rfl
@[simp] theorem setCtl_frames : (s.setCtl n v).frames = s.frames := rfl
@[simp] theorem setCtl_sets : (s.setCtl n v).sets = s.sets := rfl
@[simp] theorem setCtl_entries : (s.setCtl n v).entries = s.entries := rfl
@[simp] theorem setCtl_retries : (s.setCtl n v).retries = s.retries := rfl
@[simp] theorem setCtl_preq : (s.setCtl n v).preq = s.preq := rfl
@[simp] theorem setCtl_preqAt : (s.setCtl n v).preqAt = s.preqAt := rfl
@[simp] theorem setCtl_dispatchAlone : (s.setCtl n v).dispatchAlone = s.dispatchAlone := rfl
@[simp] theorem setCtl_dir : (s.setCtl n v).dir = s.dir := rfl
@[simp] theorem setCtl_peerTags : (s.setCtl n v).peerTags = s.peerTags := rfl
@[simp] theorem setCtl_performed : (s.setCtl n v).performed = s.performed := rfl
@[simp] theorem setCtl_homeQ : (s.setCtl n v).homeQ = s.homeQ := rfl
@[simp] theorem setCtl_peerQ : (s.setCtl n v).peerQ = s.peerQ := rfl
@[simp] theorem setCtl_hostQ : (s.setCtl n v).hostQ = s.hostQ := rfl
@[simp] theorem setCtl_peerM : (s.setCtl n v).peerM = s.peerM := rfl
@[simp] theorem setCtl_links : (s.setCtl n v).links = s.links := rfl
@[simp] theorem setCtl_ports : (s.setCtl n v).ports = s.ports := rfl
@[simp] theorem setCtl_hostM : (s.setCtl n v).hostM = s.hostM := rfl
@[simp] theorem setCtl_out : (s.setCtl n v).out = s.out := rfl
@[simp] theorem setCtl_refetch : (s.setCtl n v).refetch = s.refetch := rfl
@[simp] theorem setCtl_trees : (s.setCtl n v).trees = s.trees := rfl
@[simp] theorem setCtl_kvHist : (s.setCtl n v).kvHist = s.kvHist := rfl
@[simp] theorem setCtl_kvPast : (s.setCtl n v).kvPast = s.kvPast := rfl
@[simp] theorem setCtl_treeLog : (s.setCtl n v).treeLog = s.treeLog := rfl
@[simp] theorem setCtl_pubBusy : (s.setCtl n v).pubBusy = s.pubBusy := rfl
@[simp] theorem setCtl_health : (s.setCtl n v).health = s.health := rfl
@[simp] theorem setCtl_firmware : (s.setCtl n v).firmware = s.firmware := rfl
end

end State
end Sys2Proof.Machine
end

