-- ==== Sys2Proof/Laws/Ops.lean ====
section
/-! SUPPORT. The shared operations over an agent's registers: what each one answers and what it leaves, in the terms of
Sys2Proof.Leaves. -/
set_option Elab.async false
namespace Sys2Proof.Machine

/-! Lookups after an update. -/
theorem ksCtx_modKs (s : State) (k i : Nat) (f : KsCtx → KsCtx) :
    (s.modKs k f).ksCtx i = if i = k then f (s.ksCtx k) else s.ksCtx i := by
  unfold State.ksCtx
  simp only [State.modKs_ks, Assoc.getD_set]
  rfl

theorem ksCtx_modGrp (s : State) (g i : Nat) (f : Group → Group) : (s.modGrp g f).ksCtx i = s.ksCtx i := rfl

theorem grp_modGrp (s : State) (g i : Nat) (f : Group → Group) :
    (s.modGrp g f).grps.get? i = if i = g then (s.grps.get? g).map f else s.grps.get? i := Assoc.get?_update _ _ _ _

theorem grp_modKs (s : State) (k i : Nat) (f : KsCtx → KsCtx) : (s.modKs k f).grps.get? i = s.grps.get? i := rfl

theorem sget_modGrp (s : State) (g e i : Nat) (f : Group → Group) :
    (s.modGrp g f).sget (.frag g e) i = ((s.grps.get? g).map fun G => (f G).sget i).getD 0#32 := by
  unfold State.sget
  simp [Assoc.get?_update, Function.comp_def]

theorem sget_modKs (s : State) (k i : Nat) (f : KsCtx → KsCtx) :
    (s.modKs k f).sget (.ks k) i = (f (s.ksCtx k)).sreg.getD i 0#32 := by
  unfold State.sget
  simp [ksCtx_modKs]

theorem predOf_modGrp (s : State) (g e p : Nat) (f : Group → Group) :
    (s.modGrp g f).predOf (.frag g e) p = ((s.grps.get? g).map fun G => (f G).pred p).getD 0#64 := by
  unfold State.predOf
  simp [Assoc.get?_update, Function.comp_def]

theorem hasAgent_group {s : State} {g e : Nat} (h : s.hasAgent (.frag g e) = true) :
    ∃ G F, s.grps.get? g = some G ∧ G.frags.get? e = some F := by
  unfold State.hasAgent State.frag? at h
  cases hG : s.grps.get? g with
  | none => simp [hG] at h
  | some G =>
    cases hF : G.frags.get? e with
    | none => simp [hG, hF] at h
    | some F => exact ⟨G, F, rfl, hF⟩

/-! The frame relation. -/
theorem Leaves.refl (s : State) (a : Agent) (l1 l2 l3 : List Nat) : Leaves s s a l1 l2 l3 id id :=
  ⟨rfl, fun _ _ => rfl, fun _ _ => rfl, fun _ _ => rfl, fun _ _ => rfl,
    fun _ _ G _ h => ⟨G, h, rfl, fun _ _ _ => rfl, fun _ h => .inl h⟩, fun _ _ => rfl⟩

theorem QueuesStay.refl (s : State) : QueuesStay s s := ⟨fun _ => rfl, fun _ => rfl⟩
theorem QueuesStay.trans {s t u : State} (a : QueuesStay s t) (b : QueuesStay t u) : QueuesStay s u :=
  ⟨fun i => (b.reqs i).trans (a.reqs i), fun i => (b.pends i).trans (a.pends i)⟩
theorem QueuesStay.of_eq {s t : State} (h1 : t.reqs = s.reqs) (h2 : t.pends = s.pends) : QueuesStay s t :=
  ⟨fun i => by rw [h1], fun i => by rw [h2]⟩

/-- Functions of a group that act on what `groupRest` keeps: equal rests stay equal. -/
def RestFn (f : Group → Group) : Prop := ∀ G H, groupRest G = groupRest H → groupRest (f G) = groupRest (f H)
def RestFnK (f : KsCtx → KsCtx) : Prop := ∀ c d, ctxRest c = ctxRest d → ctxRest (f c) = ctxRest (f d)

theorem Leaves.trans {s t u : State} {a : Agent} {l1 l2 l3 m1 m2 m3 : List Nat} {f : Group → Group} {k : KsCtx → KsCtx}
    (x : Leaves s t a l1 l2 l3 id id) (y : Leaves t u a m1 m2 m3 f k) (hf : RestFn f) (hk : RestFnK k) :
    Leaves s u a (l1 ++ m1) (l2 ++ m2) (l3 ++ m3) f k := by
  refine ⟨y.rest.trans x.rest, fun g h => (y.grps g h).trans (x.grps g h), fun i h => (y.ctxs i h).trans (x.ctxs i h),
    fun i h => ?_, fun p h => ?_, fun g e G ha hG => ?_, fun i ha => ?_⟩
  · simp only [List.mem_append, not_or] at h
    exact (y.scl i h.2).trans (x.scl i h.1)
  · simp only [List.mem_append, not_or] at h
    exact (y.pred p h.2).trans (x.pred p h.1)
  · obtain ⟨H, hH, hr, hv, hl⟩ := x.grp g e G ha hG
    obtain ⟨K, hK, kr, kv, kl⟩ := y.grp g e H ha hH
    refine ⟨K, hK, kr.trans (hf _ _ hr), fun v h1 h2 => ?_, fun v h => ?_⟩
    · simp only [List.mem_append, not_or] at h1
      have : v ∉ H.lastRead := fun h => (hl v h).elim h2 h1.1
      exact (kv v h1.2 this).trans (hv v h1.1 h2)
    · rcases kl v h with h | h
      · exact (hl v h).imp id fun h => List.mem_append.2 (.inl h)
      · exact .inr (List.mem_append.2 (.inr h))
  · exact (y.ctx i ha).trans (hk _ _ (x.ctx i ha))

theorem RestFn.id : RestFn id := fun _ _ h => h
theorem RestFnK.id : RestFnK id := fun _ _ h => h

theorem Leaves.mono {s t : State} {a : Agent} {l1 l2 l3 m1 m2 m3 : List Nat} {f : Group → Group} {k : KsCtx → KsCtx}
    (x : Leaves s t a l1 l2 l3 f k) (h1 : ∀ i, i ∈ l1 → i ∈ m1) (h2 : ∀ i, i ∈ l2 → i ∈ m2) (h3 : ∀ i, i ∈ l3 → i ∈ m3) :
    Leaves s t a m1 m2 m3 f k :=
  ⟨x.rest, x.grps, x.ctxs, fun i h => x.scl i fun q => h (h1 i q), fun p h => x.pred p fun q => h (h2 p q),
    fun g e G ha hG => by
      obtain ⟨H, hH, hr, hv, hl⟩ := x.grp g e G ha hG
      exact ⟨H, hH, hr, fun v q1 q2 => hv v (fun q => q1 (h3 v q)) q2, fun v q => (hl v q).imp id (h3 v)⟩,
    x.ctx⟩

/-- A change of one group that keeps what the frame names. -/
theorem leaves_modGrp (s : State) (g e : Nat) (f : Group → Group) (l1 l2 l3 : List Nat) (fg : Group → Group)
    (hs : ∀ G i, i ∉ l1 → (f G).sget i = G.sget i) (hp : ∀ G p, p ∉ l2 → (f G).pred p = G.pred p)
    (hr : ∀ G, groupRest (f G) = groupRest (fg G))
    (hv : ∀ G v, v ∉ l3 → v ∉ G.lastRead → (f G).reg.get? v = G.reg.get? v)
    (hl : ∀ G v, v ∈ (f G).lastRead → v ∈ G.lastRead ∨ v ∈ l3) :
    Leaves s (s.modGrp g f) (.frag g e) l1 l2 l3 fg id := by
  refine ⟨rfl, fun g' h => ?_, fun _ _ => rfl, fun i h => ?_, fun p h => ?_, fun g' e' G ha hG => ?_,
    fun k hk => by cases hk⟩
  · have hne : g' ≠ g := fun q => h e (by rw [q])
    simp [Assoc.get?_update, hne]
  · rw [sget_modGrp]
    unfold State.sget
    cases hG : s.grps.get? g with
    | none => simp [hG]
    | some G => simp [hG, hs G i h]
  · rw [predOf_modGrp]
    unfold State.predOf
    cases hG : s.grps.get? g with
    | none => simp [hG]
    | some G => simp [hG, hp G p h]
  · injection ha with h1 h2
    subst h1
    exact ⟨f G, by simp [Assoc.get?_update, hG], hr G, hv G, hl G⟩

/-- A change of one context that keeps what the frame names. -/
theorem leaves_modKs (s : State) (k : Nat) (f : KsCtx → KsCtx) (l1 l2 l3 : List Nat) (fk : KsCtx → KsCtx)
    (hs : ∀ i, i ∉ l1 → (f (s.ksCtx k)).sreg.getD i 0#32 = (s.ksCtx k).sreg.getD i 0#32)
    (hp : ∀ p, p ∉ l2 → (f (s.ksCtx k)).preds.getD p false = (s.ksCtx k).preds.getD p false)
    (hr : ctxRest (f (s.ksCtx k)) = ctxRest (fk (s.ksCtx k))) :
    Leaves s (s.modKs k f) (.ks k) l1 l2 l3 id fk := by
  refine ⟨rfl, fun _ _ => rfl, fun i h => ?_, fun i h => ?_, fun p h => ?_, fun g e G ha hG => (by cases ha), fun i ha => ?_⟩
  · have hne : i ≠ k := fun q => h (by rw [q])
    simp [ksCtx_modKs, hne]
  · rw [sget_modKs]
    exact hs i h
  · unfold State.predOf
    simp only [ksCtx_modKs, if_true]
    rw [hp p h]
  · injection ha with h1
    subst h1
    simp [ksCtx_modKs, hr]

/-! Going on (R12, R15, R133). -/
theorem goGroup_keeps (G : Group) (fr : Assoc Frag) : FuseKeeps G (Group.fuse { G with frags := fr }) :=
  (fuseKeeps_frags G fr G.fuses).trans (fuse_keeps _)

/-- A fragment as it goes on at a PC. -/
def wentTo (s : State) (h : Hdr) (pc : W64) (F : Frag) : Frag :=
  { F with pc := pc, st := .ready, yieldReq := h.yield,
           holdUntil := max F.holdUntil (s.stallEnd h), readySince := s.clk, cont := false }

theorem goTo_frag_eq (s : State) (g e : Nat) (h : Hdr) (pc : W64) :
    s.goTo (.frag g e) h pc = s.modGrp g fun G => Group.fuse { G with frags := G.frags.update e (wentTo s h pc) } := rfl

theorem goTo_leaves (s : State) (a : Agent) (h : Hdr) (pc : W64) : Leaves s (s.goTo a h pc) a [] [] [] id id := by
  cases a with
  | frag g e =>
    rw [goTo_frag_eq]
    refine leaves_modGrp s g e _ [] [] [] id ?_ ?_ ?_ ?_ ?_
    · intro G i _
      have k := goGroup_keeps G (G.frags.update e (wentTo s h pc))
      unfold Group.sget
      rw [k.sreg]
    · intro G p _
      have k := goGroup_keeps G (G.frags.update e (wentTo s h pc))
      unfold Group.pred
      rw [k.preds]
    · intro G
      exact (goGroup_keeps G (G.frags.update e (wentTo s h pc))).rest
    · intro G v _ hv
      exact (goGroup_keeps G (G.frags.update e (wentTo s h pc))).reg v hv
    · intro G v hv
      exact .inl ((goGroup_keeps G (G.frags.update e (wentTo s h pc))).last v hv)
  | ks k =>
    unfold State.goTo
    exact leaves_modKs s k _ [] [] [] id (fun _ _ => rfl) (fun _ _ => rfl) rfl

theorem goTo_queues (s : State) (a : Agent) (h : Hdr) (pc : W64) : QueuesStay s (s.goTo a h pc) := by
  cases a with
  | frag g e =>
    rw [goTo_frag_eq]
    exact QueuesStay.of_eq rfl rfl
  | ks k => exact QueuesStay.of_eq rfl rfl

/-- A fragment that is its group's only one and in no record stands at the PC given. -/
theorem goTo_one {s : State} {g e : Nat} {G : Group} {F : Frag} (h : Hdr) (pc : W64) (hG : s.grps.get? g = some G)
    (hF : G.frags = [(e, F)]) (hr : F.record = none) :
    ((s.goTo (.frag g e) h pc).grps.get? g).map (·.frags) = some [(e, wentTo s h pc F)] := by
  have hf : Assoc.update G.frags e (wentTo s h pc) = [(e, wentTo s h pc F)] := by
    simp [hF, Assoc.update, Assoc.get?, Assoc.set]
  have k : (Group.fuse { G with frags := G.frags.update e (wentTo s h pc) }).frags = [(e, wentTo s h pc F)] :=
    fuse_one hf hr
  rw [goTo_frag_eq, grp_modGrp, if_pos rfl, hG, Option.map_some, Option.map_some, k]

theorem goTo_ks (s : State) (k : Nat) (h : Hdr) (pc : W64) :
    ((s.goTo (.ks k) h pc).ksCtx k).pc = pc ∧ ((s.goTo (.ks k) h pc).ksCtx k).st = .ready := by
  unfold State.goTo
  simp [ksCtx_modKs]

/-- Frames, the queues and the next PC of an instruction that retires (R12). -/
theorem retire_leaves (s : State) (a : Agent) (h : Hdr) : Leaves s (s.retire a h) a [] [] [] id id := goTo_leaves s a h _
theorem retire_queues (s : State) (a : Agent) (h : Hdr) : QueuesStay s (s.retire a h) := goTo_queues s a h _

/-- What a state must keep of another so that going on from it is going on from the other. -/
structure SamePlace (s t : State) (a : Agent) : Prop where
  frags : ∀ g e, a = .frag g e → (t.grps.get? g).map (·.frags) = (s.grps.get? g).map (·.frags)
  pc : t.pcOf a = s.pcOf a

theorem SamePlace.refl (s : State) (a : Agent) : SamePlace s s a := ⟨fun _ _ _ => rfl, rfl⟩
theorem SamePlace.trans {s t u : State} {a : Agent} (x : SamePlace s t a) (y : SamePlace t u a) : SamePlace s u a :=
  ⟨fun g e h => (y.frags g e h).trans (x.frags g e h), y.pc.trans x.pc⟩

theorem pcOf_frag (s : State) (g e : Nat) :
    s.pcOf (.frag g e) = ((((s.grps.get? g).map (·.frags)).bind fun fr => fr.get? e).map (·.pc)).getD 0#64 := by
  simp only [State.pcOf, State.frag?]
  cases s.grps.get? g <;> rfl

theorem pcOf_frags {s t : State} {g e : Nat} (h : (t.grps.get? g).map (·.frags) = (s.grps.get? g).map (·.frags)) :
    t.pcOf (.frag g e) = s.pcOf (.frag g e) := by
  rw [pcOf_frag, pcOf_frag, h]

theorem SamePlace.of_frag {s t : State} {g e : Nat} (h : (t.grps.get? g).map (·.frags) = (s.grps.get? g).map (·.frags)) :
    SamePlace s t (.frag g e) :=
  ⟨fun g' e' q => by injection q with q1 q2; subst q1; exact h, pcOf_frags h⟩

theorem samePlace_modGrp (s : State) (g e : Nat) (f : Group → Group) (h : ∀ G, (f G).frags = G.frags) :
    SamePlace s (s.modGrp g f) (.frag g e) := by
  refine SamePlace.of_frag ?_
  rw [grp_modGrp, if_pos rfl]
  cases s.grps.get? g <;> simp [h]

theorem samePlace_modKs (s : State) (k : Nat) (f : KsCtx → KsCtx) (h : (f (s.ksCtx k)).pc = (s.ksCtx k).pc) :
    SamePlace s (s.modKs k f) (.ks k) := by
  constructor
  · intro g e q
    cases q
  · simp [State.pcOf, ksCtx_modKs, h]

theorem retire_advances {s t : State} {a : Agent} (h : Hdr) (x : SamePlace s t a) : Advances s (t.retire a h) a := by
  cases a with
  | frag g e =>
    intro G F hG hF hr
    have hx := x.frags g e rfl
    rw [hG] at hx
    cases hT : t.grps.get? g with
    | none => rw [hT] at hx; cases hx
    | some H =>
      rw [hT] at hx
      simp only [Option.map_some, Option.some.injEq] at hx
      have hp : t.pcOf (.frag g e) = F.pc := by
        rw [pcOf_frag, hT, Option.map_some, hx, hF]
        simp [Assoc.get?]
      have k := goTo_one h (t.pcOf (.frag g e) + 12#64) hT (hx.trans hF) hr
      have kr : ((t.retire (.frag g e) h).grps.get? g).map (·.frags) = some [(e, wentTo t h (F.pc + 12#64) F)] := by
        rw [← hp]
        exact k
      have kf : (t.retire (.frag g e) h).frag? g e = some (wentTo t h (F.pc + 12#64) F) := by
        unfold State.frag?
        cases hR : (t.retire (.frag g e) h).grps.get? g with
        | none => rw [hR] at kr; cases kr
        | some R =>
          rw [hR] at kr
          simp only [Option.map_some, Option.some.injEq] at kr
          simp [kr, Assoc.get?]
      simp only [State.pcOf, State.stOf, State.maskOfAgent, kf]
      exact ⟨rfl, rfl, rfl⟩
  | ks k =>
    have hp : t.pcOf (.ks k) = s.pcOf (.ks k) := x.pc
    have := goTo_ks t k h (t.pcOf (.ks k) + 12#64)
    unfold State.retire
    refine ⟨?_, this.2⟩
    rw [this.1, hp]
    rfl

/-! Register writes: what a run of them leaves. -/
/-- Registers of an agent change, nothing moves. -/
structure RegStep (s t : State) (a : Agent) (l1 l2 l3 : List Nat) : Prop where
  leaves : Leaves s t a l1 l2 l3 id id
  queues : QueuesStay s t
  place : SamePlace s t a

theorem RegStep.refl (s : State) (a : Agent) : RegStep s s a [] [] [] :=
  ⟨Leaves.refl s a _ _ _, QueuesStay.refl s, SamePlace.refl s a⟩
theorem RegStep.trans {s t u : State} {a : Agent} {l1 l2 l3 m1 m2 m3 : List Nat} (x : RegStep s t a l1 l2 l3)
    (y : RegStep t u a m1 m2 m3) : RegStep s u a (l1 ++ m1) (l2 ++ m2) (l3 ++ m3) :=
  ⟨x.leaves.trans y.leaves RestFn.id RestFnK.id, x.queues.trans y.queues, x.place.trans y.place⟩
theorem RegStep.mono {s t : State} {a : Agent} {l1 l2 l3 m1 m2 m3 : List Nat} (x : RegStep s t a l1 l2 l3)
    (h1 : ∀ i, i ∈ l1 → i ∈ m1) (h2 : ∀ i, i ∈ l2 → i ∈ m2) (h3 : ∀ i, i ∈ l3 → i ∈ m3) : RegStep s t a m1 m2 m3 :=
  ⟨x.leaves.mono h1 h2 h3, x.queues, x.place⟩

/-- Retiring after register writes: the frame of the whole, and the next PC. -/
theorem RegStep.retire {s t : State} {a : Agent} {l1 l2 l3 : List Nat} (x : RegStep s t a l1 l2 l3) (h : Hdr) :
    OnlyRegs s (t.retire a h) a l1 l2 l3 ∧ Advances s (t.retire a h) a := by
  refine ⟨⟨?_, x.queues.trans (retire_queues t a h)⟩, retire_advances h x.place⟩
  have := x.leaves.trans (retire_leaves t a h) RestFn.id RestFnK.id
  simpa using this

/-- The agent still exists. -/
theorem SamePlace.hasAgent {s t : State} {a : Agent} (x : SamePlace s t a) (h : s.hasAgent a = true) : t.hasAgent a = true := by
  cases a with
  | ks k => exact h
  | frag g e =>
    have hx := x.frags g e rfl
    simp only [State.hasAgent, State.frag?] at h ⊢
    cases hs : s.grps.get? g with
    | none => simp [hs] at h
    | some G =>
      rw [hs] at hx h
      cases ht : t.grps.get? g with
      | none => rw [ht] at hx; cases hx
      | some H =>
        rw [ht] at hx
        simp only [Option.map_some, Option.some.injEq] at hx
        simpa [hx] using h

theorem SamePlace.mask {s t : State} {a : Agent} (x : SamePlace s t a) : t.maskOfAgent a = s.maskOfAgent a := by
  cases a with
  | ks k => rfl
  | frag g e =>
    have hx := x.frags g e rfl
    simp only [State.maskOfAgent, State.frag?]
    cases hs : s.grps.get? g with
    | none =>
      rw [hs] at hx
      cases ht : t.grps.get? g with
      | none => rfl
      | some H => rw [ht] at hx; cases hx
    | some G =>
      rw [hs] at hx
      cases ht : t.grps.get? g with
      | none => rw [ht] at hx; cases hx
      | some H =>
        rw [ht] at hx
        simp only [Option.map_some, Option.some.injEq] at hx
        simp [hx]

theorem rest_clk {s t : State} (h : stateRest t = stateRest s) : t.clk = s.clk := by
  have := congrArg State.clk h
  exact this
theorem rest_mem {s t : State} (h : stateRest t = stateRest s) : t.mem = s.mem := by
  have := congrArg State.mem h
  exact this

/-! Scalar registers. -/
theorem swrite_sget (G : Group) (i j : Nat) (x : W32) : (G.swrite i x).sget j = if j = i then x else G.sget j :=
  getD_setAt _ _ _ _ _

theorem sset_step (s : State) (a : Agent) (i : Nat) (x : W32) : RegStep s (s.sset a i x) a [i] [] [] := by
  cases a with
  | frag g e =>
    refine ⟨leaves_modGrp s g e _ [i] [] [] id ?_ ?_ ?_ ?_ ?_, QueuesStay.of_eq rfl rfl, samePlace_modGrp s g e _ fun _ => rfl⟩
    · intro G j hj
      rw [swrite_sget]
      simp only [List.mem_singleton] at hj
      simp [hj]
    · intro G p _; rfl
    · intro G; rfl
    · intro G v _ _; rfl
    · intro G v h; exact .inl h
  | ks k =>
    unfold State.sset
    refine ⟨leaves_modKs s k _ [i] [] [] id ?_ (fun _ _ => rfl) rfl, QueuesStay.of_eq rfl rfl, samePlace_modKs s k _ rfl⟩
    intro j hj
    simp only [List.mem_singleton] at hj
    rw [getD_setAt]
    simp [hj]

theorem sset_get {s : State} {a : Agent} (h : s.hasAgent a = true) (i : Nat) (x : W32) : (s.sset a i x).sget a i = x := by
  cases a with
  | frag g e =>
    obtain ⟨G, F, hG, _⟩ := hasAgent_group h
    simp only [State.sset, sget_modGrp, hG, Option.map_some, Option.getD_some]
    rw [swrite_sget]
    simp
  | ks k =>
    simp only [State.sset, sget_modKs]
    rw [getD_setAt]
    simp

theorem sset64_step (s : State) (a : Agent) (i : Nat) (x : W64) : RegStep s (s.sset64 a i x) a [i, i + 1] [] [] :=
  (sset_step s a i _).trans (sset_step _ a (i + 1) _)

theorem sset64_get {s : State} {a : Agent} (h : s.hasAgent a = true) (i : Nat) (x : W64) :
    (s.sset64 a i x).sget a i = lo32 x ∧ (s.sset64 a i x).sget a (i + 1) = hi32 x := by
  have h1 := (sset_step s a i (lo32 x)).place.hasAgent h
  refine ⟨?_, sset_get h1 _ _⟩
  exact ((sset_step (s.sset a i (lo32 x)) a (i + 1) (hi32 x)).leaves.scl i (by simp)).trans (sset_get h _ _)

/-! Interlocks (R141). -/
theorem addBusy_step (s : State) (a : Agent) (rs : List (Nat × Nat)) (lat : Nat) : RegStep s (s.addBusy a rs lat) a [] [] [] := by
  unfold State.addBusy
  cases a with
  | frag g e =>
    exact ⟨leaves_modGrp s g e _ [] [] [] id (fun _ _ _ => rfl) (fun _ _ _ => rfl) (fun _ => rfl) (fun _ _ _ _ => rfl)
      (fun _ _ h => .inl h), QueuesStay.of_eq rfl rfl, samePlace_modGrp s g e _ fun _ => rfl⟩
  | ks k =>
    exact ⟨leaves_modKs s k _ [] [] [] id (fun _ _ => rfl) (fun _ _ => rfl) rfl, QueuesStay.of_eq rfl rfl,
      samePlace_modKs s k _ rfl⟩

/-- A change of requests' replaced parts and commands' destinations only. -/
theorem queues_step (s : State) (a : Agent) (rq : Assoc Req) (pd : Assoc PendCmd)
    (h1 : ∀ i, (rq.get? i).map reqCore = (s.reqs.get? i).map reqCore)
    (h2 : ∀ i, (pd.get? i).map pendCore = (s.pends.get? i).map pendCore) :
    RegStep s { s with reqs := rq, pends := pd } a [] [] [] := by
  refine ⟨⟨rfl, fun _ _ => rfl, fun _ _ => rfl, fun _ _ => ?_, fun _ _ => ?_,
    fun _ _ G _ hG => ⟨G, hG, rfl, fun _ _ _ => rfl, fun _ h => .inl h⟩, fun _ _ => rfl⟩, ⟨h1, h2⟩, fun _ _ _ => rfl, ?_⟩
  all_goals cases a <;> rfl

theorem mapVal_reqCore (m : Assoc Req) (f : Nat → Req → Req) (h : ∀ i r, reqCore (f i r) = reqCore r) (i : Nat) :
    (((m.mapVal f).get? i).map reqCore) = (m.get? i).map reqCore := by
  rw [Assoc.get?_mapVal]
  cases m.get? i <;> simp [h]
theorem mapVal_pendCore (m : Assoc PendCmd) (f : Nat → PendCmd → PendCmd) (h : ∀ i r, pendCore (f i r) = pendCore r)
    (i : Nat) : (((m.mapVal f).get? i).map pendCore) = (m.get? i).map pendCore := by
  rw [Assoc.get?_mapVal]
  cases m.get? i <;> simp [h]

theorem reqCore_ite (c : Bool) (r : Req) (o : List (Nat × Mask)) :
    reqCore (if c then { r with overwritten := o } else r) = reqCore r := by
  cases c <;> rfl

/-- The commands that a scalar write cuts, and the loads. -/
theorem cutScl_step (s : State) (a : Agent) (rs : List Nat) : RegStep s (s.cutScl a rs) a [] [] [] := by
  have pends : ∀ (s : State) (f : Nat → PendCmd → PendCmd), (∀ i p, pendCore (f i p) = pendCore p) →
      RegStep s { s with pends := s.pends.mapVal f } a [] [] [] := fun s f hf =>
    queues_step s a _ _ (fun _ => rfl) fun i => mapVal_pendCore _ f hf i
  have reqs : ∀ (s : State) (f : Nat → Req → Req), (∀ i r, reqCore (f i r) = reqCore r) →
      RegStep s { s with reqs := s.reqs.mapVal f } a [] [] [] := fun s f hf =>
    queues_step s a _ _ (fun i => mapVal_reqCore _ f hf i) fun _ => rfl
  have join : ∀ {x y z : State}, RegStep x y a [] [] [] → RegStep y z a [] [] [] → RegStep x z a [] [] [] :=
    fun h k => (h.trans (m1 := []) (m2 := []) (m3 := []) k).mono (by simp) (by simp) (by simp)
  unfold State.cutScl
  dsimp only
  split <;> split
  all_goals first
    | exact RegStep.refl s a
    | refine pends s _ fun i r => ?_
    | refine join (pends s _ fun i r => ?_) (reqs _ _ fun i r => ?_)
    | refine reqs _ _ fun i r => ?_
  all_goals repeat (first | rfl | split)

theorem youngerWrite_step (s : State) (a : Agent) (g v : Nat) (m : Mask) : RegStep s (s.youngerWrite g v m) a [] [] [] := by
  unfold State.youngerWrite
  split
  · exact RegStep.refl s a
  · exact queues_step s a _ _ (fun i => mapVal_reqCore _ _ (fun _ r => reqCore_ite _ r _) i) fun _ => rfl

/-- A scalar write before it cuts the results of outstanding loads and commands (R70, R142). -/
def sclBase (s : State) (a : Agent) (d : Nat) (wide : Bool) (x : W64) : State :=
  if wide then s.sset64 a d x else s.sset a d (lo32 x)

theorem sclBase_step (s : State) (a : Agent) (d : Nat) (wide : Bool) (x : W64) :
    RegStep s (sclBase s a d wide x) a (sclRegs d wide) [] [] := by
  cases wide
  · exact sset_step s a d _
  · exact sset64_step s a d _

theorem writeScl_after (s : State) (a : Agent) (d : Nat) (wide : Bool) (x : W64) :
    RegStep (sclBase s a d wide x) (s.writeScl a d wide x) a [] [] [] := by
  exact cutScl_step (sclBase s a d wide x) a _

theorem writeScl_step (s : State) (a : Agent) (d : Nat) (wide : Bool) (x : W64) :
    RegStep s (s.writeScl a d wide x) a (sclRegs d wide) [] [] :=
  ((sclBase_step s a d wide x).trans (writeScl_after s a d wide x)).mono (by simp) (by simp) (by simp)

theorem writeScl_get {s : State} {a : Agent} (h : s.hasAgent a = true) (d : Nat) (wide : Bool) (x : W64) :
    (s.writeScl a d wide x).sget a d = lo32 x ∧ (wide = true → (s.writeScl a d wide x).sget a (d + 1) = hi32 x) := by
  have k := (writeScl_after s a d wide x).leaves.scl
  rw [k d (by simp), k (d + 1) (by simp)]
  cases wide
  · exact ⟨sset_get h d _, fun q => by cases q⟩
  · exact ⟨(sset64_get h d x).1, fun _ => (sset64_get h d x).2⟩

theorem scl_finish {s t : State} {a : Agent} {d : Nat} {wide : Bool} {x : W64} {l3 : List Nat} (h : Hdr) (rs : List (Nat × Nat)) (lat : Nat)
    (hx : RegStep s t a (sclRegs d wide) [] l3) (h1 : t.sget a d = lo32 x)
    (h2 : wide = true → t.sget a (d + 1) = hi32 x) :
    ((t.addBusy a rs lat).retire a h).sget a d = lo32 x ∧
      (wide = true → ((t.addBusy a rs lat).retire a h).sget a (d + 1) = hi32 x) ∧
      OnlyRegs s ((t.addBusy a rs lat).retire a h) a (sclRegs d wide) [] l3 ∧
      Advances s ((t.addBusy a rs lat).retire a h) a := by
  have k := (addBusy_step t a rs lat).leaves.scl
  have r := (retire_leaves (t.addBusy a rs lat) a h).scl
  have y := ((hx.trans (addBusy_step t a rs lat)).mono (m1 := sclRegs d wide) (m2 := []) (m3 := l3) (by simp) (by simp) (by simp)).retire h
  refine ⟨?_, fun hw => ?_, y.1, y.2⟩
  · rw [r d (by simp), k d (by simp), h1]
  · rw [r (d + 1) (by simp), k (d + 1) (by simp), h2 hw]

theorem sclOp_done {s : State} {a : Agent} {h : Hdr} (hs : Acts s a h) (d : Nat) (wide : Bool) (lat : Nat) (x : State → W64) :
    SclDone s (sclOp s a h d wide lat x) a d wide (x s) := by
  unfold sclOp
  rw [if_pos hs.2]
  have v := writeScl_get hs.1.2 d wide (x s)
  exact scl_finish h _ lat (writeScl_step s a d wide (x s)) v.1 v.2

theorem retire_only (s : State) (a : Agent) (h : Hdr) : OnlyRetires s (s.retire a h) a := (RegStep.refl s a).retire h

theorem sclOp_skip {s : State} {a : Agent} {h : Hdr} (hs : s.guardOnce a h = false) (d : Nat) (wide : Bool) (lat : Nat)
    (x : State → W64) : OnlyRetires s (sclOp s a h d wide lat x) a := by
  unfold sclOp
  rw [if_neg (by simp [hs])]
  exact retire_only s a h

theorem withAgent_run {s : State} {a : Agent} (h : Runs s a) (k : Agent → State) : withAgent s k = .next (k a) := by
  unfold withAgent
  rw [h.1]
  simp [h.2]

end Sys2Proof.Machine
end

