-- ==== Sys2Proof/Laws/PerInstr.lean ====
section
/-! SUPPORT. The encoder against the decoder, field by field and format by format, and per instruction the family
RoundTrip: the word of a well-formed instruction decodes to it. -/
set_option linter.unusedSimpArgs false
set_option Elab.async false
namespace Sys2Proof.Laws.RoundTrip

theorem fld_hi {n m k : Nat} (a : BitVec n) (b : BitVec m) (lo : Nat) (h : m ≤ lo) :
    (a ++ b).extractLsb' lo k = a.extractLsb' (lo - m) k := by
  ext i hi
  simp only [BitVec.getElem_extractLsb', BitVec.getLsbD_append]
  have : ¬ (lo + i < m) := by omega
  simp [this]; congr 1; omega
theorem fld_lo {n m k : Nat} (a : BitVec n) (b : BitVec m) (lo : Nat) (h : lo + k ≤ m) :
    (a ++ b).extractLsb' lo k = b.extractLsb' lo k := by
  ext i hi
  simp only [BitVec.getElem_extractLsb', BitVec.getLsbD_append]
  have : (lo + i < m) := by omega
  simp [this]
theorem fld_all {n : Nat} (a : BitVec n) : a.extractLsb' 0 n = a := by simp
theorem bit_hi {n m : Nat} (a : BitVec n) (b : BitVec m) (lo : Nat) (h : m ≤ lo) :
    (a ++ b).getLsbD lo = a.getLsbD (lo - m) := by
  have : ¬ (lo < m) := by omega
  simp [BitVec.getLsbD_append, this]
theorem bit_lo {n m : Nat} (a : BitVec n) (b : BitVec m) (lo : Nat) (h : lo < m) :
    (a ++ b).getLsbD lo = b.getLsbD lo := by
  simp [BitVec.getLsbD_append, h]
theorem bit1_get (b : Bool) : (bit1 b).getLsbD 0 = b := by cases b <;> rfl
theorem cls_code (c : Cls) : Cls.ofCode c.code = c := by cases c <;> rfl
theorem src_rt (x : Src) : srcOf x.bitsOf = x := by
  unfold srcOf Src.bitsOf
  simp (disch := decide) only [fld_hi, fld_lo, Nat.reduceSub, fld_all, cls_code]
theorem dst_rt (x : Dst) : dstOf x.bitsOf = x := by
  unfold dstOf Dst.bitsOf
  simp (disch := decide) only [fld_hi, fld_lo, Nat.reduceSub, fld_all, cls_code]
theorem word_x (op : Nat) (h : Hdr) (f : BitVec 73) (lo k : Nat) : (wordOf op h f).extractLsb' lo k = BitVec.extractLsb' lo k (BitVec.ofNat 10 op ++ h.bitsOf ++ f) := rfl
theorem word_b (op : Nat) (h : Hdr) (f : BitVec 73) (i : Nat) : (wordOf op h f).getLsbD i = BitVec.getLsbD (BitVec.ofNat 10 op ++ h.bitsOf ++ f) i := rfl
theorem hdr_x (h : Hdr) (lo k : Nat) : (h.bitsOf).extractLsb' lo k = BitVec.extractLsb' lo k (bit1 h.gneg ++ h.gpred ++ h.stall ++ bit1 h.yield ++ bit1 h.pair ++ bit1 h.lra ++ bit1 h.lrb ++ bit1 h.lrc) := rfl
theorem hdr_b (h : Hdr) (i : Nat) : (h.bitsOf).getLsbD i = BitVec.getLsbD (bit1 h.gneg ++ h.gpred ++ h.stall ++ bit1 h.yield ++ bit1 h.pair ++ bit1 h.lra ++ bit1 h.lrb ++ bit1 h.lrc) i := rfl
theorem nf_x (f : NForm) (lo k : Nat) : (f.bitsOf).extractLsb' lo k = BitVec.extractLsb' lo k (f.d.bitsOf ++ f.a.bitsOf ++ f.b.bitsOf ++ f.c.bitsOf ++ BitVec.ofNat 5 f.ty.code ++ BitVec.ofNat 3 f.rnd.code ++ bit1 f.sat ++ f.aux ++ bit1 false ++ f.op) := rfl
theorem nf_b (f : NForm) (i : Nat) : (f.bitsOf).getLsbD i = BitVec.getLsbD (f.d.bitsOf ++ f.a.bitsOf ++ f.b.bitsOf ++ f.c.bitsOf ++ BitVec.ofNat 5 f.ty.code ++ BitVec.ofNat 3 f.rnd.code ++ bit1 f.sat ++ f.aux ++ bit1 false ++ f.op) i := rfl
theorem ifm_x (f : IForm) (lo k : Nat) : (f.bitsOf).extractLsb' lo k = BitVec.extractLsb' lo k (f.d.bitsOf ++ f.a.bitsOf ++ f.imm ++ BitVec.ofNat 4 f.ty.code ++ bit1 f.sat ++ f.aux ++ bit1 true ++ f.op) := rfl
theorem ifm_b (f : IForm) (i : Nat) : (f.bitsOf).getLsbD i = BitVec.getLsbD (f.d.bitsOf ++ f.a.bitsOf ++ f.imm ++ BitVec.ofNat 4 f.ty.code ++ bit1 f.sat ++ f.aux ++ bit1 true ++ f.op) i := rfl
theorem mf_x (f : MForm) (lo k : Nat) : (f.bitsOf).extractLsb' lo k = BitVec.extractLsb' lo k (f.d.bitsOf ++ f.a.bitsOf ++ f.b.bitsOf ++ f.off ++ BitVec.ofNat 3 f.size.code ++ f.scale ++ BitVec.ofNat 2 f.order.code ++ BitVec.ofNat 3 f.scope.code ++ BitVec.ofNat 2 f.policy.code ++ f.sub) := rfl
theorem mf_b (f : MForm) (i : Nat) : (f.bitsOf).getLsbD i = BitVec.getLsbD (f.d.bitsOf ++ f.a.bitsOf ++ f.b.bitsOf ++ f.off ++ BitVec.ofNat 3 f.size.code ++ f.scale ++ BitVec.ofNat 2 f.order.code ++ BitVec.ofNat 3 f.scope.code ++ BitVec.ofNat 2 f.policy.code ++ f.sub) i := rfl
theorem bf_x (f : BForm) (lo k : Nat) : (f.bitsOf).extractLsb' lo k = BitVec.extractLsb' lo k (f.d.bitsOf ++ f.a.bitsOf ++ f.tgt ++ f.rcv ++ f.hint ++ bit1 f.mbz) := rfl
theorem bf_b (f : BForm) (i : Nat) : (f.bitsOf).getLsbD i = BitVec.getLsbD (f.d.bitsOf ++ f.a.bitsOf ++ f.tgt ++ f.rcv ++ f.hint ++ bit1 f.mbz) i := rfl
theorem ef_x (f : EForm) (lo k : Nat) : (f.bitsOf).extractLsb' lo k = BitVec.extractLsb' lo k (f.d.bitsOf ++ f.a.bitsOf ++ f.b.bitsOf ++ f.c.bitsOf ++ f.chan ++ f.flags ++ f.sub) := rfl
theorem ef_b (f : EForm) (i : Nat) : (f.bitsOf).getLsbD i = BitVec.getLsbD (f.d.bitsOf ++ f.a.bitsOf ++ f.b.bitsOf ++ f.c.bitsOf ++ f.chan ++ f.flags ++ f.sub) i := rfl
theorem kf_x (f : KForm) (lo k : Nat) : (f.bitsOf).extractLsb' lo k = BitVec.extractLsb' lo k (f.d.bitsOf ++ f.a.bitsOf ++ f.b.bitsOf ++ f.c.bitsOf ++ f.afmt ++ f.bfmt ++ f.kc ++ bit1 f.hold ++ bit1 f.zacc ++ f.bkind ++ f.sub) := rfl
theorem kf_b (f : KForm) (i : Nat) : (f.bitsOf).getLsbD i = BitVec.getLsbD (f.d.bitsOf ++ f.a.bitsOf ++ f.b.bitsOf ++ f.c.bitsOf ++ f.afmt ++ f.bfmt ++ f.kc ++ bit1 f.hold ++ bit1 f.zacc ++ f.bkind ++ f.sub) i := rfl

theorem ty_rt5 (t : Ty) : Ty.ofCode (BitVec.ofNat 5 t.code).toNat = some t := by cases t <;> rfl
theorem ty_rt4 (t : Ty) : Ty.ofCode (BitVec.ofNat 4 t.code).toNat = some t := by cases t <;> rfl
theorem rnd_rt (t : Rnd) : Rnd.ofCode (BitVec.ofNat 3 t.code).toNat = some t := by cases t <;> rfl
theorem sz_rt (t : Sz) : Sz.ofCode (BitVec.ofNat 3 t.code).toNat = some t := by cases t <;> rfl
theorem ord_rt (t : Order) : Order.ofCode (BitVec.ofNat 2 t.code).toNat = t := by cases t <;> rfl
theorem scope_rt (t : Scope) : Scope.ofCode (BitVec.ofNat 3 t.code).toNat = some t := by cases t <;> rfl
theorem pol_rt (t : Policy) : Policy.ofCode (BitVec.ofNat 2 t.code).toNat = some t := by cases t <;> rfl
theorem hdr_rt (op : Nat) (h : Hdr) (f : BitVec 73) : hdrOf (wordOf op h f) = h := by
  simp (disch := decide) only [hdrOf, fieldAt, word_x, word_b, hdr_x, hdr_b, fld_hi, fld_lo, bit_hi, bit_lo, Nat.reduceSub, fld_all, bit1_get]
theorem cls_rt (op : Nat) (h : Hdr) (f : BitVec 73) : fieldNat (wordOf op h f) 92 4 = op % 1024 / 64 := by
  simp (disch := decide) only [fieldNat, fieldAt, word_x, fld_hi, fld_lo, Nat.reduceSub]
  simp [BitVec.extractLsb'_toNat, Nat.shiftRight_eq_div_pow]
  omega

theorem min_rt (op : Nat) (h : Hdr) (f : BitVec 73) : fieldNat (wordOf op h f) 86 6 = op % 64 := by
  simp (disch := decide) only [fieldNat, fieldAt, word_x, fld_hi, fld_lo, Nat.reduceSub]
  simp [BitVec.extractLsb'_toNat]
theorem n_rt (op : Nat) (h : Hdr) (f : NForm) : nFormOf (wordOf op h f.bitsOf) = f := by
  simp (disch := decide) only [nFormOf, fieldNat, fieldAt, word_x, word_b, nf_x, nf_b, fld_hi, fld_lo, bit_hi, bit_lo, Nat.reduceSub, fld_all, bit1_get, src_rt, dst_rt, ty_rt5, rnd_rt, Option.getD_some]
theorem i_rt (op : Nat) (h : Hdr) (f : IForm) : iFormOf (wordOf op h f.bitsOf) = f := by
  simp (disch := decide) only [iFormOf, fieldNat, fieldAt, word_x, word_b, ifm_x, ifm_b, fld_hi, fld_lo, bit_hi, bit_lo, Nat.reduceSub, fld_all, bit1_get, src_rt, dst_rt, ty_rt4, Option.getD_some]
theorem m_rt (op : Nat) (h : Hdr) (f : MForm) : mFormOf (wordOf op h f.bitsOf) = f := by
  simp (disch := decide) only [mFormOf, fieldNat, fieldAt, word_x, word_b, mf_x, mf_b, fld_hi, fld_lo, bit_hi, bit_lo, Nat.reduceSub, fld_all, bit1_get, src_rt, dst_rt, sz_rt, ord_rt, scope_rt, pol_rt, Option.getD_some]
theorem b_rt (op : Nat) (h : Hdr) (f : BForm) : bFormOf (wordOf op h f.bitsOf) = f := by
  simp (disch := decide) only [bFormOf, fieldNat, fieldAt, word_x, word_b, bf_x, bf_b, fld_hi, fld_lo, bit_hi, bit_lo, Nat.reduceSub, fld_all, bit1_get, src_rt, dst_rt]
theorem e_rt (op : Nat) (h : Hdr) (f : EForm) : eFormOf (wordOf op h f.bitsOf) = f := by
  simp (disch := decide) only [eFormOf, fieldNat, fieldAt, word_x, word_b, ef_x, ef_b, fld_hi, fld_lo, bit_hi, bit_lo, Nat.reduceSub, fld_all, bit1_get, src_rt, dst_rt]
theorem k_rt (op : Nat) (h : Hdr) (f : KForm) : kFormOf (wordOf op h f.bitsOf) = f := by
  simp (disch := decide) only [kFormOf, fieldNat, fieldAt, word_x, word_b, kf_x, kf_b, fld_hi, fld_lo, bit_hi, bit_lo, Nat.reduceSub, fld_all, bit1_get, src_rt, dst_rt]

theorem bit5_n (op : Nat) (h : Hdr) (f : NForm) : (wordOf op h f.bitsOf).getLsbD 5 = false := by
  simp (disch := decide) only [word_b, nf_b, fld_hi, fld_lo, bit_hi, bit_lo, Nat.reduceSub, bit1_get]
theorem bit5_i (op : Nat) (h : Hdr) (f : IForm) : (wordOf op h f.bitsOf).getLsbD 5 = true := by
  simp (disch := decide) only [word_b, ifm_b, fld_hi, fld_lo, bit_hi, bit_lo, Nat.reduceSub, bit1_get]
theorem op_n_rt (op : Nat) (h : Hdr) (f : NForm) : fieldNat (wordOf op h f.bitsOf) 0 5 = f.op.toNat := by
  simp (disch := decide) only [fieldNat, fieldAt, word_x, nf_x, fld_hi, fld_lo, Nat.reduceSub, fld_all]
theorem op_e_rt (op : Nat) (h : Hdr) (f : EForm) : fieldNat (wordOf op h f.bitsOf) 0 8 = f.sub.toNat := by
  simp (disch := decide) only [fieldNat, fieldAt, word_x, ef_x, fld_hi, fld_lo, Nat.reduceSub, fld_all]
theorem rsv_n (op : Nat) (h : Hdr) (f : NForm) : nReserved (wordOf op h f.bitsOf) = [] := by
  simp (disch := decide) only [nReserved, fieldNat, fieldAt, word_x, nf_x, fld_hi, fld_lo, Nat.reduceSub, fld_all, ty_rt5, rnd_rt, Option.isNone_some, Bool.or_self, sub, Bool.false_eq_true, if_false]
theorem rsv_i (op : Nat) (h : Hdr) (f : IForm) : iReserved (wordOf op h f.bitsOf) = [] := by
  simp (disch := decide) only [iReserved, fieldNat, fieldAt, word_x, ifm_x, fld_hi, fld_lo, Nat.reduceSub, fld_all, ty_rt4, Option.isNone_some, sub, Bool.false_eq_true, if_false]
theorem rsv_m (op : Nat) (h : Hdr) (f : MForm) : mReserved (wordOf op h f.bitsOf) = [] := by
  simp (disch := decide) only [mReserved, fieldNat, fieldAt, word_x, mf_x, fld_hi, fld_lo, Nat.reduceSub, fld_all, sz_rt, scope_rt, pol_rt, Option.isNone_some, Bool.or_self, sub, Bool.false_eq_true, if_false]
theorem rsv_e (op : Nat) (h : Hdr) (f : EForm) (hc : f.chan.toNat ≤ 17) : eReserved (wordOf op h f.bitsOf) = [] := by
  have : ¬ 17 < f.chan.toNat := by omega
  simp (disch := decide) only [eReserved, fieldNat, fieldAt, word_x, ef_x, fld_hi, fld_lo, Nat.reduceSub, fld_all, sub, this, decide_false, Bool.false_eq_true, if_false]

theorem word_ne (op : Nat) (h : Hdr) (x : BitVec 73) (hm : op % 64 ≠ 0) : wordOf op h x ≠ 0#96 := by
  intro e
  have := min_rt op h x
  rw [e] at this
  exact hm (by simpa [fieldNat, fieldAt] using this.symm)

theorem opcode_checks {st : Stream} {i : Instr} (hw : i.wf st = true) :
    st.allows i.opcode = true ∧ i.check st = [] ∧ i.reservedFormat = false := by
  simp only [Instr.wf, Bool.and_eq_true, Bool.not_eq_true', List.isEmpty_iff] at hw
  exact ⟨hw.1.1.2, hw.1.2, hw.2⟩

/-- A well-formed instruction's word decodes to it. -/
def Statement (i : Instr) : Prop :=
  ∀ st, i.wf st = true → ∃ w, encode i = some w ∧ decode st true w = .instr i

theorem of_event {i : Instr} (h : i.opcode = 0) : Statement i := by
  intro st hw
  simp [Instr.wf, h] at hw

theorem of_word {st : Stream} {fmt : Fmt} {op : Nat} {h : Hdr} {x : BitVec 73} {i : Instr} (hw : i.wf st = true)
    (hb : build (wordOf op h x) = some i) (hf : formatOf (op % 1024 / 64) (op % 64) = some fmt)
    (hn : op % 1024 / 64 ≠ 15) (hm : op % 64 ≠ 0) (hu : formUnlisted (wordOf op h x) = false)
    (hr : reservedCodes fmt (wordOf op h x) = []) : decode st true (wordOf op h x) = .instr i := by
  obtain ⟨ha, hc, hx⟩ := opcode_checks hw
  simp only [decode, word_ne op h x hm, if_false, cls_rt, min_rt, hn, hm, hb, hf, ha, Bool.not_true, Bool.and_false,
    Bool.false_eq_true, operandFaults, hu, hr, hc, List.append_nil, lowest, hx]

/-- The opcodes none of whose words leaves an op or sub unlisted. -/
def listedOps (op : Nat) : Bool := !([0x107, 0x143, 0x250, 0x2CC, 0x384, 0x38C] : List Nat).contains (op % 1024)
theorem listed {op : Nat} (h : Hdr) (x : BitVec 73) (hu : listedOps op = true) :
    formUnlisted (wordOf op h x) = false := by
  have e : op % 1024 = 64 * (op % 1024 / 64) + op % 64 := by omega
  simp only [formUnlisted, cls_rt, min_rt]
  simp only [listedOps] at hu
  split <;> first | rfl | (rename_i h1 h2; rw [e, h1, h2] at hu; exact absurd hu (by decide))

theorem of_n (op : Nat) (fmt : Fmt) (h : Hdr) (f : NForm) (i : Instr) (hb : build (wordOf op h f.bitsOf) = some i)
    (he : encode i = some (wordOf op h f.bitsOf)) (hf : formatOf (op % 1024 / 64) (op % 64) = some fmt)
    (hk : (fmt == .n || fmt == .ni) = true) (hn : (op % 1024 / 64 != 15 && op % 64 != 0) = true)
    (hu : listedOps op = true) : Statement i := by
  intro st hw
  simp only [Bool.and_eq_true, bne_iff_ne] at hn
  refine ⟨_, he, of_word hw hb hf hn.1 hn.2 (listed h _ hu) ?_⟩
  cases fmt <;> first | (exact absurd hk (by decide)) | (simp only [reservedCodes, rsv_n, bit5_n]; rfl)
theorem of_i (op : Nat) (fmt : Fmt) (h : Hdr) (f : IForm) (i : Instr) (hb : build (wordOf op h f.bitsOf) = some i)
    (he : encode i = some (wordOf op h f.bitsOf)) (hf : formatOf (op % 1024 / 64) (op % 64) = some fmt)
    (hk : (fmt == .i || fmt == .ni) = true) (hn : (op % 1024 / 64 != 15 && op % 64 != 0) = true)
    (hu : listedOps op = true) : Statement i := by
  intro st hw
  simp only [Bool.and_eq_true, bne_iff_ne] at hn
  refine ⟨_, he, of_word hw hb hf hn.1 hn.2 (listed h _ hu) ?_⟩
  cases fmt <;> first | (exact absurd hk (by decide)) | (simp only [reservedCodes, rsv_i, bit5_i]; rfl)
theorem of_m (op : Nat) (fmt : Fmt) (h : Hdr) (f : MForm) (i : Instr) (hb : build (wordOf op h f.bitsOf) = some i)
    (he : encode i = some (wordOf op h f.bitsOf)) (hf : formatOf (op % 1024 / 64) (op % 64) = some fmt)
    (hk : (fmt == .m) = true) (hn : (op % 1024 / 64 != 15 && op % 64 != 0) = true)
    (hu : listedOps op = true) : Statement i := by
  intro st hw
  simp only [Bool.and_eq_true, bne_iff_ne] at hn
  refine ⟨_, he, of_word hw hb hf hn.1 hn.2 (listed h _ hu) ?_⟩
  cases fmt <;> first | (exact absurd hk (by decide)) | (simp only [reservedCodes, rsv_m])
theorem of_b (op : Nat) (fmt : Fmt) (h : Hdr) (f : BForm) (i : Instr) (hb : build (wordOf op h f.bitsOf) = some i)
    (he : encode i = some (wordOf op h f.bitsOf)) (hf : formatOf (op % 1024 / 64) (op % 64) = some fmt)
    (hk : (fmt == .b) = true) (hn : (op % 1024 / 64 != 15 && op % 64 != 0) = true)
    (hu : listedOps op = true) : Statement i := by
  intro st hw
  simp only [Bool.and_eq_true, bne_iff_ne] at hn
  refine ⟨_, he, of_word hw hb hf hn.1 hn.2 (listed h _ hu) ?_⟩
  cases fmt <;> first | (exact absurd hk (by decide)) | rfl
theorem of_k (op : Nat) (fmt : Fmt) (h : Hdr) (f : KForm) (i : Instr) (hb : build (wordOf op h f.bitsOf) = some i)
    (he : encode i = some (wordOf op h f.bitsOf)) (hf : formatOf (op % 1024 / 64) (op % 64) = some fmt)
    (hk : (fmt == .k) = true) (hn : (op % 1024 / 64 != 15 && op % 64 != 0) = true)
    (hu : listedOps op = true) : Statement i := by
  intro st hw
  simp only [Bool.and_eq_true, bne_iff_ne] at hn
  refine ⟨_, he, of_word hw hb hf hn.1 hn.2 (listed h _ hu) ?_⟩
  cases fmt <;> first | (exact absurd hk (by decide)) | rfl

theorem sub_nil {b : Bool} {n : Nat} : sub b n = [] ↔ b = false := by cases b <;> simp [sub]
theorem chanOk_le {st : Stream} {c : BitVec 5} (h : chanOk st c = true) : c.toNat ≤ 17 := by
  cases st <;> simp [chanOk] at h
  · omega
  · simp [h]
theorem ctrOk_le {st : Stream} {c : BitVec 5} (h : ctrOk st c = true) : c.toNat ≤ 17 := by
  cases st <;> simp [ctrOk] at h
  · omega
  · simp [h]
theorem extra_e {st : Stream} {f : EForm} {r : ERow} (h : eCheck st f r = []) :
    r.extra = [] ∧ (r.chan = false → f.chan = 0#5) ∧ f.sub.toNat = r.sub := by
  simp only [eCheck, List.append_eq_nil_iff, sub_nil] at h
  obtain ⟨⟨⟨⟨-, h1⟩, -⟩, h2⟩, h3⟩ := h
  refine ⟨h3, fun hr => by simpa [hr] using h1, by simpa using h2⟩
theorem extra_n {st : Stream} {f : NForm} {r : NRow} (h : nCheck st f r = []) : r.extra = [] := by
  simp only [nCheck, List.append_eq_nil_iff] at h
  exact h.2
theorem plain_op {st : Stream} {f : NForm} {d a b c : Option Slot} {op : Bool}
    (h : nCheck st f (plain f d a b c op) = []) : op = true := by
  have := extra_n h
  simpa [plain, sub_nil] using this
theorem of_e (op : Nat) (h : Hdr) (f : EForm) (i : Instr) (hb : build (wordOf op h f.bitsOf) = some i)
    (he : encode i = some (wordOf op h f.bitsOf)) (hf : formatOf (op % 1024 / 64) (op % 64) = some .e)
    (hn : (op % 1024 / 64 != 15 && op % 64 != 0) = true)
    (hu : listedOps op = true) (hc : ∀ st, i.check st = [] → f.chan.toNat ≤ 17) : Statement i := by
  intro st hw
  simp only [Bool.and_eq_true, bne_iff_ne] at hn
  refine ⟨_, he, of_word hw hb hf hn.1 hn.2 (listed h _ hu) ?_⟩
  simp only [reservedCodes, rsv_e op h f (hc st (opcode_checks hw).2.1)]
theorem unlisted {op n : Nat} {h : Hdr} {x : BitVec 73} (hx : fieldNat (wordOf op h x) 0 5 = n)
    (hy : fieldNat (wordOf op h x) 0 8 ≤ 2 ∨ op % 1024 ≠ 0x2CC)
    (ho : ((op % 1024 == 0x107 || op % 1024 == 0x143) && n < 4 || op % 1024 == 0x250 && n < 2 ||
      (op % 1024 == 0x384 || op % 1024 == 0x38C) && n < 3 || op % 1024 == 0x2CC || listedOps op) = true) :
    formUnlisted (wordOf op h x) = false := by
  have e : op % 1024 = 64 * (op % 1024 / 64) + op % 64 := by omega
  simp only [formUnlisted, cls_rt, min_rt, hx]
  simp only [listedOps] at ho
  split <;> first
    | rfl
    | (rename_i h1 h2; rw [h1, h2] at e; rw [e] at ho hy; simp at ho hy ⊢; omega)
theorem of_op (op n : Nat) (fmt : Fmt) (h : Hdr) (f : NForm) (i : Instr) (he : encode i = some (wordOf op h f.bitsOf))
    (hop : ∀ st, i.check st = [] → f.op = BitVec.ofNat 5 n)
    (hb : f.op = BitVec.ofNat 5 n → build (wordOf op h f.bitsOf) = some i)
    (hf : formatOf (op % 1024 / 64) (op % 64) = some fmt)
    (hk : (fmt == .n) = true) (hn : (op % 1024 / 64 != 15 && op % 64 != 0 && op % 1024 != 0x2CC && n < 32) = true)
    (hu : ((op % 1024 == 0x107 || op % 1024 == 0x143) && n < 4 || op % 1024 == 0x250 && n < 2 ||
      (op % 1024 == 0x384 || op % 1024 == 0x38C) && n < 3 || op % 1024 == 0x2CC || listedOps op) = true) : Statement i := by
  intro st hw
  simp only [Bool.and_eq_true, bne_iff_ne, decide_eq_true_eq] at hn
  have ho := hop st (opcode_checks hw).2.1
  have hx : fieldNat (wordOf op h f.bitsOf) 0 5 = n := by
    rw [op_n_rt, ho]; simp; omega
  refine ⟨_, he, of_word hw (hb ho) hf hn.1.1.1 hn.1.1.2 (unlisted hx (.inr hn.1.2) hu) ?_⟩
  cases fmt <;> first | (exact absurd hk (by decide)) | (simp only [reservedCodes, rsv_n, bit5_n]; rfl)
theorem of_sub (n : Nat) (h : Hdr) (f : EForm) (i : Instr) (he : encode i = some (wordOf 0x2CC h f.bitsOf))
    (hb : f.sub = BitVec.ofNat 8 n → build (wordOf 0x2CC h f.bitsOf) = some i) (hn : n < 3)
    (hc : ∀ st, i.check st = [] → f.sub = BitVec.ofNat 8 n ∧ f.chan.toNat ≤ 17) : Statement i := by
  intro st hw
  obtain ⟨ho, hc⟩ := hc st (opcode_checks hw).2.1
  have hy : fieldNat (wordOf 0x2CC h f.bitsOf) 0 8 ≤ 2 := by rw [op_e_rt, ho]; simp; omega
  refine ⟨_, he, of_word hw (hb ho) (fmt := .e) rfl (by decide) (by decide) (unlisted rfl (.inl hy) (by simp)) ?_⟩
  simp only [reservedCodes, rsv_e _ h f hc]
theorem partitionIssueSelection (core part : Nat) : Statement (.partitionIssueSelection core part) := of_event rfl
theorem candidatePromotion (core part : Nat) (slotB : Bool) : Statement (.candidatePromotion core part slotB) := of_event rfl
theorem stallHoldEnd (a : Agent) : Statement (.stallHoldEnd a) := of_event rfl
theorem fixedLatencyWriteback (a : Agent) : Statement (.fixedLatencyWriteback a) := of_event rfl
theorem loadReply (id : Nat) : Statement (.loadReply id) := of_event rfl
theorem storeAcknowledge (id : Nat) : Statement (.storeAcknowledge id) := of_event rfl
theorem taskDone (task : Nat) : Statement (.taskDone task) := of_event rfl
theorem queueTailWake (die queue : Nat) : Statement (.queueTailWake die queue) := of_event rfl
theorem launchRecord (die queue : Nat) : Statement (.launchRecord die queue) := of_event rfl
theorem semaphoreWait (die queue : Nat) : Statement (.semaphoreWait die queue) := of_event rfl
theorem semaphoreSignal (die queue : Nat) : Statement (.semaphoreSignal die queue) := of_event rfl
theorem taskAdmission (quad : Nat) : Statement (.taskAdmission quad) := of_event rfl
theorem dispatchStarvation (quad : Nat) : Statement (.dispatchStarvation quad) := of_event rfl
theorem dispatcherSteal (quad : Nat) : Statement (.dispatcherSteal quad) := of_event rfl
theorem parkFrameWrite (grp : Nat) : Statement (.parkFrameWrite grp) := of_event rfl
theorem parkedGroupReturn (core : Nat) : Statement (.parkedGroupReturn core) := of_event rfl
theorem footprintReview (core : Nat) : Statement (.footprintReview core) := of_event rfl
theorem measuredLeaseWindow (grp : Nat) : Statement (.measuredLeaseWindow grp) := of_event rfl
theorem fpgateWrite (v : W32) : Statement (.fpgateWrite v) := of_event rfl
theorem logicalTimeTick (core : Nat) : Statement (.logicalTimeTick core) := of_event rfl
theorem tsleaseWrite (v : W32) : Statement (.tsleaseWrite v) := of_event rfl
theorem homeAccess (id : Nat) : Statement (.homeAccess id) := of_event rfl
theorem frequencyAgeHalving (slice : Nat) : Statement (.frequencyAgeHalving slice) := of_event rfl
theorem lineLeaseExpiry (grp line : Nat) : Statement (.lineLeaseExpiry grp line) := of_event rfl
theorem watchWake (slice : Nat) : Statement (.watchWake slice) := of_event rfl
theorem waitAddrTimeout (id : Nat) : Statement (.waitAddrTimeout id) := of_event rfl
theorem sleepExpiry (a : Agent) : Statement (.sleepExpiry a) := of_event rfl
theorem sysIdleWake (a : Agent) : Statement (.sysIdleWake a) := of_event rfl
theorem faultSetWrite (die : Nat) : Statement (.faultSetWrite die) := of_event rfl
theorem preqPreemptLaunch (die : Nat) (v : W64) : Statement (.preqPreemptLaunch die v) := of_event rfl
theorem preqPreemptCore (die : Nat) (v : W64) : Statement (.preqPreemptCore die v) := of_event rfl
theorem preqResumeLaunch (die : Nat) (v : W64) : Statement (.preqResumeLaunch die v) := of_event rfl
theorem preqResumeCore (die : Nat) (v : W64) : Statement (.preqResumeCore die v) := of_event rfl
theorem preemptionSequence (task : Nat) : Statement (.preemptionSequence task) := of_event rfl
theorem maskBudgetExpiry (task : Nat) : Statement (.maskBudgetExpiry task) := of_event rfl
theorem savedTaskReturn (task : Nat) : Statement (.savedTaskReturn task) := of_event rfl
theorem engineCommandAccept (id : Nat) : Statement (.engineCommandAccept id) := of_event rfl
theorem copyChunkExecute (slice : Nat) : Statement (.copyChunkExecute slice) := of_event rfl
theorem chunkSteal (slice : Nat) : Statement (.chunkSteal slice) := of_event rfl
theorem remoteChunkAcknowledge (slice : Nat) : Statement (.remoteChunkAcknowledge slice) := of_event rfl
theorem kvCommandExecute (task : Nat) : Statement (.kvCommandExecute task) := of_event rfl
theorem kvPageRefetch (tree page : Nat) : Statement (.kvPageRefetch tree page) := of_event rfl
theorem matrixCommandStart (ctx : Nat) : Statement (.matrixCommandStart ctx) := of_event rfl
theorem matrixCommandComplete (ctx : Nat) : Statement (.matrixCommandComplete ctx) := of_event rfl
theorem accumulatorAccessComplete (id : Nat) : Statement (.accumulatorAccessComplete id) := of_event rfl
theorem keystoneBindingRelease (ctx : Nat) : Statement (.keystoneBindingRelease ctx) := of_event rfl
theorem bankSwitchPoint (core bank : Nat) : Statement (.bankSwitchPoint core bank) := of_event rfl
theorem contractInstall (entry : Nat) (v : W64) : Statement (.contractInstall entry v) := of_event rfl
theorem contractChange (entry word : Nat) (v : W64) : Statement (.contractChange entry word v) := of_event rfl
theorem contractRemoval (entry : Nat) (v : W64) : Statement (.contractRemoval entry v) := of_event rfl
theorem contractLineMove (entry line : Nat) : Statement (.contractLineMove entry line) := of_event rfl
theorem treeEnable (tree : Nat) (v : W64) : Statement (.treeEnable tree v) := of_event rfl
theorem treeEnableComplete (tree : Nat) : Statement (.treeEnableComplete tree) := of_event rfl
theorem treeDisable (tree : Nat) (v : W64) : Statement (.treeDisable tree v) := of_event rfl
theorem treeDisableComplete (tree : Nat) : Statement (.treeDisableComplete tree) := of_event rfl
theorem pubreqWrite (v : W64) : Statement (.pubreqWrite v) := of_event rfl
theorem publicationComplete  : Statement (.publicationComplete ) := of_event rfl
theorem sweeperVisit  : Statement (.sweeperVisit ) := of_event rfl
theorem trafficWindowStart (die cls : Nat) : Statement (.trafficWindowStart die cls) := of_event rfl
theorem controlRegisterWrite (r : RegLoc) (v : W64) : Statement (.controlRegisterWrite r v) := of_event rfl
theorem ringGateDecision (seg : Nat) : Statement (.ringGateDecision seg) := of_event rfl
theorem ringSegmentGate (seg : Nat) : Statement (.ringSegmentGate seg) := of_event rfl
theorem ringSegmentWake (seg : Nat) : Statement (.ringSegmentWake seg) := of_event rfl
theorem recallAnswer (line : Nat) (holder : W32) : Statement (.recallAnswer line holder) := of_event rfl
theorem voluntaryReturn (line : Nat) (holder : W32) : Statement (.voluntaryReturn line holder) := of_event rfl
theorem recallTimerExpiry (line : Nat) : Statement (.recallTimerExpiry line) := of_event rfl
theorem ashlarRequest (r : PeerReq) : Statement (.ashlarRequest r) := of_event rfl
theorem ashlarAcknowledgement (src tag : Nat) (refused : Bool) : Statement (.ashlarAcknowledgement src tag refused) := of_event rfl
theorem ashlarFlitReceive (link seq : Nat) (crcOk : Bool) (payload : List PeerReq) : Statement (.ashlarFlitReceive link seq crcOk payload) := of_event rfl
theorem ashlarRetryRequest (link seq : Nat) : Statement (.ashlarRetryRequest link seq) := of_event rfl
theorem linkRetrain (link lanes : Nat) : Statement (.linkRetrain link lanes) := of_event rfl
theorem remoteRequestTimeout (id : Nat) : Statement (.remoteRequestTimeout id) := of_event rfl
theorem cxlMemRequest (port : Nat) (r : HostReq) : Statement (.cxlMemRequest port r) := of_event rfl
theorem hostSnoop (port line : Nat) (exclusive : Bool) : Statement (.hostSnoop port line exclusive) := of_event rfl
theorem globalObservation (id : Nat) : Statement (.globalObservation id) := of_event rfl
theorem ideIntegrityFailure (port : Nat) : Statement (.ideIntegrityFailure port) := of_event rfl
theorem ideKm (port : Nat) (cachemem : Bool) (key : Nat) : Statement (.ideKm port cachemem key) := of_event rfl
theorem getVersion (port : Nat) : Statement (.getVersion port) := of_event rfl
theorem getCapabilities (port : Nat) : Statement (.getCapabilities port) := of_event rfl
theorem negotiateAlgorithms (port : Nat) : Statement (.negotiateAlgorithms port) := of_event rfl
theorem getDigests (port : Nat) : Statement (.getDigests port) := of_event rfl
theorem getCertificate (port slot : Nat) : Statement (.getCertificate port slot) := of_event rfl
theorem challenge (port nonce : Nat) : Statement (.challenge port nonce) := of_event rfl
theorem getMeasurements (port index nonce : Nat) : Statement (.getMeasurements port index nonce) := of_event rfl
theorem keyExchange (port share : Nat) : Statement (.keyExchange port share) := of_event rfl
theorem finish (port mac : Nat) : Statement (.finish port mac) := of_event rfl
theorem heartbeat (port : Nat) : Statement (.heartbeat port) := of_event rfl
theorem endSession (port : Nat) : Statement (.endSession port) := of_event rfl
theorem unsupportedRequest (port code : Nat) : Statement (.unsupportedRequest port code) := of_event rfl
theorem packageReset (r : BringUpReport) : Statement (.packageReset r) := of_event rfl
theorem correctedError (u : UnitId) : Statement (.correctedError u) := of_event rfl
theorem uncorrectedError (u : UnitId) (line : Nat) : Statement (.uncorrectedError u line) := of_event rfl
theorem errorCountHalving  : Statement (.errorCountHalving ) := of_event rfl
theorem islandPowerChange (island level : Nat) : Statement (.islandPowerChange island level) := of_event rfl
theorem keystoneIssue (cluster : Nat) : Statement (.keystoneIssue cluster) := of_event rfl
theorem sAdd (h : Hdr) (f : NForm) : Statement (.sAdd h f) :=
  of_n 1 .ni h f _ (by simp only [build, build0, cls_rt, min_rt, hdr_rt, n_rt, bit5_n, Bool.false_eq_true, if_false]) rfl rfl rfl rfl rfl
theorem sAddImm (h : Hdr) (f : IForm) : Statement (.sAddImm h f) :=
  of_i 1 .ni h f _ (by simp only [build, build0, cls_rt, min_rt, hdr_rt, i_rt, bit5_i, if_true]) rfl rfl rfl rfl rfl
theorem sSub (h : Hdr) (f : NForm) : Statement (.sSub h f) :=
  of_n 2 .ni h f _ (by simp only [build, build0, cls_rt, min_rt, hdr_rt, n_rt, bit5_n, Bool.false_eq_true, if_false]) rfl rfl rfl rfl rfl
theorem sSubImm (h : Hdr) (f : IForm) : Statement (.sSubImm h f) :=
  of_i 2 .ni h f _ (by simp only [build, build0, cls_rt, min_rt, hdr_rt, i_rt, bit5_i, if_true]) rfl rfl rfl rfl rfl
theorem sMul (h : Hdr) (f : NForm) : Statement (.sMul h f) :=
  of_n 3 .ni h f _ (by simp only [build, build0, cls_rt, min_rt, hdr_rt, n_rt, bit5_n, Bool.false_eq_true, if_false]) rfl rfl rfl rfl rfl
theorem sMulImm (h : Hdr) (f : IForm) : Statement (.sMulImm h f) :=
  of_i 3 .ni h f _ (by simp only [build, build0, cls_rt, min_rt, hdr_rt, i_rt, bit5_i, if_true]) rfl rfl rfl rfl rfl
theorem sMulhi (h : Hdr) (f : NForm) : Statement (.sMulhi h f) :=
  of_n 4 .ni h f _ (by simp only [build, build0, cls_rt, min_rt, hdr_rt, n_rt, bit5_n, Bool.false_eq_true, if_false]) rfl rfl rfl rfl rfl
theorem sMulhiImm (h : Hdr) (f : IForm) : Statement (.sMulhiImm h f) :=
  of_i 4 .ni h f _ (by simp only [build, build0, cls_rt, min_rt, hdr_rt, i_rt, bit5_i, if_true]) rfl rfl rfl rfl rfl
theorem sMad (h : Hdr) (f : NForm) : Statement (.sMad h f) :=
  of_n 5 .n h f _ (by simp only [build, build0, cls_rt, min_rt, hdr_rt, n_rt]) rfl rfl rfl rfl rfl
theorem sAnd (h : Hdr) (f : NForm) : Statement (.sAnd h f) :=
  of_n 6 .ni h f _ (by simp only [build, build0, cls_rt, min_rt, hdr_rt, n_rt, bit5_n, Bool.false_eq_true, if_false]) rfl rfl rfl rfl rfl
theorem sAndImm (h : Hdr) (f : IForm) : Statement (.sAndImm h f) :=
  of_i 6 .ni h f _ (by simp only [build, build0, cls_rt, min_rt, hdr_rt, i_rt, bit5_i, if_true]) rfl rfl rfl rfl rfl
theorem sOr (h : Hdr) (f : NForm) : Statement (.sOr h f) :=
  of_n 7 .ni h f _ (by simp only [build, build0, cls_rt, min_rt, hdr_rt, n_rt, bit5_n, Bool.false_eq_true, if_false]) rfl rfl rfl rfl rfl
theorem sOrImm (h : Hdr) (f : IForm) : Statement (.sOrImm h f) :=
  of_i 7 .ni h f _ (by simp only [build, build0, cls_rt, min_rt, hdr_rt, i_rt, bit5_i, if_true]) rfl rfl rfl rfl rfl
theorem sXor (h : Hdr) (f : NForm) : Statement (.sXor h f) :=
  of_n 8 .ni h f _ (by simp only [build, build0, cls_rt, min_rt, hdr_rt, n_rt, bit5_n, Bool.false_eq_true, if_false]) rfl rfl rfl rfl rfl
theorem sXorImm (h : Hdr) (f : IForm) : Statement (.sXorImm h f) :=
  of_i 8 .ni h f _ (by simp only [build, build0, cls_rt, min_rt, hdr_rt, i_rt, bit5_i, if_true]) rfl rfl rfl rfl rfl
theorem sShl (h : Hdr) (f : NForm) : Statement (.sShl h f) :=
  of_n 9 .ni h f _ (by simp only [build, build0, cls_rt, min_rt, hdr_rt, n_rt, bit5_n, Bool.false_eq_true, if_false]) rfl rfl rfl rfl rfl
theorem sShlImm (h : Hdr) (f : IForm) : Statement (.sShlImm h f) :=
  of_i 9 .ni h f _ (by simp only [build, build0, cls_rt, min_rt, hdr_rt, i_rt, bit5_i, if_true]) rfl rfl rfl rfl rfl
theorem sShr (h : Hdr) (f : NForm) : Statement (.sShr h f) :=
  of_n 10 .ni h f _ (by simp only [build, build0, cls_rt, min_rt, hdr_rt, n_rt, bit5_n, Bool.false_eq_true, if_false]) rfl rfl rfl rfl rfl
theorem sShrImm (h : Hdr) (f : IForm) : Statement (.sShrImm h f) :=
  of_i 10 .ni h f _ (by simp only [build, build0, cls_rt, min_rt, hdr_rt, i_rt, bit5_i, if_true]) rfl rfl rfl rfl rfl
theorem sSar (h : Hdr) (f : NForm) : Statement (.sSar h f) :=
  of_n 11 .ni h f _ (by simp only [build, build0, cls_rt, min_rt, hdr_rt, n_rt, bit5_n, Bool.false_eq_true, if_false]) rfl rfl rfl rfl rfl
theorem sSarImm (h : Hdr) (f : IForm) : Statement (.sSarImm h f) :=
  of_i 11 .ni h f _ (by simp only [build, build0, cls_rt, min_rt, hdr_rt, i_rt, bit5_i, if_true]) rfl rfl rfl rfl rfl
theorem sMin (h : Hdr) (f : NForm) : Statement (.sMin h f) :=
  of_n 12 .ni h f _ (by simp only [build, build0, cls_rt, min_rt, hdr_rt, n_rt, bit5_n, Bool.false_eq_true, if_false]) rfl rfl rfl rfl rfl
theorem sMinImm (h : Hdr) (f : IForm) : Statement (.sMinImm h f) :=
  of_i 12 .ni h f _ (by simp only [build, build0, cls_rt, min_rt, hdr_rt, i_rt, bit5_i, if_true]) rfl rfl rfl rfl rfl
theorem sMax (h : Hdr) (f : NForm) : Statement (.sMax h f) :=
  of_n 13 .ni h f _ (by simp only [build, build0, cls_rt, min_rt, hdr_rt, n_rt, bit5_n, Bool.false_eq_true, if_false]) rfl rfl rfl rfl rfl
theorem sMaxImm (h : Hdr) (f : IForm) : Statement (.sMaxImm h f) :=
  of_i 13 .ni h f _ (by simp only [build, build0, cls_rt, min_rt, hdr_rt, i_rt, bit5_i, if_true]) rfl rfl rfl rfl rfl
theorem sCmp (h : Hdr) (f : NForm) : Statement (.sCmp h f) :=
  of_n 14 .ni h f _ (by simp only [build, build0, cls_rt, min_rt, hdr_rt, n_rt, bit5_n, Bool.false_eq_true, if_false]) rfl rfl rfl rfl rfl
theorem sCmpImm (h : Hdr) (f : IForm) : Statement (.sCmpImm h f) :=
  of_i 14 .ni h f _ (by simp only [build, build0, cls_rt, min_rt, hdr_rt, i_rt, bit5_i, if_true]) rfl rfl rfl rfl rfl
theorem sSel (h : Hdr) (f : NForm) : Statement (.sSel h f) :=
  of_n 15 .n h f _ (by simp only [build, build0, cls_rt, min_rt, hdr_rt, n_rt]) rfl rfl rfl rfl rfl
theorem sMov (h : Hdr) (f : NForm) : Statement (.sMov h f) :=
  of_n 16 .n h f _ (by simp only [build, build0, cls_rt, min_rt, hdr_rt, n_rt]) rfl rfl rfl rfl rfl
theorem sLi (h : Hdr) (f : IForm) : Statement (.sLi h f) :=
  of_i 17 .i h f _ (by simp only [build, build0, cls_rt, min_rt, hdr_rt, i_rt]) rfl rfl rfl rfl rfl
theorem sLih (h : Hdr) (f : IForm) : Statement (.sLih h f) :=
  of_i 18 .i h f _ (by simp only [build, build0, cls_rt, min_rt, hdr_rt, i_rt]) rfl rfl rfl rfl rfl
theorem sAdd64 (h : Hdr) (f : NForm) : Statement (.sAdd64 h f) :=
  of_n 19 .ni h f _ (by simp only [build, build0, cls_rt, min_rt, hdr_rt, n_rt, bit5_n, Bool.false_eq_true, if_false]) rfl rfl rfl rfl rfl
theorem sAdd64Imm (h : Hdr) (f : IForm) : Statement (.sAdd64Imm h f) :=
  of_i 19 .ni h f _ (by simp only [build, build0, cls_rt, min_rt, hdr_rt, i_rt, bit5_i, if_true]) rfl rfl rfl rfl rfl
theorem sSub64 (h : Hdr) (f : NForm) : Statement (.sSub64 h f) :=
  of_n 20 .ni h f _ (by simp only [build, build0, cls_rt, min_rt, hdr_rt, n_rt, bit5_n, Bool.false_eq_true, if_false]) rfl rfl rfl rfl rfl
theorem sSub64Imm (h : Hdr) (f : IForm) : Statement (.sSub64Imm h f) :=
  of_i 20 .ni h f _ (by simp only [build, build0, cls_rt, min_rt, hdr_rt, i_rt, bit5_i, if_true]) rfl rfl rfl rfl rfl
theorem sMul64 (h : Hdr) (f : NForm) : Statement (.sMul64 h f) :=
  of_n 21 .ni h f _ (by simp only [build, build0, cls_rt, min_rt, hdr_rt, n_rt, bit5_n, Bool.false_eq_true, if_false]) rfl rfl rfl rfl rfl
theorem sMul64Imm (h : Hdr) (f : IForm) : Statement (.sMul64Imm h f) :=
  of_i 21 .ni h f _ (by simp only [build, build0, cls_rt, min_rt, hdr_rt, i_rt, bit5_i, if_true]) rfl rfl rfl rfl rfl
theorem sPopc (h : Hdr) (f : NForm) : Statement (.sPopc h f) :=
  of_n 22 .n h f _ (by simp only [build, build0, cls_rt, min_rt, hdr_rt, n_rt]) rfl rfl rfl rfl rfl
theorem sClz (h : Hdr) (f : NForm) : Statement (.sClz h f) :=
  of_n 23 .n h f _ (by simp only [build, build0, cls_rt, min_rt, hdr_rt, n_rt]) rfl rfl rfl rfl rfl
theorem sBfe (h : Hdr) (f : NForm) : Statement (.sBfe h f) :=
  of_n 24 .ni h f _ (by simp only [build, build0, cls_rt, min_rt, hdr_rt, n_rt, bit5_n, Bool.false_eq_true, if_false]) rfl rfl rfl rfl rfl
theorem sBfeImm (h : Hdr) (f : IForm) : Statement (.sBfeImm h f) :=
  of_i 24 .ni h f _ (by simp only [build, build0, cls_rt, min_rt, hdr_rt, i_rt, bit5_i, if_true]) rfl rfl rfl rfl rfl
theorem sBfi (h : Hdr) (f : NForm) : Statement (.sBfi h f) :=
  of_n 25 .n h f _ (by simp only [build, build0, cls_rt, min_rt, hdr_rt, n_rt]) rfl rfl rfl rfl rfl
theorem sDivs (h : Hdr) (f : NForm) : Statement (.sDivs h f) :=
  of_n 26 .ni h f _ (by simp only [build, build0, cls_rt, min_rt, hdr_rt, n_rt, bit5_n, Bool.false_eq_true, if_false]) rfl rfl rfl rfl rfl
theorem sDivsImm (h : Hdr) (f : IForm) : Statement (.sDivsImm h f) :=
  of_i 26 .ni h f _ (by simp only [build, build0, cls_rt, min_rt, hdr_rt, i_rt, bit5_i, if_true]) rfl rfl rfl rfl rfl
theorem sDivn (h : Hdr) (f : NForm) : Statement (.sDivn h f) :=
  of_n 27 .ni h f _ (by simp only [build, build0, cls_rt, min_rt, hdr_rt, n_rt, bit5_n, Bool.false_eq_true, if_false]) rfl rfl rfl rfl rfl
theorem sDivnImm (h : Hdr) (f : IForm) : Statement (.sDivnImm h f) :=
  of_i 27 .ni h f _ (by simp only [build, build0, cls_rt, min_rt, hdr_rt, i_rt, bit5_i, if_true]) rfl rfl rfl rfl rfl
theorem sLd (h : Hdr) (f : MForm) : Statement (.sLd h f) :=
  of_m 28 .m h f _ (by simp only [build, build0, cls_rt, min_rt, hdr_rt, m_rt]) rfl rfl rfl rfl rfl
theorem sSt (h : Hdr) (f : MForm) : Statement (.sSt h f) :=
  of_m 29 .m h f _ (by simp only [build, build0, cls_rt, min_rt, hdr_rt, m_rt]) rfl rfl rfl rfl rfl
theorem sRdsr (h : Hdr) (f : NForm) : Statement (.sRdsr h f) :=
  of_n 30 .n h f _ (by simp only [build, build0, cls_rt, min_rt, hdr_rt, n_rt]) rfl rfl rfl rfl rfl
theorem sVrd (h : Hdr) (f : NForm) : Statement (.sVrd h f) :=
  of_n 31 .n h f _ (by simp only [build, build0, cls_rt, min_rt, hdr_rt, n_rt]) rfl rfl rfl rfl rfl
theorem sVwr (h : Hdr) (f : NForm) : Statement (.sVwr h f) :=
  of_n 32 .n h f _ (by simp only [build, build0, cls_rt, min_rt, hdr_rt, n_rt]) rfl rfl rfl rfl rfl
theorem vAdd (h : Hdr) (f : NForm) : Statement (.vAdd h f) :=
  of_n 65 .ni h f _ (by simp only [build, build1, cls_rt, min_rt, hdr_rt, n_rt, bit5_n, Bool.false_eq_true, if_false]) rfl rfl rfl rfl rfl
theorem vAddImm (h : Hdr) (f : IForm) : Statement (.vAddImm h f) :=
  of_i 65 .ni h f _ (by simp only [build, build1, cls_rt, min_rt, hdr_rt, i_rt, bit5_i, if_true]) rfl rfl rfl rfl rfl
theorem vSub (h : Hdr) (f : NForm) : Statement (.vSub h f) :=
  of_n 66 .ni h f _ (by simp only [build, build1, cls_rt, min_rt, hdr_rt, n_rt, bit5_n, Bool.false_eq_true, if_false]) rfl rfl rfl rfl rfl
theorem vSubImm (h : Hdr) (f : IForm) : Statement (.vSubImm h f) :=
  of_i 66 .ni h f _ (by simp only [build, build1, cls_rt, min_rt, hdr_rt, i_rt, bit5_i, if_true]) rfl rfl rfl rfl rfl
theorem vAddx (h : Hdr) (f : NForm) : Statement (.vAddx h f) :=
  of_n 67 .n h f _ (by simp only [build, build1, cls_rt, min_rt, hdr_rt, n_rt]) rfl rfl rfl rfl rfl
theorem vSubx (h : Hdr) (f : NForm) : Statement (.vSubx h f) :=
  of_n 68 .n h f _ (by simp only [build, build1, cls_rt, min_rt, hdr_rt, n_rt]) rfl rfl rfl rfl rfl
theorem vMul (h : Hdr) (f : NForm) : Statement (.vMul h f) :=
  of_n 69 .ni h f _ (by simp only [build, build1, cls_rt, min_rt, hdr_rt, n_rt, bit5_n, Bool.false_eq_true, if_false]) rfl rfl rfl rfl rfl
theorem vMulImm (h : Hdr) (f : IForm) : Statement (.vMulImm h f) :=
  of_i 69 .ni h f _ (by simp only [build, build1, cls_rt, min_rt, hdr_rt, i_rt, bit5_i, if_true]) rfl rfl rfl rfl rfl
theorem vMulhi (h : Hdr) (f : NForm) : Statement (.vMulhi h f) :=
  of_n 70 .ni h f _ (by simp only [build, build1, cls_rt, min_rt, hdr_rt, n_rt, bit5_n, Bool.false_eq_true, if_false]) rfl rfl rfl rfl rfl
theorem vMulhiImm (h : Hdr) (f : IForm) : Statement (.vMulhiImm h f) :=
  of_i 70 .ni h f _ (by simp only [build, build1, cls_rt, min_rt, hdr_rt, i_rt, bit5_i, if_true]) rfl rfl rfl rfl rfl
theorem vMulw (h : Hdr) (f : NForm) : Statement (.vMulw h f) :=
  of_n 71 .ni h f _ (by simp only [build, build1, cls_rt, min_rt, hdr_rt, n_rt, bit5_n, Bool.false_eq_true, if_false]) rfl rfl rfl rfl rfl
theorem vMulwImm (h : Hdr) (f : IForm) : Statement (.vMulwImm h f) :=
  of_i 71 .ni h f _ (by simp only [build, build1, cls_rt, min_rt, hdr_rt, i_rt, bit5_i, if_true]) rfl rfl rfl rfl rfl
theorem vMad (h : Hdr) (f : NForm) : Statement (.vMad h f) :=
  of_n 72 .n h f _ (by simp only [build, build1, cls_rt, min_rt, hdr_rt, n_rt]) rfl rfl rfl rfl rfl
theorem vAbs (h : Hdr) (f : NForm) : Statement (.vAbs h f) :=
  of_n 73 .n h f _ (by simp only [build, build1, cls_rt, min_rt, hdr_rt, n_rt]) rfl rfl rfl rfl rfl
theorem vNeg (h : Hdr) (f : NForm) : Statement (.vNeg h f) :=
  of_n 74 .n h f _ (by simp only [build, build1, cls_rt, min_rt, hdr_rt, n_rt]) rfl rfl rfl rfl rfl
theorem vMin (h : Hdr) (f : NForm) : Statement (.vMin h f) :=
  of_n 75 .ni h f _ (by simp only [build, build1, cls_rt, min_rt, hdr_rt, n_rt, bit5_n, Bool.false_eq_true, if_false]) rfl rfl rfl rfl rfl
theorem vMinImm (h : Hdr) (f : IForm) : Statement (.vMinImm h f) :=
  of_i 75 .ni h f _ (by simp only [build, build1, cls_rt, min_rt, hdr_rt, i_rt, bit5_i, if_true]) rfl rfl rfl rfl rfl
theorem vMax (h : Hdr) (f : NForm) : Statement (.vMax h f) :=
  of_n 76 .ni h f _ (by simp only [build, build1, cls_rt, min_rt, hdr_rt, n_rt, bit5_n, Bool.false_eq_true, if_false]) rfl rfl rfl rfl rfl
theorem vMaxImm (h : Hdr) (f : IForm) : Statement (.vMaxImm h f) :=
  of_i 76 .ni h f _ (by simp only [build, build1, cls_rt, min_rt, hdr_rt, i_rt, bit5_i, if_true]) rfl rfl rfl rfl rfl
theorem vAnd (h : Hdr) (f : NForm) : Statement (.vAnd h f) :=
  of_n 77 .ni h f _ (by simp only [build, build1, cls_rt, min_rt, hdr_rt, n_rt, bit5_n, Bool.false_eq_true, if_false]) rfl rfl rfl rfl rfl
theorem vAndImm (h : Hdr) (f : IForm) : Statement (.vAndImm h f) :=
  of_i 77 .ni h f _ (by simp only [build, build1, cls_rt, min_rt, hdr_rt, i_rt, bit5_i, if_true]) rfl rfl rfl rfl rfl
theorem vOr (h : Hdr) (f : NForm) : Statement (.vOr h f) :=
  of_n 78 .ni h f _ (by simp only [build, build1, cls_rt, min_rt, hdr_rt, n_rt, bit5_n, Bool.false_eq_true, if_false]) rfl rfl rfl rfl rfl
theorem vOrImm (h : Hdr) (f : IForm) : Statement (.vOrImm h f) :=
  of_i 78 .ni h f _ (by simp only [build, build1, cls_rt, min_rt, hdr_rt, i_rt, bit5_i, if_true]) rfl rfl rfl rfl rfl
theorem vXor (h : Hdr) (f : NForm) : Statement (.vXor h f) :=
  of_n 79 .ni h f _ (by simp only [build, build1, cls_rt, min_rt, hdr_rt, n_rt, bit5_n, Bool.false_eq_true, if_false]) rfl rfl rfl rfl rfl
theorem vXorImm (h : Hdr) (f : IForm) : Statement (.vXorImm h f) :=
  of_i 79 .ni h f _ (by simp only [build, build1, cls_rt, min_rt, hdr_rt, i_rt, bit5_i, if_true]) rfl rfl rfl rfl rfl
theorem vAndn (h : Hdr) (f : NForm) : Statement (.vAndn h f) :=
  of_n 80 .ni h f _ (by simp only [build, build1, cls_rt, min_rt, hdr_rt, n_rt, bit5_n, Bool.false_eq_true, if_false]) rfl rfl rfl rfl rfl
theorem vAndnImm (h : Hdr) (f : IForm) : Statement (.vAndnImm h f) :=
  of_i 80 .ni h f _ (by simp only [build, build1, cls_rt, min_rt, hdr_rt, i_rt, bit5_i, if_true]) rfl rfl rfl rfl rfl
theorem vNot (h : Hdr) (f : NForm) : Statement (.vNot h f) :=
  of_n 81 .n h f _ (by simp only [build, build1, cls_rt, min_rt, hdr_rt, n_rt]) rfl rfl rfl rfl rfl
theorem vShl (h : Hdr) (f : NForm) : Statement (.vShl h f) :=
  of_n 82 .ni h f _ (by simp only [build, build1, cls_rt, min_rt, hdr_rt, n_rt, bit5_n, Bool.false_eq_true, if_false]) rfl rfl rfl rfl rfl
theorem vShlImm (h : Hdr) (f : IForm) : Statement (.vShlImm h f) :=
  of_i 82 .ni h f _ (by simp only [build, build1, cls_rt, min_rt, hdr_rt, i_rt, bit5_i, if_true]) rfl rfl rfl rfl rfl
theorem vShr (h : Hdr) (f : NForm) : Statement (.vShr h f) :=
  of_n 83 .ni h f _ (by simp only [build, build1, cls_rt, min_rt, hdr_rt, n_rt, bit5_n, Bool.false_eq_true, if_false]) rfl rfl rfl rfl rfl
theorem vShrImm (h : Hdr) (f : IForm) : Statement (.vShrImm h f) :=
  of_i 83 .ni h f _ (by simp only [build, build1, cls_rt, min_rt, hdr_rt, i_rt, bit5_i, if_true]) rfl rfl rfl rfl rfl
theorem vSar (h : Hdr) (f : NForm) : Statement (.vSar h f) :=
  of_n 84 .ni h f _ (by simp only [build, build1, cls_rt, min_rt, hdr_rt, n_rt, bit5_n, Bool.false_eq_true, if_false]) rfl rfl rfl rfl rfl
theorem vSarImm (h : Hdr) (f : IForm) : Statement (.vSarImm h f) :=
  of_i 84 .ni h f _ (by simp only [build, build1, cls_rt, min_rt, hdr_rt, i_rt, bit5_i, if_true]) rfl rfl rfl rfl rfl
theorem vRot (h : Hdr) (f : NForm) : Statement (.vRot h f) :=
  of_n 85 .ni h f _ (by simp only [build, build1, cls_rt, min_rt, hdr_rt, n_rt, bit5_n, Bool.false_eq_true, if_false]) rfl rfl rfl rfl rfl
theorem vRotImm (h : Hdr) (f : IForm) : Statement (.vRotImm h f) :=
  of_i 85 .ni h f _ (by simp only [build, build1, cls_rt, min_rt, hdr_rt, i_rt, bit5_i, if_true]) rfl rfl rfl rfl rfl
theorem vBfe (h : Hdr) (f : NForm) : Statement (.vBfe h f) :=
  of_n 86 .ni h f _ (by simp only [build, build1, cls_rt, min_rt, hdr_rt, n_rt, bit5_n, Bool.false_eq_true, if_false]) rfl rfl rfl rfl rfl
theorem vBfeImm (h : Hdr) (f : IForm) : Statement (.vBfeImm h f) :=
  of_i 86 .ni h f _ (by simp only [build, build1, cls_rt, min_rt, hdr_rt, i_rt, bit5_i, if_true]) rfl rfl rfl rfl rfl
theorem vBfi (h : Hdr) (f : NForm) : Statement (.vBfi h f) :=
  of_n 87 .n h f _ (by simp only [build, build1, cls_rt, min_rt, hdr_rt, n_rt]) rfl rfl rfl rfl rfl
theorem vPopc (h : Hdr) (f : NForm) : Statement (.vPopc h f) :=
  of_n 88 .n h f _ (by simp only [build, build1, cls_rt, min_rt, hdr_rt, n_rt]) rfl rfl rfl rfl rfl
theorem vClz (h : Hdr) (f : NForm) : Statement (.vClz h f) :=
  of_n 89 .n h f _ (by simp only [build, build1, cls_rt, min_rt, hdr_rt, n_rt]) rfl rfl rfl rfl rfl
theorem vCtz (h : Hdr) (f : NForm) : Statement (.vCtz h f) :=
  of_n 90 .n h f _ (by simp only [build, build1, cls_rt, min_rt, hdr_rt, n_rt]) rfl rfl rfl rfl rfl
theorem vBrev (h : Hdr) (f : NForm) : Statement (.vBrev h f) :=
  of_n 91 .n h f _ (by simp only [build, build1, cls_rt, min_rt, hdr_rt, n_rt]) rfl rfl rfl rfl rfl
theorem vMov (h : Hdr) (f : NForm) : Statement (.vMov h f) :=
  of_n 92 .n h f _ (by simp only [build, build1, cls_rt, min_rt, hdr_rt, n_rt]) rfl rfl rfl rfl rfl
theorem vLi (h : Hdr) (f : IForm) : Statement (.vLi h f) :=
  of_i 93 .i h f _ (by simp only [build, build1, cls_rt, min_rt, hdr_rt, i_rt]) rfl rfl rfl rfl rfl
theorem vSat (h : Hdr) (f : NForm) : Statement (.vSat h f) :=
  of_n 94 .n h f _ (by simp only [build, build1, cls_rt, min_rt, hdr_rt, n_rt]) rfl rfl rfl rfl rfl
theorem vDot4 (h : Hdr) (f : NForm) : Statement (.vDot4 h f) :=
  of_n 95 .n h f _ (by simp only [build, build1, cls_rt, min_rt, hdr_rt, n_rt]) rfl rfl rfl rfl rfl
theorem vDot2 (h : Hdr) (f : NForm) : Statement (.vDot2 h f) :=
  of_n 96 .n h f _ (by simp only [build, build1, cls_rt, min_rt, hdr_rt, n_rt]) rfl rfl rfl rfl rfl
theorem vSad (h : Hdr) (f : NForm) : Statement (.vSad h f) :=
  of_n 97 .n h f _ (by simp only [build, build1, cls_rt, min_rt, hdr_rt, n_rt]) rfl rfl rfl rfl rfl
theorem vDiv (h : Hdr) (f : NForm) : Statement (.vDiv h f) :=
  of_n 98 .ni h f _ (by simp only [build, build1, cls_rt, min_rt, hdr_rt, n_rt, bit5_n, Bool.false_eq_true, if_false]) rfl rfl rfl rfl rfl
theorem vDivImm (h : Hdr) (f : IForm) : Statement (.vDivImm h f) :=
  of_i 98 .ni h f _ (by simp only [build, build1, cls_rt, min_rt, hdr_rt, i_rt, bit5_i, if_true]) rfl rfl rfl rfl rfl
theorem vRem (h : Hdr) (f : NForm) : Statement (.vRem h f) :=
  of_n 99 .ni h f _ (by simp only [build, build1, cls_rt, min_rt, hdr_rt, n_rt, bit5_n, Bool.false_eq_true, if_false]) rfl rfl rfl rfl rfl
theorem vRemImm (h : Hdr) (f : IForm) : Statement (.vRemImm h f) :=
  of_i 99 .ni h f _ (by simp only [build, build1, cls_rt, min_rt, hdr_rt, i_rt, bit5_i, if_true]) rfl rfl rfl rfl rfl
theorem vCmp (h : Hdr) (f : NForm) : Statement (.vCmp h f) :=
  of_n 129 .ni h f _ (by simp only [build, build2, cls_rt, min_rt, hdr_rt, n_rt, bit5_n, Bool.false_eq_true, if_false]) rfl rfl rfl rfl rfl
theorem vCmpImm (h : Hdr) (f : IForm) : Statement (.vCmpImm h f) :=
  of_i 129 .ni h f _ (by simp only [build, build2, cls_rt, min_rt, hdr_rt, i_rt, bit5_i, if_true]) rfl rfl rfl rfl rfl
theorem vFcmp (h : Hdr) (f : NForm) : Statement (.vFcmp h f) :=
  of_n 130 .ni h f _ (by simp only [build, build2, cls_rt, min_rt, hdr_rt, n_rt, bit5_n, Bool.false_eq_true, if_false]) rfl rfl rfl rfl rfl
theorem vFcmpImm (h : Hdr) (f : IForm) : Statement (.vFcmpImm h f) :=
  of_i 130 .ni h f _ (by simp only [build, build2, cls_rt, min_rt, hdr_rt, i_rt, bit5_i, if_true]) rfl rfl rfl rfl rfl
theorem pAnd (h : Hdr) (f : NForm) : Statement (.pAnd h f) :=
  of_n 131 .n h f _ (by simp only [build, build2, cls_rt, min_rt, hdr_rt, n_rt]) rfl rfl rfl rfl rfl
theorem pOr (h : Hdr) (f : NForm) : Statement (.pOr h f) :=
  of_n 132 .n h f _ (by simp only [build, build2, cls_rt, min_rt, hdr_rt, n_rt]) rfl rfl rfl rfl rfl
theorem pXor (h : Hdr) (f : NForm) : Statement (.pXor h f) :=
  of_n 133 .n h f _ (by simp only [build, build2, cls_rt, min_rt, hdr_rt, n_rt]) rfl rfl rfl rfl rfl
theorem pNot (h : Hdr) (f : NForm) : Statement (.pNot h f) :=
  of_n 134 .n h f _ (by simp only [build, build2, cls_rt, min_rt, hdr_rt, n_rt]) rfl rfl rfl rfl rfl
theorem pMov (h : Hdr) (f : NForm) : Statement (.pMov h f) :=
  of_n 135 .n h f _ (by simp only [build, build2, cls_rt, min_rt, hdr_rt, n_rt]) rfl rfl rfl rfl rfl
theorem vSel (h : Hdr) (f : NForm) : Statement (.vSel h f) :=
  of_n 136 .n h f _ (by simp only [build, build2, cls_rt, min_rt, hdr_rt, n_rt]) rfl rfl rfl rfl rfl
theorem pTovec (h : Hdr) (f : NForm) : Statement (.pTovec h f) :=
  of_n 137 .n h f _ (by simp only [build, build2, cls_rt, min_rt, hdr_rt, n_rt]) rfl rfl rfl rfl rfl
theorem pFromvec (h : Hdr) (f : NForm) : Statement (.pFromvec h f) :=
  of_n 138 .n h f _ (by simp only [build, build2, cls_rt, min_rt, hdr_rt, n_rt]) rfl rfl rfl rfl rfl
theorem pPopc (h : Hdr) (f : NForm) : Statement (.pPopc h f) :=
  of_n 139 .n h f _ (by simp only [build, build2, cls_rt, min_rt, hdr_rt, n_rt]) rfl rfl rfl rfl rfl
theorem pFirst (h : Hdr) (f : NForm) : Statement (.pFirst h f) :=
  of_n 140 .n h f _ (by simp only [build, build2, cls_rt, min_rt, hdr_rt, n_rt]) rfl rfl rfl rfl rfl
theorem vFadd (h : Hdr) (f : NForm) : Statement (.vFadd h f) :=
  of_n 193 .ni h f _ (by simp only [build, build3, cls_rt, min_rt, hdr_rt, n_rt, bit5_n, Bool.false_eq_true, if_false]) rfl rfl rfl rfl rfl
theorem vFaddImm (h : Hdr) (f : IForm) : Statement (.vFaddImm h f) :=
  of_i 193 .ni h f _ (by simp only [build, build3, cls_rt, min_rt, hdr_rt, i_rt, bit5_i, if_true]) rfl rfl rfl rfl rfl
theorem vFsub (h : Hdr) (f : NForm) : Statement (.vFsub h f) :=
  of_n 194 .ni h f _ (by simp only [build, build3, cls_rt, min_rt, hdr_rt, n_rt, bit5_n, Bool.false_eq_true, if_false]) rfl rfl rfl rfl rfl
theorem vFsubImm (h : Hdr) (f : IForm) : Statement (.vFsubImm h f) :=
  of_i 194 .ni h f _ (by simp only [build, build3, cls_rt, min_rt, hdr_rt, i_rt, bit5_i, if_true]) rfl rfl rfl rfl rfl
theorem vFmul (h : Hdr) (f : NForm) : Statement (.vFmul h f) :=
  of_n 195 .ni h f _ (by simp only [build, build3, cls_rt, min_rt, hdr_rt, n_rt, bit5_n, Bool.false_eq_true, if_false]) rfl rfl rfl rfl rfl
theorem vFmulImm (h : Hdr) (f : IForm) : Statement (.vFmulImm h f) :=
  of_i 195 .ni h f _ (by simp only [build, build3, cls_rt, min_rt, hdr_rt, i_rt, bit5_i, if_true]) rfl rfl rfl rfl rfl
theorem vFma (h : Hdr) (f : NForm) : Statement (.vFma h f) :=
  of_n 196 .n h f _ (by simp only [build, build3, cls_rt, min_rt, hdr_rt, n_rt]) rfl rfl rfl rfl rfl
theorem vFmin (h : Hdr) (f : NForm) : Statement (.vFmin h f) :=
  of_n 197 .ni h f _ (by simp only [build, build3, cls_rt, min_rt, hdr_rt, n_rt, bit5_n, Bool.false_eq_true, if_false]) rfl rfl rfl rfl rfl
theorem vFminImm (h : Hdr) (f : IForm) : Statement (.vFminImm h f) :=
  of_i 197 .ni h f _ (by simp only [build, build3, cls_rt, min_rt, hdr_rt, i_rt, bit5_i, if_true]) rfl rfl rfl rfl rfl
theorem vFmax (h : Hdr) (f : NForm) : Statement (.vFmax h f) :=
  of_n 198 .ni h f _ (by simp only [build, build3, cls_rt, min_rt, hdr_rt, n_rt, bit5_n, Bool.false_eq_true, if_false]) rfl rfl rfl rfl rfl
theorem vFmaxImm (h : Hdr) (f : IForm) : Statement (.vFmaxImm h f) :=
  of_i 198 .ni h f _ (by simp only [build, build3, cls_rt, min_rt, hdr_rt, i_rt, bit5_i, if_true]) rfl rfl rfl rfl rfl
theorem vFrcp (h : Hdr) (f : NForm) : Statement (.vFrcp h f) :=
  of_n 199 .n h f _ (by simp only [build, build3, cls_rt, min_rt, hdr_rt, n_rt]) rfl rfl rfl rfl rfl
theorem vFrsq (h : Hdr) (f : NForm) : Statement (.vFrsq h f) :=
  of_n 200 .n h f _ (by simp only [build, build3, cls_rt, min_rt, hdr_rt, n_rt]) rfl rfl rfl rfl rfl
theorem vFsqrt (h : Hdr) (f : NForm) : Statement (.vFsqrt h f) :=
  of_n 201 .n h f _ (by simp only [build, build3, cls_rt, min_rt, hdr_rt, n_rt]) rfl rfl rfl rfl rfl
theorem vFdiv (h : Hdr) (f : NForm) : Statement (.vFdiv h f) :=
  of_n 202 .ni h f _ (by simp only [build, build3, cls_rt, min_rt, hdr_rt, n_rt, bit5_n, Bool.false_eq_true, if_false]) rfl rfl rfl rfl rfl
theorem vFdivImm (h : Hdr) (f : IForm) : Statement (.vFdivImm h f) :=
  of_i 202 .ni h f _ (by simp only [build, build3, cls_rt, min_rt, hdr_rt, i_rt, bit5_i, if_true]) rfl rfl rfl rfl rfl
theorem vFexp2 (h : Hdr) (f : NForm) : Statement (.vFexp2 h f) :=
  of_n 203 .n h f _ (by simp only [build, build3, cls_rt, min_rt, hdr_rt, n_rt]) rfl rfl rfl rfl rfl
theorem vFlog2 (h : Hdr) (f : NForm) : Statement (.vFlog2 h f) :=
  of_n 204 .n h f _ (by simp only [build, build3, cls_rt, min_rt, hdr_rt, n_rt]) rfl rfl rfl rfl rfl
theorem vFsin (h : Hdr) (f : NForm) : Statement (.vFsin h f) :=
  of_n 205 .n h f _ (by simp only [build, build3, cls_rt, min_rt, hdr_rt, n_rt]) rfl rfl rfl rfl rfl
theorem vFcos (h : Hdr) (f : NForm) : Statement (.vFcos h f) :=
  of_n 206 .n h f _ (by simp only [build, build3, cls_rt, min_rt, hdr_rt, n_rt]) rfl rfl rfl rfl rfl
theorem vFfloor (h : Hdr) (f : NForm) : Statement (.vFfloor h f) :=
  of_n 207 .n h f _ (by simp only [build, build3, cls_rt, min_rt, hdr_rt, n_rt]) rfl rfl rfl rfl rfl
theorem vFround (h : Hdr) (f : NForm) : Statement (.vFround h f) :=
  of_n 208 .n h f _ (by simp only [build, build3, cls_rt, min_rt, hdr_rt, n_rt]) rfl rfl rfl rfl rfl
theorem vFclass (h : Hdr) (f : NForm) : Statement (.vFclass h f) :=
  of_n 209 .n h f _ (by simp only [build, build3, cls_rt, min_rt, hdr_rt, n_rt]) rfl rfl rfl rfl rfl
theorem vFscale (h : Hdr) (f : NForm) : Statement (.vFscale h f) :=
  of_n 210 .ni h f _ (by simp only [build, build3, cls_rt, min_rt, hdr_rt, n_rt, bit5_n, Bool.false_eq_true, if_false]) rfl rfl rfl rfl rfl
theorem vFscaleImm (h : Hdr) (f : IForm) : Statement (.vFscaleImm h f) :=
  of_i 210 .ni h f _ (by simp only [build, build3, cls_rt, min_rt, hdr_rt, i_rt, bit5_i, if_true]) rfl rfl rfl rfl rfl
theorem vFgetexp (h : Hdr) (f : NForm) : Statement (.vFgetexp h f) :=
  of_n 211 .n h f _ (by simp only [build, build3, cls_rt, min_rt, hdr_rt, n_rt]) rfl rfl rfl rfl rfl
theorem vFdot2 (h : Hdr) (f : NForm) : Statement (.vFdot2 h f) :=
  of_n 212 .n h f _ (by simp only [build, build3, cls_rt, min_rt, hdr_rt, n_rt]) rfl rfl rfl rfl rfl
theorem vCvt (h : Hdr) (f : NForm) : Statement (.vCvt h f) :=
  of_n 257 .n h f _ (by simp only [build, build4, cls_rt, min_rt, hdr_rt, n_rt]) rfl rfl rfl rfl rfl
theorem vPack (h : Hdr) (f : NForm) : Statement (.vPack h f) :=
  of_n 258 .n h f _ (by simp only [build, build4, cls_rt, min_rt, hdr_rt, n_rt]) rfl rfl rfl rfl rfl
theorem vUnpack (h : Hdr) (f : NForm) : Statement (.vUnpack h f) :=
  of_n 259 .n h f _ (by simp only [build, build4, cls_rt, min_rt, hdr_rt, n_rt]) rfl rfl rfl rfl rfl
theorem vScl (h : Hdr) (f : NForm) : Statement (.vScl h f) :=
  of_n 260 .n h f _ (by simp only [build, build4, cls_rt, min_rt, hdr_rt, n_rt]) rfl rfl rfl rfl rfl
theorem vQnt (h : Hdr) (f : NForm) : Statement (.vQnt h f) :=
  of_n 261 .n h f _ (by simp only [build, build4, cls_rt, min_rt, hdr_rt, n_rt]) rfl rfl rfl rfl rfl
theorem vDqnt (h : Hdr) (f : NForm) : Statement (.vDqnt h f) :=
  of_n 262 .n h f _ (by simp only [build, build4, cls_rt, min_rt, hdr_rt, n_rt]) rfl rfl rfl rfl rfl
theorem vRngSeed (h : Hdr) (f : NForm) : Statement (.vRngSeed h f) := of_op 263 0 .n h f _ rfl (fun st hc => by simpa using plain_op hc) (fun ho => by simp only [build, build4, cls_rt, min_rt, hdr_rt, n_rt, op_n_rt, ho]; rfl) rfl rfl rfl rfl
theorem vRngGets (h : Hdr) (f : NForm) : Statement (.vRngGets h f) := of_op 263 1 .n h f _ rfl (fun st hc => by simpa using plain_op hc) (fun ho => by simp only [build, build4, cls_rt, min_rt, hdr_rt, n_rt, op_n_rt, ho]; rfl) rfl rfl rfl rfl
theorem vRngGetc (h : Hdr) (f : NForm) : Statement (.vRngGetc h f) := of_op 263 2 .n h f _ rfl (fun st hc => by simpa using plain_op hc) (fun ho => by simp only [build, build4, cls_rt, min_rt, hdr_rt, n_rt, op_n_rt, ho]; rfl) rfl rfl rfl rfl
theorem vRngDraw (h : Hdr) (f : NForm) : Statement (.vRngDraw h f) := of_op 263 3 .n h f _ rfl (fun st hc => by simpa using plain_op hc) (fun ho => by simp only [build, build4, cls_rt, min_rt, hdr_rt, n_rt, op_n_rt, ho]; rfl) rfl rfl rfl rfl
theorem vShfl (h : Hdr) (f : NForm) : Statement (.vShfl h f) :=
  of_n 321 .n h f _ (by simp only [build, build5, cls_rt, min_rt, hdr_rt, n_rt]) rfl rfl rfl rfl rfl
theorem vBcast (h : Hdr) (f : NForm) : Statement (.vBcast h f) :=
  of_n 322 .n h f _ (by simp only [build, build5, cls_rt, min_rt, hdr_rt, n_rt]) rfl rfl rfl rfl rfl
theorem vVoteAny (h : Hdr) (f : NForm) : Statement (.vVoteAny h f) := of_op 323 0 .n h f _ rfl (fun st hc => by have := extra_n hc; simpa [sub_nil] using this) (fun ho => by simp only [build, build5, cls_rt, min_rt, hdr_rt, n_rt, op_n_rt, ho]; rfl) rfl rfl rfl rfl
theorem vVoteAll (h : Hdr) (f : NForm) : Statement (.vVoteAll h f) := of_op 323 1 .n h f _ rfl (fun st hc => by have := extra_n hc; simpa [sub_nil] using this) (fun ho => by simp only [build, build5, cls_rt, min_rt, hdr_rt, n_rt, op_n_rt, ho]; rfl) rfl rfl rfl rfl
theorem vVoteUni (h : Hdr) (f : NForm) : Statement (.vVoteUni h f) := of_op 323 2 .n h f _ rfl (fun st hc => by have := extra_n hc; simpa [sub_nil] using this) (fun ho => by simp only [build, build5, cls_rt, min_rt, hdr_rt, n_rt, op_n_rt, ho]; rfl) rfl rfl rfl rfl
theorem vVoteBallot (h : Hdr) (f : NForm) : Statement (.vVoteBallot h f) := of_op 323 3 .n h f _ rfl (fun st hc => by have := extra_n hc; simpa [sub_nil] using this) (fun ho => by simp only [build, build5, cls_rt, min_rt, hdr_rt, n_rt, op_n_rt, ho]; rfl) rfl rfl rfl rfl
theorem vMatch (h : Hdr) (f : NForm) : Statement (.vMatch h f) :=
  of_n 324 .n h f _ (by simp only [build, build5, cls_rt, min_rt, hdr_rt, n_rt]) rfl rfl rfl rfl rfl
theorem vScan (h : Hdr) (f : NForm) : Statement (.vScan h f) :=
  of_n 325 .n h f _ (by simp only [build, build5, cls_rt, min_rt, hdr_rt, n_rt]) rfl rfl rfl rfl rfl
theorem vRed (h : Hdr) (f : NForm) : Statement (.vRed h f) :=
  of_n 326 .n h f _ (by simp only [build, build5, cls_rt, min_rt, hdr_rt, n_rt]) rfl rfl rfl rfl rfl
theorem vCompact (h : Hdr) (f : NForm) : Statement (.vCompact h f) :=
  of_n 327 .n h f _ (by simp only [build, build5, cls_rt, min_rt, hdr_rt, n_rt]) rfl rfl rfl rfl rfl
theorem vExpand (h : Hdr) (f : NForm) : Statement (.vExpand h f) :=
  of_n 328 .n h f _ (by simp only [build, build5, cls_rt, min_rt, hdr_rt, n_rt]) rfl rfl rfl rfl rfl
theorem vRank (h : Hdr) (f : NForm) : Statement (.vRank h f) :=
  of_n 329 .n h f _ (by simp only [build, build5, cls_rt, min_rt, hdr_rt, n_rt]) rfl rfl rfl rfl rfl
theorem vCrc (h : Hdr) (f : NForm) : Statement (.vCrc h f) :=
  of_n 385 .n h f _ (by simp only [build, build6, cls_rt, min_rt, hdr_rt, n_rt]) rfl rfl rfl rfl rfl
theorem vMix (h : Hdr) (f : NForm) : Statement (.vMix h f) :=
  of_n 386 .n h f _ (by simp only [build, build6, cls_rt, min_rt, hdr_rt, n_rt]) rfl rfl rfl rfl rfl
theorem vHmul (h : Hdr) (f : NForm) : Statement (.vHmul h f) :=
  of_n 387 .ni h f _ (by simp only [build, build6, cls_rt, min_rt, hdr_rt, n_rt, bit5_n, Bool.false_eq_true, if_false]) rfl rfl rfl rfl rfl
theorem vHmulImm (h : Hdr) (f : IForm) : Statement (.vHmulImm h f) :=
  of_i 387 .ni h f _ (by simp only [build, build6, cls_rt, min_rt, hdr_rt, i_rt, bit5_i, if_true]) rfl rfl rfl rfl rfl
theorem vPart (h : Hdr) (f : NForm) : Statement (.vPart h f) :=
  of_n 388 .n h f _ (by simp only [build, build6, cls_rt, min_rt, hdr_rt, n_rt]) rfl rfl rfl rfl rfl
theorem vBkt (h : Hdr) (f : NForm) : Statement (.vBkt h f) :=
  of_n 389 .n h f _ (by simp only [build, build6, cls_rt, min_rt, hdr_rt, n_rt]) rfl rfl rfl rfl rfl
theorem vSld (h : Hdr) (f : MForm) : Statement (.vSld h f) :=
  of_m 390 .m h f _ (by simp only [build, build6, cls_rt, min_rt, hdr_rt, m_rt]) rfl rfl rfl rfl rfl
theorem vScmp (h : Hdr) (f : NForm) : Statement (.vScmp h f) :=
  of_n 391 .n h f _ (by simp only [build, build6, cls_rt, min_rt, hdr_rt, n_rt]) rfl rfl rfl rfl rfl
theorem vBfind (h : Hdr) (f : NForm) : Statement (.vBfind h f) :=
  of_n 392 .ni h f _ (by simp only [build, build6, cls_rt, min_rt, hdr_rt, n_rt, bit5_n, Bool.false_eq_true, if_false]) rfl rfl rfl rfl rfl
theorem vBfindImm (h : Hdr) (f : IForm) : Statement (.vBfindImm h f) :=
  of_i 392 .ni h f _ (by simp only [build, build6, cls_rt, min_rt, hdr_rt, i_rt, bit5_i, if_true]) rfl rfl rfl rfl rfl
theorem vBmask (h : Hdr) (f : NForm) : Statement (.vBmask h f) :=
  of_n 393 .n h f _ (by simp only [build, build6, cls_rt, min_rt, hdr_rt, n_rt]) rfl rfl rfl rfl rfl
theorem vUlen (h : Hdr) (f : NForm) : Statement (.vUlen h f) :=
  of_n 394 .n h f _ (by simp only [build, build6, cls_rt, min_rt, hdr_rt, n_rt]) rfl rfl rfl rfl rfl
theorem vFold (h : Hdr) (f : NForm) : Statement (.vFold h f) :=
  of_n 395 .n h f _ (by simp only [build, build6, cls_rt, min_rt, hdr_rt, n_rt]) rfl rfl rfl rfl rfl
theorem bra (h : Hdr) (f : BForm) : Statement (.bra h f) :=
  of_b 449 .b h f _ (by simp only [build, build7, cls_rt, min_rt, hdr_rt, b_rt]) rfl rfl rfl rfl rfl
theorem jmp (h : Hdr) (f : BForm) : Statement (.jmp h f) :=
  of_b 450 .b h f _ (by simp only [build, build7, cls_rt, min_rt, hdr_rt, b_rt]) rfl rfl rfl rfl rfl
theorem brx (h : Hdr) (f : BForm) : Statement (.brx h f) :=
  of_b 451 .b h f _ (by simp only [build, build7, cls_rt, min_rt, hdr_rt, b_rt]) rfl rfl rfl rfl rfl
theorem call (h : Hdr) (f : BForm) : Statement (.call h f) :=
  of_b 452 .b h f _ (by simp only [build, build7, cls_rt, min_rt, hdr_rt, b_rt]) rfl rfl rfl rfl rfl
theorem ret (h : Hdr) (f : BForm) : Statement (.ret h f) :=
  of_b 453 .b h f _ (by simp only [build, build7, cls_rt, min_rt, hdr_rt, b_rt]) rfl rfl rfl rfl rfl
theorem join (h : Hdr) (f : BForm) : Statement (.join h f) :=
  of_b 454 .b h f _ (by simp only [build, build7, cls_rt, min_rt, hdr_rt, b_rt]) rfl rfl rfl rfl rfl
theorem exit (h : Hdr) (f : NForm) : Statement (.exit h f) :=
  of_n 455 .n h f _ (by simp only [build, build7, cls_rt, min_rt, hdr_rt, n_rt]) rfl rfl rfl rfl rfl
theorem yield (h : Hdr) (f : NForm) : Statement (.yield h f) :=
  of_n 456 .n h f _ (by simp only [build, build7, cls_rt, min_rt, hdr_rt, n_rt]) rfl rfl rfl rfl rfl
theorem bar (h : Hdr) (f : IForm) : Statement (.bar h f) :=
  of_i 457 .i h f _ (by simp only [build, build7, cls_rt, min_rt, hdr_rt, i_rt]) rfl rfl rfl rfl rfl
theorem barArv (h : Hdr) (f : IForm) : Statement (.barArv h f) :=
  of_i 458 .i h f _ (by simp only [build, build7, cls_rt, min_rt, hdr_rt, i_rt]) rfl rfl rfl rfl rfl
theorem barWt (h : Hdr) (f : IForm) : Statement (.barWt h f) :=
  of_i 459 .i h f _ (by simp only [build, build7, cls_rt, min_rt, hdr_rt, i_rt]) rfl rfl rfl rfl rfl
theorem nop (h : Hdr) (f : NForm) : Statement (.nop h f) :=
  of_n 460 .n h f _ (by simp only [build, build7, cls_rt, min_rt, hdr_rt, n_rt]) rfl rfl rfl rfl rfl
theorem trap (h : Hdr) (f : IForm) : Statement (.trap h f) :=
  of_i 461 .i h f _ (by simp only [build, build7, cls_rt, min_rt, hdr_rt, i_rt]) rfl rfl rfl rfl rfl
theorem brk (h : Hdr) (f : IForm) : Statement (.brk h f) :=
  of_i 462 .i h f _ (by simp only [build, build7, cls_rt, min_rt, hdr_rt, i_rt]) rfl rfl rfl rfl rfl
theorem waitcnt (h : Hdr) (f : IForm) : Statement (.waitcnt h f) :=
  of_i 463 .i h f _ (by simp only [build, build7, cls_rt, min_rt, hdr_rt, i_rt]) rfl rfl rfl rfl rfl
theorem sleep (h : Hdr) (f : IForm) : Statement (.sleep h f) :=
  of_i 464 .i h f _ (by simp only [build, build7, cls_rt, min_rt, hdr_rt, i_rt]) rfl rfl rfl rfl rfl
theorem launch (h : Hdr) (f : NForm) : Statement (.launch h f) :=
  of_n 465 .n h f _ (by simp only [build, build7, cls_rt, min_rt, hdr_rt, n_rt]) rfl rfl rfl rfl rfl
theorem leaseFp (h : Hdr) (f : IForm) : Statement (.leaseFp h f) :=
  of_i 466 .i h f _ (by simp only [build, build7, cls_rt, min_rt, hdr_rt, i_rt]) rfl rfl rfl rfl rfl
theorem vLd (h : Hdr) (f : MForm) : Statement (.vLd h f) :=
  of_m 513 .m h f _ (by simp only [build, build8, cls_rt, min_rt, hdr_rt, m_rt]) rfl rfl rfl rfl rfl
theorem vSt (h : Hdr) (f : MForm) : Statement (.vSt h f) :=
  of_m 514 .m h f _ (by simp only [build, build8, cls_rt, min_rt, hdr_rt, m_rt]) rfl rfl rfl rfl rfl
theorem vLdg (h : Hdr) (f : MForm) : Statement (.vLdg h f) :=
  of_m 515 .m h f _ (by simp only [build, build8, cls_rt, min_rt, hdr_rt, m_rt]) rfl rfl rfl rfl rfl
theorem vStg (h : Hdr) (f : MForm) : Statement (.vStg h f) :=
  of_m 516 .m h f _ (by simp only [build, build8, cls_rt, min_rt, hdr_rt, m_rt]) rfl rfl rfl rfl rfl
theorem vLds (h : Hdr) (f : MForm) : Statement (.vLds h f) :=
  of_m 517 .m h f _ (by simp only [build, build8, cls_rt, min_rt, hdr_rt, m_rt]) rfl rfl rfl rfl rfl
theorem vSts (h : Hdr) (f : MForm) : Statement (.vSts h f) :=
  of_m 518 .m h f _ (by simp only [build, build8, cls_rt, min_rt, hdr_rt, m_rt]) rfl rfl rfl rfl rfl
theorem vLdsw (h : Hdr) (f : MForm) : Statement (.vLdsw h f) :=
  of_m 519 .m h f _ (by simp only [build, build8, cls_rt, min_rt, hdr_rt, m_rt]) rfl rfl rfl rfl rfl
theorem vStsw (h : Hdr) (f : MForm) : Statement (.vStsw h f) :=
  of_m 520 .m h f _ (by simp only [build, build8, cls_rt, min_rt, hdr_rt, m_rt]) rfl rfl rfl rfl rfl
theorem vLdc (h : Hdr) (f : MForm) : Statement (.vLdc h f) :=
  of_m 521 .m h f _ (by simp only [build, build8, cls_rt, min_rt, hdr_rt, m_rt]) rfl rfl rfl rfl rfl
theorem vPf (h : Hdr) (f : MForm) : Statement (.vPf h f) :=
  of_m 522 .m h f _ (by simp only [build, build8, cls_rt, min_rt, hdr_rt, m_rt]) rfl rfl rfl rfl rfl
theorem vFifoPush (h : Hdr) (f : NForm) : Statement (.vFifoPush h f) :=
  of_n 523 .n h f _ (by simp only [build, build8, cls_rt, min_rt, hdr_rt, n_rt]) rfl rfl rfl rfl rfl
theorem vFifoPop (h : Hdr) (f : NForm) : Statement (.vFifoPop h f) :=
  of_n 524 .n h f _ (by simp only [build, build8, cls_rt, min_rt, hdr_rt, n_rt]) rfl rfl rfl rfl rfl
theorem aAdd (h : Hdr) (f : MForm) : Statement (.aAdd h f) :=
  of_m 577 .m h f _ (by simp only [build, build9, cls_rt, min_rt, hdr_rt, m_rt]) rfl rfl rfl rfl rfl
theorem aMin (h : Hdr) (f : MForm) : Statement (.aMin h f) :=
  of_m 578 .m h f _ (by simp only [build, build9, cls_rt, min_rt, hdr_rt, m_rt]) rfl rfl rfl rfl rfl
theorem aMax (h : Hdr) (f : MForm) : Statement (.aMax h f) :=
  of_m 579 .m h f _ (by simp only [build, build9, cls_rt, min_rt, hdr_rt, m_rt]) rfl rfl rfl rfl rfl
theorem aAnd (h : Hdr) (f : MForm) : Statement (.aAnd h f) :=
  of_m 580 .m h f _ (by simp only [build, build9, cls_rt, min_rt, hdr_rt, m_rt]) rfl rfl rfl rfl rfl
theorem aOr (h : Hdr) (f : MForm) : Statement (.aOr h f) :=
  of_m 581 .m h f _ (by simp only [build, build9, cls_rt, min_rt, hdr_rt, m_rt]) rfl rfl rfl rfl rfl
theorem aXor (h : Hdr) (f : MForm) : Statement (.aXor h f) :=
  of_m 582 .m h f _ (by simp only [build, build9, cls_rt, min_rt, hdr_rt, m_rt]) rfl rfl rfl rfl rfl
theorem aXchg (h : Hdr) (f : MForm) : Statement (.aXchg h f) :=
  of_m 583 .m h f _ (by simp only [build, build9, cls_rt, min_rt, hdr_rt, m_rt]) rfl rfl rfl rfl rfl
theorem aCas (h : Hdr) (f : MForm) : Statement (.aCas h f) :=
  of_m 584 .m h f _ (by simp only [build, build9, cls_rt, min_rt, hdr_rt, m_rt]) rfl rfl rfl rfl rfl
theorem aInc (h : Hdr) (f : MForm) : Statement (.aInc h f) :=
  of_m 585 .m h f _ (by simp only [build, build9, cls_rt, min_rt, hdr_rt, m_rt]) rfl rfl rfl rfl rfl
theorem aFadd (h : Hdr) (f : MForm) : Statement (.aFadd h f) :=
  of_m 586 .m h f _ (by simp only [build, build9, cls_rt, min_rt, hdr_rt, m_rt]) rfl rfl rfl rfl rfl
theorem aFmin (h : Hdr) (f : MForm) : Statement (.aFmin h f) :=
  of_m 587 .m h f _ (by simp only [build, build9, cls_rt, min_rt, hdr_rt, m_rt]) rfl rfl rfl rfl rfl
theorem aFmax (h : Hdr) (f : MForm) : Statement (.aFmax h f) :=
  of_m 588 .m h f _ (by simp only [build, build9, cls_rt, min_rt, hdr_rt, m_rt]) rfl rfl rfl rfl rfl
theorem redAdd (h : Hdr) (f : MForm) : Statement (.redAdd h f) :=
  of_m 589 .m h f _ (by simp only [build, build9, cls_rt, min_rt, hdr_rt, m_rt]) rfl rfl rfl rfl rfl
theorem redFadd (h : Hdr) (f : MForm) : Statement (.redFadd h f) :=
  of_m 590 .m h f _ (by simp only [build, build9, cls_rt, min_rt, hdr_rt, m_rt]) rfl rfl rfl rfl rfl
theorem redDet (h : Hdr) (f : MForm) : Statement (.redDet h f) :=
  of_m 591 .m h f _ (by simp only [build, build9, cls_rt, min_rt, hdr_rt, m_rt]) rfl rfl rfl rfl rfl
theorem redFlushDrain (h : Hdr) (f : NForm) : Statement (.redFlushDrain h f) := of_op 592 0 .n h f _ rfl (fun st hc => by simpa using plain_op hc) (fun ho => by simp only [build, build9, cls_rt, min_rt, hdr_rt, n_rt, op_n_rt, ho]; rfl) rfl rfl rfl rfl
theorem redFlushCommit (h : Hdr) (f : NForm) : Statement (.redFlushCommit h f) := of_op 592 1 .n h f _ rfl (fun st hc => by simpa using plain_op hc) (fun ho => by simp only [build, build9, cls_rt, min_rt, hdr_rt, n_rt, op_n_rt, ho]; rfl) rfl rfl rfl rfl
theorem leaseAcq (h : Hdr) (f : MForm) : Statement (.leaseAcq h f) :=
  of_m 593 .m h f _ (by simp only [build, build9, cls_rt, min_rt, hdr_rt, m_rt]) rfl rfl rfl rfl rfl
theorem leaseRel (h : Hdr) (f : MForm) : Statement (.leaseRel h f) :=
  of_m 594 .m h f _ (by simp only [build, build9, cls_rt, min_rt, hdr_rt, m_rt]) rfl rfl rfl rfl rfl
theorem waitAddr (h : Hdr) (f : MForm) : Statement (.waitAddr h f) :=
  of_m 595 .m h f _ (by simp only [build, build9, cls_rt, min_rt, hdr_rt, m_rt]) rfl rfl rfl rfl rfl
theorem fence (h : Hdr) (f : MForm) : Statement (.fence h f) :=
  of_m 641 .m h f _ (by simp only [build, buildA, cls_rt, min_rt, hdr_rt, m_rt]) rfl rfl rfl rfl rfl
theorem fenceCode (h : Hdr) (f : MForm) : Statement (.fenceCode h f) :=
  of_m 642 .m h f _ (by simp only [build, buildA, cls_rt, min_rt, hdr_rt, m_rt]) rfl rfl rfl rfl rfl
theorem fenceEng (h : Hdr) (f : MForm) : Statement (.fenceEng h f) :=
  of_m 643 .m h f _ (by simp only [build, buildA, cls_rt, min_rt, hdr_rt, m_rt]) rfl rfl rfl rfl rfl
theorem bankCfg (h : Hdr) (f : NForm) : Statement (.bankCfg h f) :=
  of_n 644 .ni h f _ (by simp only [build, buildA, cls_rt, min_rt, hdr_rt, n_rt, bit5_n, Bool.false_eq_true, if_false]) rfl rfl rfl rfl rfl
theorem bankCfgImm (h : Hdr) (f : IForm) : Statement (.bankCfgImm h f) :=
  of_i 644 .ni h f _ (by simp only [build, buildA, cls_rt, min_rt, hdr_rt, i_rt, bit5_i, if_true]) rfl rfl rfl rfl rfl
theorem bankQry (h : Hdr) (f : NForm) : Statement (.bankQry h f) :=
  of_n 645 .n h f _ (by simp only [build, buildA, cls_rt, min_rt, hdr_rt, n_rt]) rfl rfl rfl rfl rfl
theorem shareJoin (h : Hdr) (f : NForm) : Statement (.shareJoin h f) :=
  of_n 646 .n h f _ (by simp only [build, buildA, cls_rt, min_rt, hdr_rt, n_rt]) rfl rfl rfl rfl rfl
theorem shareLeave (h : Hdr) (f : NForm) : Statement (.shareLeave h f) :=
  of_n 647 .n h f _ (by simp only [build, buildA, cls_rt, min_rt, hdr_rt, n_rt]) rfl rfl rfl rfl rfl
theorem spMap (h : Hdr) (f : NForm) : Statement (.spMap h f) :=
  of_n 648 .n h f _ (by simp only [build, buildA, cls_rt, min_rt, hdr_rt, n_rt]) rfl rfl rfl rfl rfl
theorem spUnmap (h : Hdr) (f : NForm) : Statement (.spUnmap h f) :=
  of_n 649 .n h f _ (by simp only [build, buildA, cls_rt, min_rt, hdr_rt, n_rt]) rfl rfl rfl rfl rfl
theorem spWb (h : Hdr) (f : NForm) : Statement (.spWb h f) :=
  of_n 650 .n h f _ (by simp only [build, buildA, cls_rt, min_rt, hdr_rt, n_rt]) rfl rfl rfl rfl rfl
theorem spInv (h : Hdr) (f : NForm) : Statement (.spInv h f) :=
  of_n 651 .n h f _ (by simp only [build, buildA, cls_rt, min_rt, hdr_rt, n_rt]) rfl rfl rfl rfl rfl
theorem cp (h : Hdr) (f : EForm) : Statement (.cp h f) :=
  of_e 705 h f _ (by simp only [build, buildB, cls_rt, min_rt, hdr_rt, e_rt]) rfl rfl rfl rfl (fun st hc => by have := (extra_e hc).1; simp only [cpRow, List.append_eq_nil_iff, sub_nil, Bool.or_eq_false_iff, Bool.not_eq_eq_eq_not, Bool.not_false] at this; exact chanOk_le this.1)
theorem cpMc (h : Hdr) (f : EForm) : Statement (.cpMc h f) :=
  of_e 706 h f _ (by simp only [build, buildB, cls_rt, min_rt, hdr_rt, e_rt]) rfl rfl rfl rfl (fun st hc => by have := (extra_e hc).1; simp only [cpRow, List.append_eq_nil_iff, sub_nil, Bool.or_eq_false_iff, Bool.not_eq_eq_eq_not, Bool.not_false] at this; exact chanOk_le this.1)
theorem cpX (h : Hdr) (f : EForm) : Statement (.cpX h f) :=
  of_e 707 h f _ (by simp only [build, buildB, cls_rt, min_rt, hdr_rt, e_rt]) rfl rfl rfl rfl (fun st hc => by have := (extra_e hc).1; simp only [cpRow, List.append_eq_nil_iff, sub_nil, Bool.or_eq_false_iff, Bool.not_eq_eq_eq_not, Bool.not_false] at this; exact chanOk_le this.1)
theorem cpFill (h : Hdr) (f : EForm) : Statement (.cpFill h f) :=
  of_e 708 h f _ (by simp only [build, buildB, cls_rt, min_rt, hdr_rt, e_rt]) rfl rfl rfl rfl (fun st hc => by have := (extra_e hc).1; simp only [cpRow, List.append_eq_nil_iff, sub_nil, Bool.or_eq_false_iff, Bool.not_eq_eq_eq_not, Bool.not_false] at this; exact chanOk_le this.1)
theorem cpGth (h : Hdr) (f : EForm) : Statement (.cpGth h f) :=
  of_e 709 h f _ (by simp only [build, buildB, cls_rt, min_rt, hdr_rt, e_rt]) rfl rfl rfl rfl (fun st hc => by have := (extra_e hc).1; simp only [cpRow, List.append_eq_nil_iff, sub_nil, Bool.or_eq_false_iff, Bool.not_eq_eq_eq_not, Bool.not_false] at this; exact chanOk_le this.1)
theorem cpSct (h : Hdr) (f : EForm) : Statement (.cpSct h f) :=
  of_e 710 h f _ (by simp only [build, buildB, cls_rt, min_rt, hdr_rt, e_rt]) rfl rfl rfl rfl (fun st hc => by have := (extra_e hc).1; simp only [cpRow, List.append_eq_nil_iff, sub_nil, Bool.or_eq_false_iff, Bool.not_eq_eq_eq_not, Bool.not_false] at this; exact chanOk_le this.1)
theorem tcWait (h : Hdr) (f : EForm) : Statement (.tcWait h f) :=
  of_e 711 h f _ (by simp only [build, buildB, cls_rt, min_rt, hdr_rt, e_rt]) rfl rfl rfl rfl (fun st hc => by have := (extra_e hc).1; simp only [cpRow, List.append_eq_nil_iff, sub_nil, Bool.or_eq_false_iff, Bool.not_eq_eq_eq_not, Bool.not_false] at this; exact ctrOk_le this.1)
theorem tcGet (h : Hdr) (f : EForm) : Statement (.tcGet h f) :=
  of_e 712 h f _ (by simp only [build, buildB, cls_rt, min_rt, hdr_rt, e_rt]) rfl rfl rfl rfl (fun st hc => by have := (extra_e hc).1; simp only [cpRow, List.append_eq_nil_iff, sub_nil, Bool.or_eq_false_iff, Bool.not_eq_eq_eq_not, Bool.not_false] at this; exact ctrOk_le this.1)
theorem tcErr (h : Hdr) (f : EForm) : Statement (.tcErr h f) :=
  of_e 713 h f _ (by simp only [build, buildB, cls_rt, min_rt, hdr_rt, e_rt]) rfl rfl rfl rfl (fun st hc => by have := (extra_e hc).1; simp only [cpRow, List.append_eq_nil_iff, sub_nil, Bool.or_eq_false_iff, Bool.not_eq_eq_eq_not, Bool.not_false] at this; exact ctrOk_le this.1)
theorem chWp (h : Hdr) (f : EForm) : Statement (.chWp h f) :=
  of_e 714 h f _ (by simp only [build, buildB, cls_rt, min_rt, hdr_rt, e_rt]) rfl rfl rfl rfl (fun st hc => by have := (extra_e hc).1; simp only [cpRow, List.append_eq_nil_iff, sub_nil, Bool.or_eq_false_iff, Bool.not_eq_eq_eq_not, Bool.not_false] at this; exact chanOk_le this.1)
theorem chRst (h : Hdr) (f : EForm) : Statement (.chRst h f) :=
  of_e 715 h f _ (by simp only [build, buildB, cls_rt, min_rt, hdr_rt, e_rt]) rfl rfl rfl rfl (fun st hc => by have := (extra_e hc).1; simp only [cpRow, List.append_eq_nil_iff, sub_nil, Bool.or_eq_false_iff, Bool.not_eq_eq_eq_not, Bool.not_false] at this; exact chanOk_le this)
theorem chSumGet (h : Hdr) (f : EForm) : Statement (.chSumGet h f) :=
  of_sub 0 h f _ rfl (fun ho => by simp only [build, buildB, cls_rt, min_rt, hdr_rt, e_rt, op_e_rt, ho]; rfl) (by decide) (fun st hc => ⟨BitVec.eq_of_toNat_eq (by simpa using (extra_e hc).2.2), chanOk_le (by simpa [sub_nil] using (extra_e hc).1)⟩)
theorem chSumSet (h : Hdr) (f : EForm) : Statement (.chSumSet h f) :=
  of_sub 1 h f _ rfl (fun ho => by simp only [build, buildB, cls_rt, min_rt, hdr_rt, e_rt, op_e_rt, ho]; rfl) (by decide) (fun st hc => ⟨BitVec.eq_of_toNat_eq (by simpa using (extra_e hc).2.2), chanOk_le (by simpa [sub_nil] using (extra_e hc).1)⟩)
theorem chSumExp (h : Hdr) (f : EForm) : Statement (.chSumExp h f) :=
  of_sub 2 h f _ rfl (fun ho => by simp only [build, buildB, cls_rt, min_rt, hdr_rt, e_rt, op_e_rt, ho]; rfl) (by decide) (fun st hc => ⟨BitVec.eq_of_toNat_eq (by simpa using (extra_e hc).2.2), chanOk_le (by simpa [sub_nil] using (extra_e hc).1)⟩)
theorem rsHintKeep (h : Hdr) (f : NForm) : Statement (.rsHintKeep h f) := of_op 769 0 .n h f _ rfl (fun st hc => by simpa using plain_op hc) (fun ho => by simp only [build, buildC, cls_rt, min_rt, hdr_rt, n_rt, op_n_rt, ho]; rfl) rfl rfl rfl rfl
theorem rsHintDrop (h : Hdr) (f : NForm) : Statement (.rsHintDrop h f) := of_op 769 1 .n h f _ rfl (fun st hc => by simpa using plain_op hc) (fun ho => by simp only [build, buildC, cls_rt, min_rt, hdr_rt, n_rt, op_n_rt, ho]; rfl) rfl rfl rfl rfl
theorem rsHintFetch (h : Hdr) (f : NForm) : Statement (.rsHintFetch h f) := of_op 769 2 .n h f _ rfl (fun st hc => by simpa using plain_op hc) (fun ho => by simp only [build, buildC, cls_rt, min_rt, hdr_rt, n_rt, op_n_rt, ho]; rfl) rfl rfl rfl rfl
theorem rsEvict (h : Hdr) (f : NForm) : Statement (.rsEvict h f) := of_op 770 0 .n h f _ rfl (fun st hc => by simpa using plain_op hc) (fun ho => by simp only [build, buildC, cls_rt, min_rt, hdr_rt, n_rt, op_n_rt, ho]; rfl) rfl rfl rfl rfl
theorem rsEvictInv (h : Hdr) (f : NForm) : Statement (.rsEvictInv h f) := of_op 770 1 .n h f _ rfl (fun st hc => by simpa using plain_op hc) (fun ho => by simp only [build, buildC, cls_rt, min_rt, hdr_rt, n_rt, op_n_rt, ho]; rfl) rfl rfl rfl rfl
theorem rsQry (h : Hdr) (f : NForm) : Statement (.rsQry h f) :=
  of_n 771 .n h f _ (by simp only [build, buildC, cls_rt, min_rt, hdr_rt, n_rt]) rfl rfl rfl rfl rfl
theorem mTr (h : Hdr) (f : EForm) : Statement (.mTr h f) :=
  of_e 772 h f _ (by simp only [build, buildC, cls_rt, min_rt, hdr_rt, e_rt]) rfl rfl rfl rfl (fun st hc => by have := (extra_e hc).1; simp only [cpRow, List.append_eq_nil_iff, sub_nil, Bool.or_eq_false_iff, Bool.not_eq_eq_eq_not, Bool.not_false] at this; exact chanOk_le this.1)
theorem mRed (h : Hdr) (f : EForm) : Statement (.mRed h f) :=
  of_e 773 h f _ (by simp only [build, buildC, cls_rt, min_rt, hdr_rt, e_rt]) rfl rfl rfl rfl (fun st hc => by have := (extra_e hc).1; simp only [cpRow, List.append_eq_nil_iff, sub_nil, Bool.or_eq_false_iff, Bool.not_eq_eq_eq_not, Bool.not_false] at this; exact chanOk_le this.1.1)
theorem kvMatch (h : Hdr) (f : EForm) : Statement (.kvMatch h f) :=
  of_e 774 h f _ (by simp only [build, buildC, cls_rt, min_rt, hdr_rt, e_rt]) rfl rfl rfl rfl (fun st hc => by have := (extra_e hc).1; simp only [kvRow, sub_nil, bne_eq_false_iff_eq] at this; simp [this])
theorem kvInsert (h : Hdr) (f : EForm) : Statement (.kvInsert h f) :=
  of_e 775 h f _ (by simp only [build, buildC, cls_rt, min_rt, hdr_rt, e_rt]) rfl rfl rfl rfl (fun st hc => by have := (extra_e hc).1; simp only [kvRow, sub_nil, bne_eq_false_iff_eq] at this; simp [this])
theorem kvFork (h : Hdr) (f : EForm) : Statement (.kvFork h f) :=
  of_e 776 h f _ (by simp only [build, buildC, cls_rt, min_rt, hdr_rt, e_rt]) rfl rfl rfl rfl (fun st hc => by have := (extra_e hc).1; simp only [kvRow, sub_nil, bne_eq_false_iff_eq] at this; simp [this])
theorem kvRef (h : Hdr) (f : EForm) : Statement (.kvRef h f) :=
  of_e 777 h f _ (by simp only [build, buildC, cls_rt, min_rt, hdr_rt, e_rt]) rfl rfl rfl rfl (fun st hc => by have := (extra_e hc).1; simp only [kvRow, sub_nil, bne_eq_false_iff_eq] at this; simp [this])
theorem kvUnref (h : Hdr) (f : EForm) : Statement (.kvUnref h f) :=
  of_e 778 h f _ (by simp only [build, buildC, cls_rt, min_rt, hdr_rt, e_rt]) rfl rfl rfl rfl (fun st hc => by have := (extra_e hc).1; simp only [kvRow, sub_nil, bne_eq_false_iff_eq] at this; simp [this])
theorem kvAppend (h : Hdr) (f : EForm) : Statement (.kvAppend h f) :=
  of_e 779 h f _ (by simp only [build, buildC, cls_rt, min_rt, hdr_rt, e_rt]) rfl rfl rfl rfl (fun st hc => by have := (extra_e hc).1; simp only [kvRow, sub_nil, bne_eq_false_iff_eq] at this; simp [this])
theorem kvXlat (h : Hdr) (f : NForm) : Statement (.kvXlat h f) :=
  of_n 780 .n h f _ (by simp only [build, buildC, cls_rt, min_rt, hdr_rt, n_rt]) rfl rfl rfl rfl rfl
theorem kvQry (h : Hdr) (f : EForm) : Statement (.kvQry h f) :=
  of_e 781 h f _ (by simp only [build, buildC, cls_rt, min_rt, hdr_rt, e_rt]) rfl rfl rfl rfl (fun st hc => by have := (extra_e hc).1; simp only [kvRow, sub_nil, bne_eq_false_iff_eq] at this; simp [this])
theorem kMma (h : Hdr) (f : KForm) : Statement (.kMma h f) :=
  of_k 833 .k h f _ (by simp only [build, buildD, cls_rt, min_rt, hdr_rt, k_rt]) rfl rfl rfl rfl rfl
theorem kLda (h : Hdr) (f : EForm) : Statement (.kLda h f) :=
  of_e 834 h f _ (by simp only [build, buildD, cls_rt, min_rt, hdr_rt, e_rt]) rfl rfl rfl rfl (fun st hc => by simp [(extra_e hc).2.1 rfl])
theorem kZero (h : Hdr) (f : KForm) : Statement (.kZero h f) :=
  of_k 835 .k h f _ (by simp only [build, buildD, cls_rt, min_rt, hdr_rt, k_rt]) rfl rfl rfl rfl rfl
theorem kScale (h : Hdr) (f : KForm) : Statement (.kScale h f) :=
  of_k 836 .k h f _ (by simp only [build, buildD, cls_rt, min_rt, hdr_rt, k_rt]) rfl rfl rfl rfl rfl
theorem kDrain (h : Hdr) (f : EForm) : Statement (.kDrain h f) :=
  of_e 837 h f _ (by simp only [build, buildD, cls_rt, min_rt, hdr_rt, e_rt]) rfl rfl rfl rfl (fun st hc => by simp [(extra_e hc).2.1 rfl])
theorem kPass (h : Hdr) (f : EForm) : Statement (.kPass h f) :=
  of_e 838 h f _ (by simp only [build, buildD, cls_rt, min_rt, hdr_rt, e_rt]) rfl rfl rfl rfl (fun st hc => by simp [(extra_e hc).2.1 rfl])
theorem kRecv (h : Hdr) (f : EForm) : Statement (.kRecv h f) :=
  of_e 839 h f _ (by simp only [build, buildD, cls_rt, min_rt, hdr_rt, e_rt]) rfl rfl rfl rfl (fun st hc => by simp [(extra_e hc).2.1 rfl])
theorem kStat (h : Hdr) (f : NForm) : Statement (.kStat h f) :=
  of_n 840 .n h f _ (by simp only [build, buildD, cls_rt, min_rt, hdr_rt, n_rt]) rfl rfl rfl rfl rfl
theorem vAccrd (h : Hdr) (f : NForm) : Statement (.vAccrd h f) :=
  of_n 841 .n h f _ (by simp only [build, buildD, cls_rt, min_rt, hdr_rt, n_rt]) rfl rfl rfl rfl rfl
theorem vAccwr (h : Hdr) (f : NForm) : Statement (.vAccwr h f) :=
  of_n 842 .n h f _ (by simp only [build, buildD, cls_rt, min_rt, hdr_rt, n_rt]) rfl rfl rfl rfl rfl
theorem sysRd (h : Hdr) (f : IForm) : Statement (.sysRd h f) :=
  of_i 897 .i h f _ (by simp only [build, buildE, cls_rt, min_rt, hdr_rt, i_rt]) rfl rfl rfl rfl rfl
theorem sysWr (h : Hdr) (f : IForm) : Statement (.sysWr h f) :=
  of_i 898 .i h f _ (by simp only [build, buildE, cls_rt, min_rt, hdr_rt, i_rt]) rfl rfl rfl rfl rfl
theorem sysRfe (h : Hdr) (f : NForm) : Statement (.sysRfe h f) :=
  of_n 899 .n h f _ (by simp only [build, buildE, cls_rt, min_rt, hdr_rt, n_rt]) rfl rfl rfl rfl rfl
theorem sysTlbiVa (h : Hdr) (f : NForm) : Statement (.sysTlbiVa h f) := of_op 900 0 .n h f _ rfl (fun st hc => by simpa using plain_op hc) (fun ho => by simp only [build, buildE, cls_rt, min_rt, hdr_rt, n_rt, op_n_rt, ho]; rfl) rfl rfl rfl rfl
theorem sysTlbiAs (h : Hdr) (f : NForm) : Statement (.sysTlbiAs h f) := of_op 900 1 .n h f _ rfl (fun st hc => by simpa using plain_op hc) (fun ho => by simp only [build, buildE, cls_rt, min_rt, hdr_rt, n_rt, op_n_rt, ho]; rfl) rfl rfl rfl rfl
theorem sysTlbiAll (h : Hdr) (f : NForm) : Statement (.sysTlbiAll h f) := of_op 900 2 .n h f _ rfl (fun st hc => by simpa using plain_op hc) (fun ho => by simp only [build, buildE, cls_rt, min_rt, hdr_rt, n_rt, op_n_rt, ho]; rfl) rfl rfl rfl rfl
theorem sysHaltCore (h : Hdr) (f : NForm) : Statement (.sysHaltCore h f) := of_op 901 0 .n h f _ rfl (fun st hc => by simpa using plain_op hc) (fun ho => by simp only [build, buildE, cls_rt, min_rt, hdr_rt, n_rt, op_n_rt, ho]; rfl) rfl rfl rfl rfl
theorem sysHaltResume (h : Hdr) (f : NForm) : Statement (.sysHaltResume h f) := of_op 901 1 .n h f _ rfl (fun st hc => by simpa using plain_op hc) (fun ho => by simp only [build, buildE, cls_rt, min_rt, hdr_rt, n_rt, op_n_rt, ho]; rfl) rfl rfl rfl rfl
theorem sysIdle (h : Hdr) (f : NForm) : Statement (.sysIdle h f) :=
  of_n 902 .n h f _ (by simp only [build, buildE, cls_rt, min_rt, hdr_rt, n_rt]) rfl rfl rfl rfl rfl
theorem preMask (h : Hdr) (f : NForm) : Statement (.preMask h f) :=
  of_n 903 .n h f _ (by simp only [build, buildE, cls_rt, min_rt, hdr_rt, n_rt]) rfl rfl rfl rfl rfl
theorem preUnmask (h : Hdr) (f : NForm) : Statement (.preUnmask h f) :=
  of_n 904 .n h f _ (by simp only [build, buildE, cls_rt, min_rt, hdr_rt, n_rt]) rfl rfl rfl rfl rfl
theorem sysSig (h : Hdr) (f : NForm) : Statement (.sysSig h f) :=
  of_n 905 .n h f _ (by simp only [build, buildE, cls_rt, min_rt, hdr_rt, n_rt]) rfl rfl rfl rfl rfl
theorem sysFqackRetry (h : Hdr) (f : NForm) : Statement (.sysFqackRetry h f) := of_op 906 0 .n h f _ rfl (fun st hc => by simpa using plain_op hc) (fun ho => by simp only [build, buildE, cls_rt, min_rt, hdr_rt, n_rt, op_n_rt, ho]; rfl) rfl rfl rfl rfl
theorem sysFqackSkip (h : Hdr) (f : NForm) : Statement (.sysFqackSkip h f) := of_op 906 1 .n h f _ rfl (fun st hc => by simpa using plain_op hc) (fun ho => by simp only [build, buildE, cls_rt, min_rt, hdr_rt, n_rt, op_n_rt, ho]; rfl) rfl rfl rfl rfl
theorem sysFqackKill (h : Hdr) (f : NForm) : Statement (.sysFqackKill h f) := of_op 906 2 .n h f _ rfl (fun st hc => by simpa using plain_op hc) (fun ho => by simp only [build, buildE, cls_rt, min_rt, hdr_rt, n_rt, op_n_rt, ho]; rfl) rfl rfl rfl rfl
theorem sysFqackResume (h : Hdr) (f : NForm) : Statement (.sysFqackResume h f) := of_op 906 3 .n h f _ rfl (fun st hc => by simpa using plain_op hc) (fun ho => by simp only [build, buildE, cls_rt, min_rt, hdr_rt, n_rt, op_n_rt, ho]; rfl) rfl rfl rfl rfl
theorem sysFqackFail (h : Hdr) (f : NForm) : Statement (.sysFqackFail h f) := of_op 906 4 .n h f _ rfl (fun st hc => by simpa using plain_op hc) (fun ho => by simp only [build, buildE, cls_rt, min_rt, hdr_rt, n_rt, op_n_rt, ho]; rfl) rfl rfl rfl rfl
theorem sysDirq (h : Hdr) (f : NForm) : Statement (.sysDirq h f) :=
  of_n 907 .n h f _ (by simp only [build, buildE, cls_rt, min_rt, hdr_rt, n_rt]) rfl rfl rfl rfl rfl
theorem sysDirrcZero (h : Hdr) (f : NForm) : Statement (.sysDirrcZero h f) := of_op 908 0 .n h f _ rfl (fun st hc => by simpa using plain_op hc) (fun ho => by simp only [build, buildE, cls_rt, min_rt, hdr_rt, n_rt, op_n_rt, ho]; rfl) rfl rfl rfl rfl
theorem sysDirrcCopy (h : Hdr) (f : NForm) : Statement (.sysDirrcCopy h f) := of_op 908 1 .n h f _ rfl (fun st hc => by simpa using plain_op hc) (fun ho => by simp only [build, buildE, cls_rt, min_rt, hdr_rt, n_rt, op_n_rt, ho]; rfl) rfl rfl rfl rfl
theorem sysDirrcKeep (h : Hdr) (f : NForm) : Statement (.sysDirrcKeep h f) := of_op 908 2 .n h f _ rfl (fun st hc => by simpa using plain_op hc) (fun ho => by simp only [build, buildE, cls_rt, min_rt, hdr_rt, n_rt, op_n_rt, ho]; rfl) rfl rfl rfl rfl
theorem sysWatch (h : Hdr) (f : NForm) : Statement (.sysWatch h f) :=
  of_n 909 .n h f _ (by simp only [build, buildE, cls_rt, min_rt, hdr_rt, n_rt]) rfl rfl rfl rfl rfl
theorem sysSwatch (h : Hdr) (f : NForm) : Statement (.sysSwatch h f) :=
  of_n 910 .n h f _ (by simp only [build, buildE, cls_rt, min_rt, hdr_rt, n_rt]) rfl rfl rfl rfl rfl
end Sys2Proof.Laws.RoundTrip
end

