-- ==== Sys2Proof/Laws/Scalars.lean ====
section
/-! SUPPORT. Scalar instructions: the sources they read, and what the shapes sclN, sclI and sclTruth answer. -/
set_option Elab.async false
namespace Sys2Proof.Machine

theorem readScl_reg (s : State) (a : Agent) (x : Src) (h : x.cls ≠ .spec) :
    readScl s a x false = (s.sread a x.idx.toNat).setWidth 64 := by
  unfold readScl
  cases hc : x.cls <;> simp_all

theorem readScl_pair (s : State) (a : Agent) (x : Src) (h : x.cls ≠ .spec) :
    readScl s a x true = pairOf (s.sread a x.idx.toNat) (s.sread a (x.idx.toNat + 1)) := by
  unfold readScl State.sread64
  cases hc : x.cls <;> simp_all

/-- With no load on its way to a scalar register, a read gives what the register holds (R70). -/
theorem sread_idle (s : State) (a : Agent) (i : Nat) (h : s.sclPending a i = []) : s.sread a i = s.sget a i := by
  simp [State.sread, h]

theorem lo32_ofNat (n : Nat) : lo32 (BitVec.ofNat 64 n) = BitVec.ofNat 32 n := by
  unfold lo32
  apply BitVec.eq_of_toNat_eq
  simp [BitVec.toNat_ofNat]

theorem toNat_wide (x : W32) : (x.setWidth 64).toNat = x.toNat := by
  rw [BitVec.toNat_setWidth]
  exact Nat.mod_eq_of_lt (Nat.lt_trans x.isLt (by decide))

theorem lo32_setWidth (x : W32) : lo32 (x.setWidth 64) = x := by
  unfold lo32
  simp

/-- Results that agree in their low 32 bits write the same scalar register. -/
theorem SclDone.low {s t : State} {a : Agent} {d : Nat} {x y : W64} (h : SclDone s t a d false x) (e : lo32 x = lo32 y) :
    SclDone s t a d false y := ⟨e ▸ h.1, fun q => (by cases q), h.2.2⟩

theorem sclN_done {s : State} {a : Agent} {h : Hdr} (hs : Acts s a h) (w : Nat) (e : ElemFn) (lat : Nat) (f : NForm) :
    ∃ t, sclN w e lat h f s = .next t ∧ SclDone s t a f.d.idx.toNat (w == 64)
      (BitVec.ofNat 64 (e w (Ty.signed f.ty) false (readScl s a f.a (w == 64)).toNat (readScl s a f.b (w == 64)).toNat
        (readScl s a f.c (w == 64)).toNat)) := by
  unfold sclN
  rw [withAgent_run hs.1]
  exact ⟨_, rfl, sclOp_done hs _ _ lat _⟩

theorem sclI_done {s : State} {a : Agent} {h : Hdr} (hs : Acts s a h) (w : Nat) (e : ElemFn) (lat : Nat) (f : IForm) :
    ∃ t, sclI w e lat h f s = .next t ∧ SclDone s t a f.d.idx.toNat (w == 64)
      (BitVec.ofNat 64 (e w (Ty.signed f.ty) false (readScl s a f.a (w == 64)).toNat
        (if w = 64 then (immOf f.ty f.imm).toNat else f.imm.toNat) 0)) := by
  unfold sclI
  rw [withAgent_run hs.1]
  exact ⟨_, rfl, sclOp_done hs _ _ lat _⟩

end Sys2Proof.Machine
end

