-- ==== Sys2Proof/Laws/Vectors.lean ====
section
/-! SUPPORT. The shared operations over vector registers and predicates: sources, destinations, mapping, and the shapes
vecOp, predOp, fpOp and fpPredOp. -/
set_option Elab.async false
namespace Sys2Proof.Machine

/-! Free choices move only the model's counter. -/
theorem free_step (s : State) (n : Nat) (a : Agent) : RegStep s { s with free := n } a [] [] [] := by
  refine ⟨⟨rfl, fun _ _ => rfl, fun _ _ => rfl, fun _ _ => ?_, fun _ _ => ?_,
    fun _ _ G _ hG => ⟨G, hG, rfl, fun _ _ _ => rfl, fun _ h => .inl h⟩, fun _ _ => rfl⟩,
    QueuesStay.of_eq rfl rfl, fun _ _ _ => rfl, ?_⟩
  all_goals cases a <;> rfl

/-- A state that differs from another at most in the counter of free choices. -/
def FreeOf (s t : State) : Prop := t = { s with free := t.free }
theorem FreeOf.refl (s : State) : FreeOf s s := rfl
theorem FreeOf.trans {s t u : State} (x : FreeOf s t) (y : FreeOf t u) : FreeOf s u := by
  unfold FreeOf at *
  rw [y, x]
theorem FreeOf.step {s t : State} (x : FreeOf s t) (a : Agent) : RegStep s t a [] [] [] := by
  rw [x]
  exact free_step s _ a

theorem pick_free (s : State) (n : Nat) : FreeOf s (pick s n).2 := by
  unfold pick
  split <;> rfl
theorem pickFrom_free {α : Type} (s : State) (xs : List α) (d : α) : FreeOf s (pickFrom s xs d).2 := pick_free s xs.length
theorem pickLanes_free (vals : Nat → List W32) (ls : List Nat) (s : State) : FreeOf s (pickLanes s vals ls).2 := by
  induction ls generalizing s with
  | nil => exact FreeOf.refl s
  | cons l r ih =>
    have h1 := pickFrom_free s (vals l) 0#32
    have h2 := ih (pickFrom s (vals l) 0#32).2
    exact h1.trans h2
theorem readReg_free (s : State) (g e v : Nat) (perm : BitVec 4) (aux : BitVec 6) : FreeOf s (readReg s g e v perm aux).2 := by
  unfold readReg
  split
  · exact FreeOf.refl s
  · dsimp only
    split
    · exact FreeOf.refl s
    · exact pickLanes_free _ _ s
theorem readSrc_free (s : State) (a : Agent) (x : Src) (wide : Bool) (aux : BitVec 6) : FreeOf s (readSrc s a x wide aux).2 := by
  unfold readSrc
  split
  · split
    · exact (readReg_free s _ _ _ _ _).trans (readReg_free _ _ _ _ _ _)
    · exact readReg_free s _ _ _ _ _
  · exact FreeOf.refl s
  · exact FreeOf.refl s
theorem readSrcs_free (a : Agent) (aux : BitVec 6) (xs : List Opnd) (s : State) : FreeOf s (readSrcs s a aux xs).2 := by
  induction xs generalizing s with
  | nil => exact FreeOf.refl s
  | cons x r ih => exact (readSrc_free s a x.src x.wide aux).trans (ih _)

/-! Vector destinations. -/
theorem vwrite_vlane (G : Group) (v w l : Nat) (f : Nat → Option W32) (hl : l < 64) :
    (G.vwrite v f).vlane w l = if w = v then (f l).getD (G.vlane v l) else G.vlane w l := by
  have h0 : (G.vwrite v f).vreg w =
      if w = v then (List.range 64).map fun l => (f l).getD ((G.vreg v).getD l 0#32) else G.vreg w := by
    unfold Group.vwrite
    dsimp only
    simp only [Group.vreg]
    rw [Assoc.get?_set]
    by_cases h : w = v <;> simp only [h, if_true, if_false, Option.getD_some]
  unfold Group.vlane
  rw [h0]
  by_cases h : w = v
  · subst h
    simp [hl]
  · simp [h]

theorem modGrp_vwrite_step (s : State) (g e v : Nat) (f : Nat → Option W32) :
    RegStep s (s.modGrp g fun G => G.vwrite v f) (.frag g e) [] [] [v] := by
  refine ⟨leaves_modGrp s g e _ [] [] [v] id (fun _ _ _ => rfl) (fun _ _ _ => rfl) (fun _ => rfl) ?_ ?_,
    QueuesStay.of_eq rfl rfl, samePlace_modGrp s g e _ fun _ => rfl⟩
  · intro G w hw _
    simp only [List.mem_singleton] at hw
    exact Assoc.get?_set_ne _ _ hw
  · intro G w hw
    exact .inl ((List.mem_filter.1 hw).1)

theorem laneOf_step {s t : State} {g e : Nat} {l1 l2 l3 : List Nat} (x : RegStep s t (.frag g e) l1 l2 l3) {v : Nat}
    (h : v ∉ l3) (hl : ∀ G, s.grps.get? g = some G → v ∉ G.lastRead) (l : Nat) : laneOf t g v l = laneOf s g v l := by
  unfold laneOf
  cases hs : s.grps.get? g with
  | none =>
    have := x.place.frags g e rfl
    rw [hs] at this
    cases ht : t.grps.get? g with
    | none => rfl
    | some H => rw [ht] at this; cases this
  | some G =>
    obtain ⟨H, hH, _, hv, _⟩ := x.leaves.grp g e G rfl hs
    rw [hH]
    simp [Group.vlane, Group.vreg, hv v h (hl G hs)]

/-- The vector registers named are not waiting for a release. -/
def NotLast (s : State) (g : Nat) (vs : List Nat) : Prop := ∀ G, s.grps.get? g = some G → ∀ v, v ∈ vs → v ∉ G.lastRead

theorem NotLast.step {s t : State} {g e : Nat} {l1 l2 l3 vs : List Nat} (n : NotLast s g vs)
    (x : RegStep s t (.frag g e) l1 l2 l3) (h : ∀ v, v ∈ vs → v ∉ l3) : NotLast t g vs := by
  intro H hH v hv hl
  cases hs : s.grps.get? g with
  | none =>
    have := x.place.frags g e rfl
    rw [hs, hH] at this
    cases this
  | some G =>
    obtain ⟨H', hH', _, _, hl'⟩ := x.leaves.grp g e G rfl hs
    rw [hH] at hH'
    injection hH' with q
    subst q
    exact (hl' v hl).elim (n G hs v hv) (h v hv)

theorem writeReg_step (s : State) (g e v : Nat) (xs : List (Nat × W32)) : RegStep s (s.writeReg g v xs) (.frag g e) [] [] [v] :=
  (youngerWrite_step s (.frag g e) g v _).trans (modGrp_vwrite_step _ g e v _)

theorem writeReg_notLast (s : State) (g v : Nat) (xs : List (Nat × W32)) : NotLast (s.writeReg g v xs) g [v] := by
  intro H hH w hw
  simp only [List.mem_singleton] at hw
  subst hw
  unfold State.writeReg at hH
  dsimp only at hH
  rw [grp_modGrp, if_pos rfl] at hH
  cases hs : (s.youngerWrite g w (maskOf (xs.map (·.1)))).grps.get? g with
  | none => rw [hs] at hH; cases hH
  | some G =>
    rw [hs] at hH
    injection hH with q
    subst q
    simp [Group.vwrite]

theorem writeReg_lane (s : State) {g e : Nat} (h : s.hasAgent (.frag g e) = true) (v : Nat) (xs : List (Nat × W32)) (l : Nat) (hl : l < 64) :
    laneOf (s.writeReg g v xs) g v l = (((xs.find? fun p => p.1 == l).map (·.2)).getD (laneOf s g v l)) := by
  have y := youngerWrite_step s (.frag g e) g v (maskOf (xs.map (·.1)))
  obtain ⟨G, F, hG, _⟩ := hasAgent_group (y.place.hasAgent h)
  have hx : laneOf (s.youngerWrite g v (maskOf (xs.map (·.1)))) g v l = laneOf s g v l := by
    have : (s.youngerWrite g v (maskOf (xs.map (·.1)))).grps = s.grps := by
      unfold State.youngerWrite
      split <;> rfl
    unfold laneOf
    rw [this]
  rw [← hx]
  unfold State.writeReg laneOf
  dsimp only
  rw [grp_modGrp, if_pos rfl, hG, Option.map_some, Option.map_some, Option.getD_some, vwrite_vlane _ _ _ _ _ hl]
  simp

/-! Lists of lane writes. -/
theorem find_map_lanes (xs : List (Nat × W64)) (f : W64 → W32) (l : Nat) (old : W32) :
    ((((xs.map fun p => (p.1, f p.2)).find? fun p => p.1 == l).map (·.2)).getD old) = written xs l old f := by
  unfold written
  induction xs with
  | nil => rfl
  | cons p r ih =>
    by_cases h : p.1 = l
    · simp [h]
    · have : (p.1 == l) = false := by simp [h]
      simp only [List.map_cons, List.find?_cons, this]
      exact ih

theorem writeLanes_step (s : State) (g e d : Nat) (wide : Bool) (xs : List (Nat × W64)) :
    RegStep s (s.writeLanes (.frag g e) d wide xs) (.frag g e) [] [] (dstRegs d (if wide then 2 else 1)) := by
  unfold State.writeLanes
  cases wide
  · exact writeReg_step s g e d _
  · exact (writeReg_step s g e d _).trans (writeReg_step _ g e (d + 1) _)

theorem writeReg_other (s : State) (g d v : Nat) (lo : List (Nat × W32)) (hv : v ≠ d) (l : Nat) (hl : l < 64) :
    laneOf (s.writeReg g d lo) g v l = laneOf s g v l := by
  have e1 : (s.youngerWrite g d (maskOf (lo.map (·.1)))).grps = s.grps := by
    unfold State.youngerWrite
    split <;> rfl
  unfold laneOf State.writeReg
  dsimp only
  rw [grp_modGrp, if_pos rfl, e1]
  cases s.grps.get? g with
  | none => rfl
  | some G =>
    simp only [Option.map_some, Option.getD_some]
    rw [vwrite_vlane _ _ _ _ _ hl, if_neg hv]

theorem writeReg_pair (s : State) {g e : Nat} (h : s.hasAgent (.frag g e) = true) (d : Nat) (lo hi : List (Nat × W32))
    (l : Nat) (hl : l < 64) :
    laneOf ((s.writeReg g d lo).writeReg g (d + 1) hi) g d l = ((lo.find? fun p => p.1 == l).map (·.2)).getD (laneOf s g d l) ∧
      laneOf ((s.writeReg g d lo).writeReg g (d + 1) hi) g (d + 1) l =
        ((hi.find? fun p => p.1 == l).map (·.2)).getD (laneOf s g (d + 1) l) := by
  have h1 := (writeReg_step s g e d lo).place.hasAgent h
  refine ⟨?_, ?_⟩
  · rw [writeReg_other _ _ _ _ _ (by omega) l hl, writeReg_lane s h d lo l hl]
  · rw [writeReg_lane _ h1 (d + 1) hi l hl, writeReg_other _ _ _ _ _ (by omega) l hl]

theorem writeLanes_lane (s : State) {g e : Nat} (h : s.hasAgent (.frag g e) = true) (d : Nat) (wide : Bool)
    (xs : List (Nat × W64)) (l : Nat) (hl : l < 64) :
    laneOf (s.writeLanes (.frag g e) d wide xs) g d l = written xs l (laneOf s g d l) lo32 ∧
      (wide = true → laneOf (s.writeLanes (.frag g e) d wide xs) g (d + 1) l = written xs l (laneOf s g (d + 1) l) hi32) := by
  unfold State.writeLanes
  rw [← find_map_lanes, ← find_map_lanes]
  cases wide
  · exact ⟨writeReg_lane s h d _ l hl, fun q => by cases q⟩
  · have k := writeReg_pair s h d (xs.map fun p => (p.1, lo32 p.2)) (xs.map fun p => (p.1, hi32 p.2)) l hl
    exact ⟨k.1, fun _ => k.2⟩

theorem writeLanes_notLast (s : State) (g e d : Nat) (wide : Bool) (xs : List (Nat × W64)) :
    NotLast (s.writeLanes (.frag g e) d wide xs) g (dstRegs d (if wide then 2 else 1)) := by
  unfold State.writeLanes
  cases wide
  · exact writeReg_notLast s g d _
  · have n1 := (writeReg_notLast s g d (xs.map fun p => (p.1, lo32 p.2))).step
      (writeReg_step _ g e (d + 1) (xs.map fun p => (p.1, hi32 p.2))) (by simp)
    have n2 := writeReg_notLast (s.writeReg g d (xs.map fun p => (p.1, lo32 p.2))) g (d + 1) (xs.map fun p => (p.1, hi32 p.2))
    intro G hG v hv
    have hv' : v = d ∨ v = d + 1 := by simpa [dstRegs, List.range, List.range.loop] using hv
    rcases hv' with q | q
    · exact n1 G hG v (by simp [q])
    · exact n2 G hG v (by simp [q])

/-! Last reads (R15). -/
theorem mem_addAll (xs : NatSet) (ks : List Nat) (v : Nat) (h : v ∈ NatSet.addAll xs ks) : v ∈ xs ∨ v ∈ ks := by
  have ins : ∀ (ys : NatSet) (k w : Nat), w ∈ NatSet.insert ys k → w ∈ ys ∨ w = k := by
    intro ys k w
    induction ys with
    | nil => intro hw; exact .inr (by simpa [NatSet.insert] using hw)
    | cons j r ih =>
      intro hw
      unfold NatSet.insert at hw
      split at hw
      · simp only [List.mem_cons] at hw ⊢
        rcases hw with q | q | q
        · exact .inr q
        · exact .inl (.inl q)
        · exact .inl (.inr q)
      · split at hw
        · exact .inl hw
        · simp only [List.mem_cons] at hw ⊢
          rcases hw with q | q
          · exact .inl (.inl q)
          · exact (ih q).imp .inr id
  unfold NatSet.addAll at h
  induction ks generalizing xs with
  | nil => exact .inl h
  | cons k r ih =>
    rcases ih _ h with q | q
    · exact (ins xs k v q).imp id fun q => by simp [q]
    · exact .inr (List.mem_cons_of_mem _ q)

theorem releaseRegs_facts (G : Group) (regs written : List Nat) :
    groupRest (releaseRegs G regs written) = groupRest G ∧ (releaseRegs G regs written).sreg = G.sreg ∧
      (releaseRegs G regs written).preds = G.preds ∧ (releaseRegs G regs written).frags = G.frags ∧
      (∀ v, v ∉ regs.filter (fun v => !written.contains v) → (releaseRegs G regs written).reg.get? v = G.reg.get? v) ∧
      (∀ v, v ∈ (releaseRegs G regs written).lastRead → v ∈ G.lastRead ∨ v ∈ regs.filter (fun v => !written.contains v)) := by
  unfold releaseRegs
  dsimp only
  split
  · exact ⟨rfl, rfl, rfl, rfl, fun _ _ => rfl, fun v h => mem_addAll _ _ v h⟩
  · obtain ⟨h1, h2, h3, _, h5, h6, _, h8⟩ := unmapAll_rest (regs.filter fun v => !written.contains v) G
    exact ⟨h1, h2, h3, h6, h8, fun v h => .inl (by rw [h5] at h; exact h)⟩

theorem lastReads_step (s : State) (a : Agent) (regs written : List Nat) :
    RegStep s (s.lastReads a regs written) a [] [] (regs.filter fun v => !written.contains v) := by
  cases a with
  | ks k => exact (RegStep.refl s (.ks k)).mono (by simp) (by simp) (by simp)
  | frag g e =>
    unfold State.lastReads
    refine ⟨leaves_modGrp s g e _ [] [] _ id ?_ ?_ ?_ ?_ ?_, QueuesStay.of_eq rfl rfl,
      samePlace_modGrp s g e _ fun G => (releaseRegs_facts G regs written).2.2.2.1⟩
    · intro G i _
      unfold Group.sget
      rw [(releaseRegs_facts G regs written).2.1]
    · intro G p _
      unfold Group.pred
      rw [(releaseRegs_facts G regs written).2.2.1]
    · intro G
      exact (releaseRegs_facts G regs written).1
    · intro G v hv _
      exact (releaseRegs_facts G regs written).2.2.2.2.1 v hv
    · intro G v hv
      exact (releaseRegs_facts G regs written).2.2.2.2.2 v hv

/-- Retiring an instruction that read vector sources: the frame and the next PC. -/
theorem finish_done {s t : State} {a : Agent} {l1 l2 l3 : List Nat} (x : RegStep s t a l1 l2 l3) (h : Hdr)
    (srcs : List Opnd) (written : List Nat) (busy : List (Nat × Nat)) (lat : Nat) :
    OnlyRegs s (t.finish a h srcs written busy lat) a l1 l2 (l3 ++ lastReadRegs srcs) ∧
      Advances s (t.finish a h srcs written busy lat) a := by
  unfold State.finish
  refine RegStep.retire ?_ h
  refine ((x.trans (lastReads_step t a (lastReadRegs srcs) written)).trans (addBusy_step _ a busy lat)).mono
    (by simp) (by simp) ?_
  intro v hv
  simp only [List.append_nil, List.mem_append, List.mem_filter] at hv ⊢
  exact hv.imp id (·.1)

theorem finish_lane {s : State} {g e : Nat} (h : Hdr) (srcs : List Opnd) (written : List Nat) (busy : List (Nat × Nat))
    (lat : Nat) {v : Nat} (hw : v ∈ written) (hn : NotLast s g [v]) (l : Nat) :
    laneOf (s.finish (.frag g e) h srcs written busy lat) g v l = laneOf s g v l := by
  have x1 := lastReads_step s (.frag g e) (lastReadRegs srcs) written
  have hv : ∀ w, w ∈ [v] → w ∉ (lastReadRegs srcs).filter fun v => !written.contains v := by
    intro w hw' hc
    simp only [List.mem_singleton] at hw'
    subst hw'
    simp [hw] at hc
  have n1 := hn.step x1 hv
  have x2 := addBusy_step (s.lastReads (.frag g e) (lastReadRegs srcs) written) (.frag g e) busy lat
  have n2 := n1.step x2 (by simp)
  have e1 := laneOf_step x1 (hv v (by simp)) (fun G hG => hn G hG v (by simp)) l
  have e2 := laneOf_step x2 (v := v) (by simp) (fun G hG => n1 G hG v (by simp)) l
  have k := retire_leaves ((s.lastReads (.frag g e) (lastReadRegs srcs) written).addBusy (.frag g e) busy lat) (.frag g e) h
  have e3 : laneOf (s.finish (.frag g e) h srcs written busy lat) g v l =
      laneOf ((s.lastReads (.frag g e) (lastReadRegs srcs) written).addBusy (.frag g e) busy lat) g v l := by
    unfold State.finish
    generalize (s.lastReads (.frag g e) (lastReadRegs srcs) written).addBusy (.frag g e) busy lat = u at *
    unfold laneOf
    cases hu : u.grps.get? g with
    | none =>
      have : (u.retire (.frag g e) h).grps.get? g = none := by
        unfold State.retire
        rw [goTo_frag_eq, grp_modGrp, if_pos rfl, hu]
        rfl
      rw [this]
    | some G =>
      obtain ⟨H, hH, _, hv, _⟩ := k.grp g e G rfl hu
      rw [hH]
      simp [Group.vlane, Group.vreg, hv v (by simp) (n2 G hu v (by simp))]
  rw [e3, e2, e1]

/-! The shapes. -/
theorem withRegs_room {s : State} {g e : Nat} {regs : List Nat} (hs : s.hasAgent (.frag g e) = true)
    (h : RoomFor s g regs) (k : State → State) : s.withRegs (.frag g e) regs k = k s := by
  obtain ⟨G, F, hG, _⟩ := hasAgent_group hs
  unfold State.withRegs
  simp only [hG]
  rw [if_pos]
  have := h G hG
  simpa using this

/-- Lane writes of a fragment's instruction that then retires (R14, R73). -/
theorem writeLanes_done {s t : State} {g e d : Nat} {wide : Bool} {h : Hdr} (hs : s.hasAgent (.frag g e) = true)
    (x : RegStep s t (.frag g e) [] [] []) (hx : ∀ v l, laneOf t g v l = laneOf s g v l) (srcs : List Opnd)
    (xs : List (Nat × W64)) (busy : List (Nat × Nat)) (lat : Nat) :
    VecDone s ((t.writeLanes (.frag g e) d wide xs).finish (.frag g e) h srcs (dstRegs d (if wide then 2 else 1)) busy lat)
      g e d wide (lastReadRegs srcs) xs := by
  have w := writeLanes_step t g e d wide xs
  have n := writeLanes_notLast t g e d wide xs
  have ht := x.place.hasAgent hs
  have f := finish_done ((x.trans w).mono (m1 := []) (m2 := []) (m3 := dstRegs d (if wide then 2 else 1)) (by simp) (by simp)
    (by simp)) h srcs (dstRegs d (if wide then 2 else 1)) busy lat
  refine ⟨fun l hl => ?_, fun hw l hl => ?_, f.1, f.2⟩
  · have hd : d ∈ dstRegs d (if wide then 2 else 1) := by cases wide <;> simp [dstRegs, List.range, List.range.loop]
    rw [finish_lane h srcs _ busy lat hd (fun G hG v hv => n G hG v (by simp only [List.mem_singleton] at hv; rw [hv]; exact hd)) l]
    rw [(writeLanes_lane t ht d wide xs l hl).1, hx]
  · subst hw
    have hd : d + 1 ∈ dstRegs d (if true then 2 else 1) := by simp [dstRegs, List.range, List.range.loop]
    rw [finish_lane h srcs _ busy lat hd (fun G hG v hv => n G hG v (by simp only [List.mem_singleton] at hv; rw [hv]; exact hd)) l]
    rw [(writeLanes_lane t ht d true xs l hl).2 rfl, hx]

theorem FreeOf.laneOf {s t : State} (x : FreeOf s t) (g v l : Nat) : laneOf t g v l = laneOf s g v l := by
  rw [x]
  rfl

/-- A per-lane instruction with a vector destination (R14, R73), where a lane takes part and the registers fit. -/
theorem vecOp_done {s : State} {g e : Nat} {h : Hdr} (hs : Runs s (.frag g e)) (d : Nat) (wide : Bool) (srcs : List Opnd)
    (aux : BitVec 6) (lat : Nat) (f : Mask → List (List W64) → List (Nat × W64))
    (hp : s.guardMask (.frag g e) h ≠ 0#64) (hr : RoomFor s g (dstRegs d (if wide then 2 else 1))) :
    VecDone s (vecOp s (.frag g e) h d wide srcs aux lat f) g e d wide (lastReadRegs srcs)
      (f (s.guardMask (.frag g e) h) (readSrcs s (.frag g e) aux srcs).1) := by
  unfold vecOp
  dsimp only
  rw [if_neg hp, withRegs_room hs.2 hr]
  have q := readSrcs_free (.frag g e) aux srcs s
  exact writeLanes_done hs.2 (q.step _) (q.laneOf g) srcs _ _ lat

theorem vecOp_skip {s : State} {a : Agent} {h : Hdr} (hp : s.guardMask a h = 0#64) (d : Nat) (wide : Bool) (srcs : List Opnd)
    (aux : BitVec 6) (lat : Nat) (f : Mask → List (List W64) → List (Nat × W64)) :
    OnlyRetires s (vecOp s a h d wide srcs aux lat f) a := by
  unfold vecOp
  dsimp only
  rw [if_pos hp]
  exact retire_only s a h

end Sys2Proof.Machine
end

