-- ==== Sys2Proof/Tests/Slice0.lean ====
section
/-! SUPPORT. Tests of the model on the manual's worked cases, ill-formed terms, and states that meet the premises of the
statements. -/
set_option maxRecDepth 4000
set_option Elab.async false
namespace Sys2Proof.Tests
open Sys2Proof Sys2Proof.Machine Sys2Proof.Claim

/-! Ill-formed terms, one for each check, with the sub-cause that R27 and R32 give. -/
/-- No operand, and forms without operands. -/
def no : Src := vreg 0
def noD : Dst := dreg .vec 0
def sp (n : Nat) : Src := { cls := .spec, idx := BitVec.ofNat 8 n, perm := 0#4 }
def eng (n : Nat) : Src := { cls := .eng, idx := BitVec.ofNat 8 n, perm := 0#4 }
/-- An unguarded header, and one guarded by p0. -/
def hd : Hdr := head 15
def hd0 : Hdr := head 0
/-- N, I, M, B, E and K forms with the operands given and every other field 0. -/
def nform (d : Dst) (a b c : Src) (ty : Ty) (op : Nat) : NForm :=
  { d := d, a := a, b := b, c := c, ty := ty, rnd := .rne, sat := false, aux := 0#6, op := BitVec.ofNat 5 op }
def iform (d : Dst) (a : Src) (imm : W32) (ty : Ty) (op : Nat) : IForm :=
  { d := d, a := a, imm := imm, ty := ty, sat := false, aux := 0#6, op := BitVec.ofNat 5 op }
def mform (d : Dst) (a b : Src) (size : Sz) (order : Order) (sub : Nat) : MForm :=
  { d := d, a := a, b := b, off := 0#20, size := size, scale := 0#2, order := order, scope := .grp, policy := .dflt,
    sub := BitVec.ofNat 3 sub }
def bform (d : Dst) (a : Src) (tgt rcv : Nat) : BForm :=
  { d := d, a := a, tgt := BitVec.ofNat 23 tgt, rcv := BitVec.ofNat 23 rcv, hint := 0#2, mbz := false }
def eform (d : Dst) (a b c : Src) (chan flags sub : Nat) : EForm :=
  { d := d, a := a, b := b, c := c, chan := BitVec.ofNat 5 chan, flags := BitVec.ofNat 8 flags, sub := BitVec.ofNat 8 sub }
def kform (d : Dst) (a b c : Src) (fmt : Nat) (kc bkind : Nat) : KForm :=
  { d := d, a := a, b := b, c := c, afmt := BitVec.ofNat 5 fmt, bfmt := BitVec.ofNat 5 fmt, kc := BitVec.ofNat 2 kc,
    hold := false, zacc := false, bkind := BitVec.ofNat 2 bkind, sub := 0#5 }
/-- A vector add with one thing changed. -/
def add (f : NForm → NForm) : Instr := .vAdd hd (f (nform (dreg .vec 3) (vreg 1) (vreg 2) no .s32 0))
theorem smoke_good : (add id).wf .vector = true := by decide +kernel
theorem smoke_stream : (add id).wf .keystone = false ∧ Instr.wf .keystone (.vAccrd hd (nform noD no no no .s32 0)) = false := by
  decide +kernel
theorem smoke_event : Instr.wf .vector .sweeperVisit = false := by decide +kernel
theorem smoke_class : (add fun f => { f with d := dreg .scl 3 }).check .vector = [1] := by decide +kernel
theorem smoke_index : (add fun f => { f with a := sreg 128 }).check .vector = [1] := by decide +kernel
theorem smoke_special : (add fun f => { f with a := sp 0x17 }).check .vector = [1] := by decide +kernel
theorem smoke_permutation : (add fun f => { f with a := { sreg 1 with perm := 3#4 } }).check .vector = [2] := by decide +kernel
theorem smoke_two_reps :
    (add fun f => { f with a := { vreg 1 with perm := 8#4 }, b := { vreg 2 with perm := 8#4 } }).check .vector = [2] := by
  decide +kernel
theorem smoke_aux : (add fun f => { f with aux := 5#6 }).check .vector = [3] := by decide +kernel
theorem smoke_type : (add fun f => { f with ty := .f32 }).check .vector = [3] := by decide +kernel
theorem smoke_round : (add fun f => { f with rnd := .rtz }).check .vector = [3] := by decide +kernel
theorem smoke_sat : (Instr.sAdd hd { nform (dreg .scl 1) (sreg 2) (sreg 3) no .s32 0 with sat := true }).check .vector = [3] := by
  decide +kernel
theorem smoke_op : (add fun f => { f with op := 1#5 }).check .vector = [3] := by decide +kernel
theorem smoke_unused : (add fun f => { f with c := vreg 4 }).check .vector = [4] := by decide +kernel
theorem smoke_odd_pair : (add fun f => { f with ty := .s64, b := vreg 4 }).check .vector = [5, 5] := by decide +kernel
theorem smoke_condition : (Instr.vCmp hd (nform (dreg .spec 2) (vreg 1) (vreg 2) no .b32 2)).check .vector = [3] := by decide +kernel
/-- A load with one thing changed. -/
noncomputable def load (f : MForm → MForm) : Instr := .vLd hd (f (mform (dreg .vec 8) (sreg 4) (vreg 2) .w .rlx 0))
theorem smoke_load : (load id).wf .vector = true := by decide +kernel
theorem smoke_base_pair : (load fun f => { f with a := sreg 5 }).check .vector = [5] := by decide +kernel
theorem smoke_quad : (load fun f => { f with size := .q, d := dreg .vec 6 }).check .vector = [5] := by decide +kernel
theorem smoke_order : (load fun f => { f with order := .rel }).check .vector = [3] := by decide +kernel
theorem smoke_space : (load fun f => { f with sub := 1#3 }).check .vector = [3] := by decide +kernel
theorem smoke_m_rep : (load fun f => { f with b := { vreg 2 with perm := 8#4 } }).check .vector = [2] := by decide +kernel
theorem smoke_size : (Instr.sLd hd (mform (dreg .scl 8) (sreg 4) no .q .rlx 0)).check .vector = [3] := by decide +kernel
theorem smoke_scale : (Instr.sLd hd { mform (dreg .scl 8) (sreg 4) no .w .rlx 0 with scale := 1#2 }).check .vector = [4] := by
  decide +kernel
theorem smoke_fence : (Instr.fence hd { mform noD no no .b .acq 0 with off := 8#20, policy := .stream }).check .vector = [4, 3] := by
  decide +kernel
theorem smoke_vector_base : (Instr.vLdc hd (mform (dreg .vec 8) (vreg 4) no .w .acq 0)).check .vector = [1] := by decide +kernel
/-- A branch with one thing changed. -/
noncomputable def branch (f : BForm → BForm) : Instr := .bra hd (f (bform noD no 12 18))
theorem smoke_branch : (branch id).wf .vector = true := by decide +kernel
theorem smoke_mbz : (branch fun f => { f with mbz := true }).check .vector = [4] := by decide +kernel
theorem smoke_link : (branch fun f => { f with d := dreg .scl 2 }).check .vector = [4] := by decide +kernel
theorem smoke_targets : (Instr.brx hd { bform noD (sreg 4) 12 0 with hint := 0#2 }).check .vector = [4] := by decide +kernel
theorem smoke_hint_and_rcv : (Instr.join hd { bform noD no 0 12 with hint := 1#2 }).check .vector = [4, 4] := by decide +kernel
/-- A copy with one thing changed. -/
noncomputable def copy (f : EForm → EForm) : Instr := .cp hd (f (eform (dreg .scl 10) (sreg 4) (sreg 6) (sreg 8) 3 0 0))
theorem smoke_copy : (copy id).wf .vector = true ∧ (copy id).wf .keystone = false := by decide +kernel
theorem smoke_channel : (copy fun f => { f with chan := 16#5 }).check .vector = [3] := by decide +kernel
theorem smoke_flags : (copy fun f => { f with flags := 0x20#8 }).check .vector = [3] := by decide +kernel
theorem smoke_sub : (copy fun f => { f with sub := 1#8 }).check .vector = [3] := by decide +kernel
/-- A tile operation with one thing changed. -/
noncomputable def tile (f : KForm → KForm) : Instr := .kMma hd (f (kform (dreg .eng 16) (eng 0) (sreg 40) no 8 1 0))
theorem smoke_tile : (tile id).wf .keystone = true := by decide +kernel
theorem smoke_accumulator : (tile fun f => { f with d := dreg .eng 0 }).check .keystone = [1] := by decide +kernel
theorem smoke_pairing : (tile fun f => { f with afmt := 2#5 }).check .keystone = [3] := by decide +kernel
theorem smoke_keep : (tile fun f => { f with sub := 1#5 }).check .keystone = [3] := by decide +kernel
theorem smoke_reserved_format : (tile fun f => { f with afmt := 28#5 }).check .keystone = [] ∧
    (tile fun f => { f with afmt := 28#5 }).wf .keystone = false := by decide +kernel
theorem smoke_k_unused : (Instr.kZero hd { kform (dreg .eng 16) no no no 0 0 0 with hold := true }).check .keystone = [4] := by
  decide +kernel
theorem smoke_trap_imm : (Instr.sysWr hd (iform noD (sreg 6) 0x1010#32 .s32 0)).check .vector = [4] := by decide +kernel

/-! The worked encodings by their bytes at ascending addresses (01, 03-08, 10, 13, 17, 19, 21 and 22 of spec/). -/
def bytes (xs : List Nat) : List Byte := xs.map (BitVec.ofNat 8)
/-- What a stream decodes at user privilege from 12 bytes. -/
noncomputable def read (st : Stream) (xs : List Nat) : Decoded := decode st false (wordOfBytes (bytes xs))
theorem test_bytes_add : read .vector [0x00, 0x00, 0x00, 0x00, 0x18, 0x01, 0x20, 0x80, 0x01, 0x08, 0x5E, 0x10] =
    .instr (.vAdd { hd with lra := true } (nform (dreg .vec 3) (vreg 1) { vreg 2 with perm := 3#4 } no .s32 0)) := by decide +kernel
theorem test_bytes_branch : read .vector [0x94, 0x00, 0x00, 0x30, 0x00, 0x00, 0x00, 0x00, 0x00, 0x00, 0x44, 0x70] =
    .instr (.bra (head 2) { bform noD no 12 18 with hint := 2#2 }) := by decide +kernel
theorem test_bytes_branch_bit5 : read .vector [0xB4, 0x00, 0x00, 0x30, 0x00, 0x00, 0x00, 0x00, 0x00, 0x00, 0x44, 0x70] =
    .instr (.bra (head 2) { bform noD no 12 22 with hint := 2#2 }) := by decide +kernel
theorem test_bytes_load : read .vector [0x60, 0x29, 0x20, 0x00, 0x00, 0x01, 0x80, 0x20, 0x04, 0x00, 0x5E, 0x80] =
    .instr (.vLd hd { mform (dreg .vec 8) (sreg 4) (vreg 2) .w .acq 0 with off := 0x40#20, scale := 2#2, scope := .pkg }) := by
  decide +kernel
theorem test_bytes_compare : read .vector [0x22, 0x00, 0xFE, 0xFF, 0xFF, 0xFF, 0xE1, 0x00, 0x01, 0x01, 0x5E, 0x20] =
    .instr (.vCmpImm hd (iform (dreg .spec 2) (vreg 7) 0xFFFFFFFF#32 .s32 2)) := by decide +kernel
theorem test_bytes_pack : read .vector [0x48, 0x13, 0x00, 0x12, 0x00, 0x01, 0x20, 0x80, 0x04, 0x00, 0x9E, 0x40] =
    .instr (.vPack hd { nform (dreg .vec 9) (vreg 1) (vreg 2) (vreg 9) .s32 8 with sat := true, aux := 13#6 }) := by decide +kernel
theorem test_bytes_shuffle : read .vector [0x01, 0x00, 0x0C, 0x1E, 0x84, 0x80, 0x80, 0x80, 0x02, 0x00, 0x5E, 0x50] =
    .instr (.vShfl hd (nform (dreg .vec 5) (vreg 4) (sreg 1) (sp 15) .b32 1)) := by decide +kernel
theorem test_bytes_waitcnt : read .vector [0x20, 0x00, 0x00, 0x7E, 0x3E, 0x1E, 0x00, 0x00, 0x00, 0x00, 0xDE, 0x73] =
    .instr (.waitcnt hd (iform noD no 0x0F1F3F00#32 .s32 0)) := by decide +kernel
theorem test_bytes_cas : read .vector [0x62, 0x27, 0x08, 0x00, 0x00, 0x04, 0x40, 0x00, 0x03, 0x00, 0x1E, 0x92] =
    .instr (.aCas hd { mform (dreg .vec 6) (vreg 2) (vreg 8) .w .acqrel 2 with off := 0x10#20, scale := 1#2, scope := .pkg }) := by
  decide +kernel
theorem test_bytes_wait_addr : read .vector [0x60, 0x21, 0x10, 0x00, 0x80, 0x85, 0x00, 0xA0, 0x86, 0x00, 0xDE, 0x94] =
    .instr (.waitAddr hd { mform (dreg .scl 13) (sreg 0) (sreg 11) .w .acq 0 with off := 0x20#20, scope := .pkg }) := by decide +kernel
theorem test_bytes_copy : read .vector [0x00, 0x18, 0x03, 0x10, 0x02, 0x83, 0x80, 0x20, 0x85, 0x00, 0x5E, 0xB0] =
    .instr (.cp hd (eform (dreg .scl 10) (sreg 4) (sreg 6) (sreg 8) 3 0x18 0)) := by decide +kernel
theorem test_bytes_xlat : read .vector [0x00, 0x00, 0x00, 0x0E, 0x84, 0x00, 0x80, 0x22, 0x05, 0x00, 0x0C, 0xC3] =
    .instr (.kvXlat (head 6) (nform (dreg .vec 10) (sreg 20) (vreg 1) (sp 7) .s32 0)) := by decide +kernel
theorem test_bytes_mma : read .keystone [0x80, 0x43, 0x08, 0x00, 0x00, 0x94, 0x00, 0x60, 0x88, 0x01, 0x5E, 0xD0] =
    .instr (.kMma hd { kform (dreg .eng 16) (eng 0) (sreg 40) no 8 1 0 with hold := true, zacc := true }) := by decide +kernel
theorem test_bytes_write_control : read .vector [0x20, 0x00, 0x20, 0x00, 0x00, 0x00, 0xC0, 0x20, 0x00, 0x00, 0x9E, 0xE0] =
    .instr (.sysWr hd (iform noD (sreg 6) 0x10#32 .s32 0)) := by decide +kernel
theorem test_bytes_dirrc : read .vector [0x01, 0x00, 0x00, 0x00, 0x00, 0x8B, 0x80, 0x22, 0x8F, 0x00, 0x1E, 0xE3] = .bad 3 0 := by
  decide +kernel
theorem test_table_word : decodeTableWord 96 0x105E08018020011800000000 =
    some (.vAdd { hd with lra := true } (nform (dreg .vec 3) (vreg 1) { vreg 2 with perm := 3#4 } no .s32 0)) := by decide +kernel

/-! One group of one fragment about to execute, its registers alike in every lane; p0 holds lane 0 alone. -/
def base : State := { State.reset.loadWord .vector [] with cur := some (.frag 0 0), issue := [] }
def lanes (xs : List W32) : List W32 := xs ++ List.replicate (64 - xs.length) 0#32
def withGroup (f : Group → Group) (s : State) : State := s.modGrp 0 f
def withRegs (rs : List (Nat × List W32)) (s : State) : State :=
  withGroup (fun G => { G with reg := rs.map (fun p => (p.1, lanes p.2)), preds := G.preds.set 0 1#64 }) s
def withScl (rs : List (Nat × W32)) (s : State) : State :=
  withGroup (fun G => { G with sreg := rs.foldl (fun l p => l.set p.1 p.2) G.sreg }) s
/-- The next state, or the state before. -/
def after (s : State) (o : Host.Outcome State Fault Refusal) : State :=
  match o with
  | .next t => t
  | _ => s
/-- Lane 0 of v9 after an instruction on v1, v2, v3 and v9. -/
noncomputable def lane9 (i : Instr) (a b c d : W32) : W32 :=
  let s := withRegs [(1, [a]), (2, [b]), (3, [c]), (9, [d])] base
  laneOf (after s (exec i s)) 0 9 0
def f9 (ty : Ty) : NForm := nform (dreg .vec 9) (vreg 1) (vreg 2) no ty 0

/-! Boundary values (03_instr_integer.md). -/
theorem test_add_wraps : lane9 (.vAdd hd0 (f9 .s8x4)) 0x7F800102#32 0x0180FF7F#32 0#32 0#32 = 0x80000081#32 := by decide +kernel
theorem test_add_clamps : lane9 (.vAdd hd0 { f9 .s8x4 with sat := true }) 0x7F800102#32 0x0180FF7F#32 0#32 0#32 = 0x7F80007F#32 := by
  decide +kernel
theorem test_div_overflow : lane9 (.vDiv hd0 (f9 .s32)) 0x80000000#32 0xFFFFFFFF#32 0#32 0#32 = 0x80000000#32 := by decide +kernel
theorem test_rem_sign : lane9 (.vRem hd0 (f9 .s32)) 0xFFFFFFF9#32 2#32 0#32 0#32 = 0xFFFFFFFF#32 := by decide +kernel
theorem test_div_zero : lane9 (.vDiv hd0 (f9 .n32)) 5#32 0#32 0#32 0#32 = 0xFFFFFFFF#32 := by decide +kernel
theorem test_sar_far : lane9 (.vSarImm hd0 (iform (dreg .vec 9) (vreg 1) 40#32 .s32 0)) 0x80000010#32 0#32 0#32 0#32 = 0xFFFFFFFF#32 := by
  decide +kernel
theorem test_rot_modulo : lane9 (.vRot hd0 (f9 .b32)) 0x80000001#32 33#32 0#32 0#32 = 3#32 := by decide +kernel
theorem test_bfe_signed : lane9 (.vBfe hd0 (f9 .s32)) 0xF00#32 0x408#32 0#32 0#32 = 0xFFFFFFFF#32 := by decide +kernel
theorem test_dot4_clamps : lane9 (.vDot4 hd0 { f9 .s8x4 with c := vreg 3, sat := true }) 0x80808080#32 0x80808080#32 0x7FFF0000#32 0#32 =
    0x7FFFFFFF#32 := by decide +kernel
theorem test_dot4_wraps : lane9 (.vDot4 hd0 { f9 .s8x4 with c := vreg 3 }) 0x80808080#32 0x80808080#32 0x7FFF0000#32 0#32 =
    0x80000000#32 := by decide +kernel
theorem test_abs_least : lane9 (.vAbs hd0 { f9 .s32 with b := no }) 0x80000000#32 0#32 0#32 0#32 = 0x80000000#32 := by decide +kernel

/-! Conversions and lane work (04_instr_float.md, 05_instr_lanes_hash_string.md). -/
theorem test_pack : lane9 (.vPack hd0 { nform (dreg .vec 9) (vreg 1) (vreg 2) (vreg 9) .s32 8 with sat := true, aux := 13#6 })
    0x43FA0000#32 0x3B800000#32 0#32 0x11223344#32 = 0x027E3344#32 := by decide +kernel
theorem test_pack_flags : (let s := withRegs [(1, [0x43FA0000#32]), (2, [0x3B800000#32])] base
    fpctlOf (after s (exec (.vPack hd0 { nform (dreg .vec 9) (vreg 1) (vreg 2) (vreg 9) .s32 8 with sat := true, aux := 13#6 }) s))
      (.frag 0 0)) = 0x140#32 := by decide +kernel
theorem test_scale : lane9 (.vScl hd0 { nform (dreg .vec 9) (vreg 1) no no .s32 0 with aux := 13#6 }) 0x40A00000#32 0#32 0#32 0#32 = 0x79#32 := by
  decide +kernel
theorem test_quantise : lane9 (.vQnt hd0 { nform (dreg .vec 9) (vreg 1) (vreg 2) no .s32 0 with aux := 13#6 }) 0x3E99999A#32 0x79#32 0#32 0#32 = 0x5A#32 := by
  decide +kernel
theorem test_dequantise : lane9 (.vDqnt hd0 { nform (dreg .vec 9) (vreg 1) (vreg 2) no .s32 0 with aux := 13#6 }) 0xFA#32 0x79#32 0#32 0#32 = 0xC0A00000#32 := by
  decide +kernel
theorem test_bf16_nearest : lane9 (.vCvt hd0 { nform (dreg .vec 9) (vreg 1) no no .s32 8 with aux := 11#6 }) 0x3F80A000#32 0#32 0#32 0#32 = 0x3F81#32 := by
  decide +kernel
/-- v.crc with an op on data in v1 and a running value in v2. -/
noncomputable def crc (op : Nat) (data c : W32) : W32 := lane9 (.vCrc hd0 (nform (dreg .vec 9) (vreg 1) (vreg 2) no .b32 op)) data c 0#32 0#32
theorem test_crc_check_value : crc 8 0x39#32 (crc 2 0x38373635#32 (crc 6 0x34333231#32 0#32)) = 0xE3069283#32 := by decide +kernel
/-- A run of the worked case of 05_instr_lanes_hash_string.md: v4 by lane. -/
def runs : State := withGroup (fun G => { G with
    reg := [(4, lanes [0x41#32, 0x41#32, 0x41#32, 0x42#32, 0#32, 0#32, 0x43#32, 0x43#32])], preds := (G.preds.set 0 0xFF#64).set 1 0x59#64,
    sreg := G.sreg.set 1 1#32 }) base
def lanesAfter (s : State) (o : Host.Outcome State Fault Refusal) (v n : Nat) : List W32 := (List.range n).map (laneOf (after s o) 0 v)
theorem test_shuffle_up : lanesAfter runs (exec (.vShfl hd0 (nform (dreg .vec 5) (vreg 4) (sreg 1) (sp 15) .b32 1)) runs) 5 8 =
    [0x41#32, 0x41#32, 0x41#32, 0x41#32, 0x42#32, 0#32, 0#32, 0x43#32] := by decide +kernel
theorem test_compact : lanesAfter runs (exec (.vCompact hd0 (nform (dreg .vec 8) (vreg 4) (sp 1) no .b32 0)) runs) 8 5 =
    [0x41#32, 0x42#32, 0#32, 0x43#32, 0#32] := by decide +kernel
theorem test_scan : (let s := withGroup (fun G => { G with reg := [(6, lanes [1#32, 0#32, 0#32, 1#32, 1#32, 0#32, 1#32, 0#32])] }) runs
    lanesAfter s (exec (.vScan hd0 (nform (dreg .vec 7) (vreg 6) no no .n32 0)) s) 7 8) =
    [1#32, 1#32, 1#32, 2#32, 3#32, 3#32, 4#32, 4#32] := by decide +kernel
def four : State := withGroup (fun G => { G with reg := [(1, lanes [0x4B800000#32, 0x3F800000#32, 0x3F800000#32, 0x3F800000#32])], preds := G.preds.set 0 0xF#64 }) base
theorem test_tree : lanesAfter four (exec (.vRed hd0 (nform (dreg .vec 2) (vreg 1) no no .f32 0)) four) 2 4 =
    List.replicate 4 0x4B800001#32 := by decide +kernel
theorem test_scan_float : lanesAfter four (exec (.vScan hd0 (nform (dreg .vec 3) (vreg 1) no no .f32 0)) four) 3 4 =
    List.replicate 4 0x4B800000#32 := by decide +kernel

/-! Numbers (02_numbers.md). -/
def image (xs : List Nat) : Nat := xs.foldr (fun x acc => acc * 256 + x) 0
/-- The value of an element of a matrix row, as an f32 encoding. -/
def asF32 (v : Option Val) : Nat := (v.map fun x => (encVal .f32 {} x).1).getD 0
theorem test_mx_element : asF32 (elemValue 20 32 (image ([0x38, 0xFE] ++ List.replicate 30 0 ++ [0x7C])) 0#32 0) = 0x3E000000 ∧
    asF32 (elemValue 20 32 (image ([0x38, 0xFE] ++ List.replicate 30 0 ++ [0x7C])) 0#32 1) = 0xC2600000 := by decide +kernel
theorem test_scale_sign_ignored : asF32 (elemValue 17 32 (image ([0x07] ++ List.replicate 15 0 ++ [0x30, 0])) 0#32 0) = 0x40400000 ∧
    asF32 (elemValue 17 32 (image ([0x07] ++ List.replicate 15 0 ++ [0xB0, 0])) 0#32 0) = 0x40400000 := by decide +kernel
theorem test_stochastic : (roundUnits .stoch 0x9FFFFF false 5 8).1 = 1 ∧ (roundUnits .stoch 0xA00000 false 5 8).1 = 0 := by decide +kernel
def shape (a b : Nat) (ty : Ty) : MmaShape := { ty := ty, afmt := a, bfmt := b, k := 32, ta := 0#32, tb := 0#32 }
theorem test_chunk_halves : (mmaSteps (shape 8 8 .f32) (image (List.replicate 32 0x30)) (image (List.replicate 32 0x38)) 0x4B800000).1.headD 0 =
    0x4B800008 := by decide +kernel
theorem test_chunk_cancels : (mmaSteps (shape 8 8 .f32) (image ([0x7E, 0xFE] ++ List.replicate 30 1)) (image ([0x7E, 0x7E] ++ List.replicate 30 1))
    0).1.headD 0 = 0x38F00000 := by decide +kernel
theorem test_chunk_saturates : mmaSteps (shape 4 4 .s32) (image (List.replicate 32 0 ++ [])) 0 0 = ([0], false) ∧
    mmaSteps (shape 4 4 .s32) ((List.range 32).foldl (fun x k => x + 0x8000 * 2 ^ (16 * k)) 0)
      ((List.range 32).foldl (fun x k => x + 0x8000 * 2 ^ (16 * k)) 0) 0 = ([0x7FFFFFFF], true) := by decide +kernel

/-! Places (16_store_and_residency.md): ALL, DIE 2 and QUAD 5. -/
theorem test_homes : placeHome 0 0 0x12345678 = 112 ∧ placeHome 1 2 0x12345678 = 176 ∧ placeHome 2 5 0x12345678 = 80 ∧
    chanHash 0x12345678 = 112 := by decide +kernel

/-! Translation (18_traps_faults_translation.md): the 64 KiB page of address space 7. -/
/-- Tables of address space 7: one table of each level, and the 16 replicas at indices 0x170 to 0x17F. -/
def tables : State := { State.reset with
  ctl := State.reset.ctl.set 0x030 (BitVec.ofNat 64 (0x10000000 + 16))
  mem := (List.range 16).foldl (fun m k => m.writeNat (0x20004B80 + 8 * k) 8 0x400000000A7C0117)
    (((((State.reset.mem.writeNat 0x10000038 8 0x20000001).writeNat 0x20000000 8 0x20001001).writeNat 0x20001000 8
      0x20002001).writeNat (0x20002000 + 8 * 0x108) 8 0x20003001).writeNat (0x20003000 + 8 * 0x099) 8 0x20004001) }
/-- What a user load of address space 7 gets: physical address, page size and grain. -/
def found (va : W64) : Option (Nat × Nat × Nat) :=
  match (tables.translate 7 false va .read).2 with
  | .ok x => some (x.pa, x.size, x.grain)
  | .error _ => none
theorem test_walk : found 0x0000004213375A40#64 = some (0x0A7C5A40, 65536, 128) := by decide +kernel
theorem test_walk_accessed : (tables.translate 7 false 0x0000004213375A40#64 .read).1.mem.readNat (0x20004000 + 0xBA8) 8 = 0x400000000A7C0157 := by
  decide +kernel

/-! Ring segments (24_device_health_power.md): last packet at store clock 100. -/
def ring (clk : Nat) (x : Segment) : State := State.setSegment { State.reset with clk := clk } 3 x
/-- Store clocks 164 and 167 are reached by clocks 217 and 221 (R3). -/
theorem test_ring_decides : (after (ring 217 (.powered 100)) (exec (.ringGateDecision 3) (ring 217 (.powered 100)))).segment 3 = .deciding 166 := by
  decide +kernel
theorem test_ring_cancelled : (after (ring 217 (.deciding 166)) (exec (.ringSegmentWake 3) (ring 217 (.deciding 166)))).segment 3 = .powered 164 := by
  decide +kernel
theorem test_ring_wakes : (after (ring 221 .gated) (exec (.ringSegmentWake 3) (ring 221 .gated))).segment 3 = .waking 207 := by decide +kernel

/-! The footprint gate (12_groups_fragments_scheduling.md): F at 14 with 310 victim hits, and at 12 with 63. -/
def gate (f hits : Nat) : State := { State.reset with clk := 65536, cores := State.reset.cores.set 0 { State.reset.core 0 with f := f, hits := hits } }
theorem test_gate_lowers : ((after (gate 14 310) (exec (.footprintReview 0) (gate 14 310))).core 0).f = 13 := by decide +kernel
theorem test_gate_raises : ((after (gate 12 63) (exec (.footprintReview 0) (gate 12 63))).core 0).f = 13 := by decide +kernel

/-! A contract (16_store_and_residency.md): entry 3, a PIN range of 64 MiB in quadrant 5. -/
def contract : State := { State.reset with
  ctl := ((State.reset.ctl.set 0x40D 0x43E00000#64).set 0x40E 0x6059#64).set 0x40F 0#64 }
theorem test_contract_moves : (after contract (exec (.contractInstall 3 0x40000001#64) contract)).ctlReg 0x40E = 0x01006059#64 := by decide +kernel

/-! Scalar and control instructions (03, 10). -/
theorem test_add_scalar : (after (withScl [(3, 5#32)] base) (exec (.sAddImm hd (iform (dreg .scl 3) (sreg 3) 1#32 .s32 0)) (withScl [(3, 5#32)] base))).sget
    (.frag 0 0) 3 = 6#32 := by decide +kernel
theorem test_pc_moves : (after base (exec (.nop hd (nform noD no no no .s32 0)) base)).pcOf (.frag 0 0) = 12#64 := by decide +kernel
theorem test_control_write : (let s := withScl [(6, 0x7D0#32)] base
    (after s (exec (.sysWr hd (iform noD (sreg 6) 0x10#32 .s32 0)) s)).ctlReg 0x010) = 0x7D0#64 := by decide +kernel
/-- One group whose fragment branches by p2 over lanes 0-7 (06_instr_control.md). -/
theorem test_branch_splits : (let s := withGroup (fun G => { G with preds := G.preds.set 2 0xFF#64 }) base
    let t := after s (exec (.bra (head 2) (bform noD no 12 18)) s)
    (t.maskOfAgent (.frag 0 0), t.pcOf (.frag 0 0), t.maskOfAgent (.frag 0 1), t.pcOf (.frag 0 1))) =
    (0xFF#64, 48#64, 0xFFFFFFFFFFFFFF00#64, 12#64) := by decide +kernel

/-! Fetching a placed word and executing it. -/
theorem test_step_runs : (match step (State.reset.withFetchWord 96 0x105E08018020011800000000) with
    | .next t => t.pcOf (.frag 0 0)
    | _ => 0#64) = 12#64 := by decide +kernel

/-! States and operands that meet the premises of the statements. -/
/-- A running Keystone context of the loaded task. -/
def ksBase : State := { State.reset.loadWord .keystone [] with cur := some (.ks 0), issue := [] }
theorem acts : Acts base (.frag 0 0) hd := ⟨⟨rfl, by decide +kernel⟩, by decide +kernel⟩
theorem acts_ks : Acts ksBase (.ks 0) hd := ⟨⟨rfl, by decide +kernel⟩, by decide +kernel⟩
theorem in_lanes : InLanes base 0 0 hd := ⟨acts.1, by decide +kernel⟩
/-- What holds of the value that an option has. -/
theorem all_of {α : Type} {o : Option α} {P : α → Prop} [DecidablePred P] (h : (o.all fun x => decide (P x)) = true) :
    ∀ x, o = some x → P x := by
  rintro x rfl; simpa using h
theorem room : RoomFor base 0 [9] := all_of (by decide +kernel)
theorem room_pair : RoomFor base 0 [10, 11] := all_of (by decide +kernel)
/-- Scalar operands s2, s3 and s4 of an N form. -/
def fs : NForm := nform (dreg .scl 1) (sreg 2) (sreg 3) (sreg 4) .s32 0
theorem regs : Regs fs := ⟨by decide, by decide, by decide⟩
theorem premises_ScalarResults : Acts base (.frag 0 0) hd ∧ Regs fs ∧ (iform (dreg .scl 1) (sreg 2) 5#32 .s64 0).a.cls ≠ .spec ∧
    (iform (dreg .scl 1) (sreg 2) 5#32 .s64 0).ty = .s64 := ⟨acts, regs, by decide, rfl⟩
theorem premises_ScalarDivision : Acts base (.frag 0 0) hd ∧ Regs fs ∧ fs.a.cls ≠ .spec := ⟨acts, regs, by decide⟩
theorem premises_ScalarCompareSelect : Acts base (.frag 0 0) hd ∧ Regs fs ∧ (nform (dreg .scl 1) (sreg 2) (sreg 3) no .b32 0).ty ≠ .n32 ∧
    (dreg .vec 1).cls = .vec ∧ (vreg 1).cls ≠ .scl := ⟨acts, regs, by decide, rfl, by decide⟩
theorem premises_SpecialReads : Acts base (.frag 0 0) hd ∧ (sp 15).idx.toNat < 16 ∧ (sp 0x20).idx = 0x20#8 ∧
    (∃ G T, base.grps.get? 0 = some G ∧ base.tasks.get? G.task = some T ∧ ((sp 0x10).idx.toNat, 0) ∈
      [(0x10, trailing (base.maskOfAgent (.frag 0 0)))]) ∧ Acts ksBase (.ks 0) hd ∧
    (∃ n T, (ksBase.ksCtx 0).task = some n ∧ ksBase.tasks.get? n = some T ∧ (sp 0x1F).idx.toNat = 0x1A + 5) ∧
    (sreg 1).cls ≠ .spec ∧ (sp 0x20).cls = .spec ∧ (dreg .scl 3).idx.toNat % 2 = 1 :=
  ⟨acts, by decide, by decide, ⟨_, _, rfl, rfl, by decide +kernel⟩, acts_ks, ⟨_, _, rfl, rfl, rfl⟩, by decide, rfl, rfl⟩
theorem premises_LaneMoves : Acts base (.frag 0 0) hd ∧ (sreg 3).cls ≠ .spec ∧ RoomFor base 0 [9] := ⟨acts, by decide, room⟩
theorem premises_VectorElements : InLanes base 0 0 hd ∧ RoomFor base 0 (dstRegs 9 1) ∧ RoomFor base 0 (dstRegs 10 2) ∧
    (iform (dreg .vec 9) (vreg 1) 1#32 .s32 0).ty ≠ .f64 := ⟨in_lanes, room, room_pair, by decide⟩
theorem premises_VectorFieldsAndSums : InLanes base 0 0 hd ∧ RoomFor base 0 (dstRegs 9 1) ∧ RoomFor base 0 (dstRegs 10 2) ∧
    Ty.width .s32 = 32 := ⟨in_lanes, room, room_pair, rfl⟩
theorem premises_VectorCarry : InLanes base 0 0 hd ∧ RoomFor base 0 [9] ∧ (sp 14).idx.toNat < 15 ∧ (sp 15).idx.toNat = 15 ∧
    (sreg 1).cls ≠ .spec ∧ 16 ≤ (sp 16).idx.toNat := ⟨in_lanes, room, by decide, rfl, by decide, by decide⟩
theorem premises_VectorSources : ∃ G, base.grps.get? 0 = some G ∧ G.frags.length ≤ 1 ∧ base.reqs = [] ∧ (vreg 1).cls = .vec ∧
    (sreg 1).cls = .scl ∧ (sp 0x10).cls = .spec ∧ (sp 0x10).idx = 0x10#8 := ⟨_, rfl, by decide, rfl, rfl, rfl, rfl, rfl⟩
/-- A partition whose registers are all mapped, none of the first group's being v9. -/
def spent : State :=
  let G := (base.grps.get? 0).getD (freshGroup 0 0 0 0 0#64 0#64 true 0 0)
  let full := fun (i n : Nat) => { G with idx := i, order := i, reg := (List.range n).map fun v => (v + 20, []) }
  { base with grps := (List.range 7).map fun i => (i, full i (if i = 0 then 32 else if i = 6 then 224 else 256)) }
theorem premises_VectorNeedsRegisters : InLanes spent 0 0 hd ∧ (∃ G, spent.grps.get? 0 = some G ∧ G.park = none ∧ G.st ≠ .parked) ∧
    ¬RoomFor spent 0 (dstRegs 9 1) :=
  ⟨⟨⟨rfl, by decide +kernel⟩, by decide +kernel⟩, ⟨_, rfl, rfl, by decide⟩, fun h => absurd (h _ rfl) (by decide +kernel)⟩
theorem premises_PredicateResults : InLanes base 0 0 hd ∧ Ty.width .b64 = 64 ∧ Ty.width .s32 = 32 ∧ (7#5).toNat ≤ 7 ∧ Ty.b64 ≠ .f64 :=
  ⟨in_lanes, rfl, rfl, by decide, by decide⟩
theorem premises_SelectsAndCounts : InLanes base 0 0 hd ∧ RoomFor base 0 (dstRegs 10 2) ∧ Acts base (.frag 0 0) hd :=
  ⟨in_lanes, room_pair, acts⟩
/-- Lane 0 holds 1.0, 0.0 and a quiet NaN in v1, v2 and v3; the second state traps invalid. -/
def floats : State := withRegs [(1, [0x3F800000#32]), (2, [0#32]), (3, [0x7FC00000#32])] base
def trapping : State := withGroup (fun G => { G with fpctl := 0x8000#32 }) floats
theorem in_floats : InLanes floats 0 0 hd0 ∧ InLanes trapping 0 0 hd0 :=
  ⟨⟨⟨rfl, by decide +kernel⟩, by decide +kernel⟩, ⟨rfl, by decide +kernel⟩, by decide +kernel⟩
def sumForm : FloatForm := elemForm 2 NForm.rnd (fun f env x => opAdd (Ty.ff f.ty) env (x 0) (x 1)) hd0 (nform (dreg .vec 9) (vreg 1) (vreg 2) no .f32 0)
def quotForm : FloatForm := elemForm 2 NForm.rnd (fun f env x => opDiv (Ty.ff f.ty) env (x 0) (x 1)) hd0 (nform (dreg .vec 9) (vreg 2) (vreg 2) no .f32 0)
theorem premises_FloatResults : InLanes floats 0 0 hd0 ∧ RoomFor floats 0 (dstRegs sumForm.d 1) ∧
    trapLanes (fpctlOf floats (.frag 0 0)) (sumForm.result floats 0 0 hd0).flags = 0#64 :=
  ⟨in_floats.1, all_of (by decide +kernel), by decide +kernel⟩
theorem premises_FloatTraps : InLanes trapping 0 0 hd0 ∧ RoomFor trapping 0 (dstRegs quotForm.d 1) ∧
    trapLanes (fpctlOf trapping (.frag 0 0)) (quotForm.result trapping 0 0 hd0).flags ≠ 0#64 :=
  ⟨in_floats.2, all_of (by decide +kernel), by decide +kernel⟩
/-- The values that v.fcmp of v1 and v3 compares. -/
def vals (s : State) (v : Nat) : Nat → W64 := fun l => (laneOf s 0 v l).setWidth 64
theorem premises_FloatCompares : InLanes floats 0 0 hd0 ∧ invalidLanes floats 0 0 hd0 .f32 2 (vals floats 1) (vals floats 2) = [] ∧
    invalidLanes trapping 0 0 hd0 .f32 2 (vals trapping 1) (vals trapping 3) ≠ [] ∧ (fpctlOf trapping (.frag 0 0)).getLsbD 15 = true :=
  ⟨in_floats.1, by decide +kernel⟩
theorem premises_RoundingAndNans : (2 ∣ 6 ∧ 2 * (3 % 2) = 2) ∧ (decVal .f32 false 0x7FC00000).isNan = true ∧
    (decVal .f32 false 0x3F800000).isNan = false ∧ (decVal .f32 false 0x7F800000).isInf = true :=
  ⟨⟨by decide, by decide⟩, by decide +kernel⟩
theorem premises_Generator : Acts base (.frag 0 0) hd ∧ InLanes base 0 0 hd ∧ RoomFor base 0 [9] ∧
    fieldNat (word 0x41C00000#32 0#32 4#32) 86 10 = 0x107 ∧ fieldNat (word 0x41C00000#32 0#32 4#32) 0 5 = 4 :=
  ⟨acts, in_lanes, room, by decide +kernel, by decide +kernel⟩
theorem premises_LaneExchange : InLanes base 0 0 hd ∧ RoomFor base 0 (dstRegs 9 1) ∧ RoomFor base 0 (dstRegs 10 2) ∧ (2#5).toNat ≤ 2 :=
  ⟨in_lanes, room, room_pair, by decide⟩
theorem premises_HashAndStrings : InLanes base 0 0 hd ∧ RoomFor base 0 (dstRegs 9 1) ∧ RoomFor base 0 (dstRegs 10 2) :=
  ⟨in_lanes, room, room_pair⟩
theorem premises_FalseGuards : Runs base (.frag 0 0) ∧ base.guardMask (.frag 0 0) (head 14) = 0#64 ∧ base.stOf (.frag 0 0) = .ready ∧
    Runs ksBase (.ks 0) ∧ ksBase.guardMask (.ks 0) (head 14) = 0#64 ∧ ksBase.stOf (.ks 0) = .ready :=
  ⟨acts.1, by decide +kernel, by decide +kernel, acts_ks.1, by decide +kernel, by decide +kernel⟩
theorem all_take : AllTake base (.frag 0 0) hd ∧ AllTake ksBase (.ks 0) hd :=
  ⟨⟨acts, fun g e h => by injection h with h1 h2; subst h1; subst h2; decide +kernel⟩, acts_ks, fun _ _ h => nomatch h⟩
theorem premises_BranchesWhole : AllTake base (.frag 0 0) hd ∧ AllTake ksBase (.ks 0) hd ∧ RoomFor base 0 [10, 11] ∧
    (pair base (.frag 0 0) (sreg 4)).toNat % 4 = 0 ∧
    (∀ l < 64, (base.maskOfAgent (.frag 0 0)).getLsbD l → src base 0 0 [⟨vreg 2, true, false⟩] 0#6 0 l = 0#64) ∧
    Acts (withScl [(4, 2#32)] base) (.frag 0 0) hd ∧ (pair (withScl [(4, 2#32)] base) (.frag 0 0) (sreg 4)).toNat % 4 ≠ 0 :=
  ⟨all_take.1, all_take.2, room_pair, by decide +kernel, by decide +kernel, ⟨⟨rfl, by decide +kernel⟩, by decide +kernel⟩, by decide +kernel⟩
theorem alone : ∃ G F, Alone base 0 0 G F ∧ G.fuses = [] ∧ G.leases = [] ∧ G.partials = [] ∧ G.lost = none ∧ F.st = .ready ∧
    base.guardMask (.frag 0 0) hd = F.mask := ⟨_, _, ⟨rfl, rfl, rfl, by decide, rfl, rfl, by decide⟩, rfl, rfl, rfl, rfl, rfl, by decide +kernel⟩
theorem alone_floats : ∃ G F, Alone floats 0 0 G F ∧ G.fuses = [] ∧ F.st = .ready ∧ F.pc = 0#64 ∧ floats.guardMask (.frag 0 0) hd0 ≠ F.mask ∧
    floats.guardMask (.frag 0 0) hd0 ≠ 0#64 :=
  ⟨_, _, ⟨rfl, rfl, rfl, by decide, rfl, rfl, by decide⟩, rfl, rfl, rfl, by decide +kernel, by decide +kernel⟩
theorem premises_BranchSplits : (∃ G F, Alone floats 0 0 G F ∧ G.fuses = [] ∧ F.st = .ready ∧ F.pc = 0#64 ∧
    floats.guardMask (.frag 0 0) hd0 ≠ F.mask ∧ floats.guardMask (.frag 0 0) hd0 ≠ 0#64) ∧ target floats (.frag 0 0) 12#23 = 48#64 ∧
    target floats (.frag 0 0) 18#23 = 72#64 := ⟨alone_floats, by decide +kernel, by decide +kernel⟩
/-- A group of two fragments, the first waiting. -/
def halves (st : FragState) (pc : W64) (r : Option Nat) (fuses : Assoc FuseRec) : State :=
  withGroup (fun G => { G with fuses := fuses, frags := G.frags.flatMap fun p =>
    [(0, { p.2 with mask := 0xFFFFFFFF#64, st := st, pc := pc, record := r }), (1, { p.2 with mask := 0xFFFFFFFF00000000#64, record := r })] })
    { base with cur := some (.frag 0 1) }
def fuse0 : FuseRec := { addr := 12#64, mask := BitVec.allOnes 64, outer := none }
theorem premises_FragmentsMerge : (∃ G F1 F2, (halves .fuseWait 12#64 (some 0) [(0, fuse0)]).grps.get? 0 = some G ∧ G.frags = [(0, F1), (1, F2)] ∧
      F1.st = .fuseWait ∧ F1.record = some 0 ∧ F2.record = some 0 ∧ F1.mask ≠ F1.mask ||| F2.mask ∧ F2.mask ≠ F1.mask ||| F2.mask ∧
      G.fuses = [(0, { addr := F2.pc + 12#64, mask := F1.mask ||| F2.mask, outer := none })] ∧ F1.pc = F2.pc + 12#64) ∧
    (∃ G F1 F2, (halves .joinWait 0#64 none []).grps.get? 0 = some G ∧ G.frags = [(0, F1), (1, F2)] ∧ F1.st = .joinWait ∧ F1.pc = F2.pc) :=
  ⟨⟨_, _, _, rfl, rfl, rfl, rfl, rfl, by decide +kernel⟩, _, _, _, rfl, rfl, rfl, rfl⟩
theorem premises_LanesExit : (∃ G F, Alone floats 0 0 G F ∧ G.fuses = [] ∧ F.st = .ready ∧ F.pc = 0#64 ∧
      floats.guardMask (.frag 0 0) hd0 ≠ F.mask ∧ floats.guardMask (.frag 0 0) hd0 ≠ 0#64) ∧
    (∃ G F, Alone base 0 0 G F ∧ G.fuses = [] ∧ G.leases = [] ∧ G.partials = [] ∧ G.lost = none ∧ F.st = .ready ∧
      base.guardMask (.frag 0 0) hd = F.mask) ∧ (∃ T, base.tasks.get? 0 = some T ∧ T.ks = none ∧ T.share = none) ∧ Acts ksBase (.ks 0) hd :=
  ⟨alone_floats, alone, ⟨_, rfl, rfl, rfl⟩, acts_ks⟩
theorem premises_Pauses : Runs base (.frag 0 0) ∧ Acts base (.frag 0 0) hd ∧ base.stOf (.frag 0 0) = .ready ∧ Acts ksBase (.ks 0) hd ∧
    ksBase.stOf (.ks 0) = .ready := ⟨acts.1, acts, by decide +kernel, acts_ks, by decide +kernel⟩
theorem premises_Barriers : Acts (withScl [(4, 1025#32), (5, 128#32), (6, 64#32)] base) (.frag 0 0) hd ∧
    (let s := withScl [(4, 1025#32), (5, 128#32), (6, 64#32)] base
     s.quiet (.frag 0 0) = true ∧ s.stOf (.frag 0 0) = .ready ∧ (sreg 4).isZero = false ∧ (reg s (.frag 0 0) (sreg 4)).toNat = 1025 ∧
        (reg s (.frag 0 0) (sreg 0)).toNat = 0 ∧ (reg s (.frag 0 0) (sreg 5)).toNat = 128 ∧ (reg s (.frag 0 0) (sreg 6)).toNat = 64 ∧
        ones (s.guardMask (.frag 0 0) hd) = 64 ∧ (s.tasks.get? 0).map (fun T => ((T.bar 15).expected, (T.bar 15).arrivals)) = some (none, 0)) :=
  ⟨⟨⟨rfl, by decide +kernel⟩, by decide +kernel⟩, by decide +kernel⟩
/-- A group that arrived at barrier 3 in its open phase, with one load outstanding. -/
def arrived : State := withGroup (fun G => { G with barArr := [(3, 0)], ld := 1 }) base
theorem premises_Waits : Acts base (.frag 0 0) hd ∧ base.barrierOpen 0 3 = false ∧ Acts arrived (.frag 0 0) hd ∧ arrived.barrierOpen 0 3 = true ∧
    base.ldOf (.frag 0 0) ≤ ((0x0F1F3F00#32).extractLsb' 0 6).toNat ∧ ¬arrived.ldOf (.frag 0 0) ≤ ((0x0F1F3F00#32).extractLsb' 0 6).toNat :=
  ⟨acts, by decide +kernel, ⟨⟨rfl, by decide +kernel⟩, by decide +kernel⟩, by decide +kernel⟩
/-- TRAPVEC selects 0x12; and a group in its handler. -/
def vectored : State := base.setCtl 0x00A 0x10080#64
def handling : State := withGroup (fun G => { G with trapst := 0x312#32, frags := G.frags.map fun p => (p.1, { p.2 with handler := true }) }) base
theorem premises_TrapsAndReturn : Acts vectored (.frag 0 0) hd ∧ Handles vectored 0 7 ∧ base.trapvec.getLsbD 7 = false ∧ Acts ksBase (.ks 0) hd ∧
    (∃ G F, Alone handling 0 0 G F ∧ handling.guardMask (.frag 0 0) hd ≠ 0#64 ∧ F.sup = true ∧ F.handler = true ∧ G.trapst.getLsbD 9 = true) :=
  ⟨⟨⟨rfl, by decide +kernel⟩, by decide +kernel⟩, ⟨by decide +kernel, all_of (by decide +kernel)⟩, by decide +kernel, acts_ks,
    _, _, ⟨rfl, rfl, rfl, by decide, rfl, rfl, by decide⟩, by decide +kernel, rfl, rfl, by decide +kernel⟩
/-- Scratch of 16 KiB, a data page at virtual address 0x1000 that may be read and written, s4:s5 naming it, and s6 = 2. -/
def data : State := withScl [(4, 0x1000#32), (6, 2#32)] { withRegs [] base with
  mem := base.mem.writeNat (loadTables + 0x5008) 8 (0x60000000 + 0xC7)
  tasks := base.tasks.map fun p => (p.1, { p.2 with scratch := 16384 }) }
theorem acts_data : Acts data (.frag 0 0) hd ∧ InLanes data 0 0 hd := ⟨⟨⟨rfl, by decide +kernel⟩, by decide +kernel⟩, ⟨rfl, by decide +kernel⟩, by decide +kernel⟩
/-- The conditions of `Passes` as a check. -/
def passing (s : State) (a : Agent) (m : MemSpec) : Bool :=
  let (u, ps, bad) := s.addressPhase a m m.lanes
  bad.isEmpty && (u.waitsOf a m ps).isEmpty && (u.replyFaults a m.op ps).isEmpty && ps.all fun p => !p.loc.remote
theorem passes_of {s : State} {a : Agent} {m : MemSpec} (h : passing s a m = true) : ∃ s1 ps us, Passes s s1 a m ps us := by
  simp only [passing, Bool.and_eq_true, List.isEmpty_iff, List.all_eq_true, Bool.not_eq_true'] at h
  exact ⟨_, _, _, _, _, Prod.ext rfl (Prod.ext rfl h.1.1.1), h.1.1.2, h.1.2, h.2, rfl, rfl, rfl⟩
theorem faults_of {s : State} {a : Agent} {m : MemSpec} (h : (s.addressPhase a m m.lanes).2.2 ≠ []) :
    ∃ s1 ps f fs, s.addressPhase a m m.lanes = (s1, ps, f :: fs) := by
  obtain ⟨f, fs, e⟩ := List.exists_cons_of_ne_nil h
  exact ⟨_, _, f, fs, Prod.ext rfl (Prod.ext rfl e)⟩
/-- A scratch load by lanes, a scalar store, an atomic, and a misaligned scratch load. -/
def ldsForm : MForm := mform (dreg .vec 9) (vreg 1) no .w .rlx 1
def stForm : MForm := mform (dreg .scl 8) (sreg 4) no .w .rel 0
def addForm : MForm := { mform (dreg .vec 9) (sreg 4) no .w .acqrel 2 with scope := .pkg }
/-- The conditions of `MemReady` for the fragment as a check. -/
def readyFor (s : State) (m : MemSpec) : Bool :=
  s.stOf (.frag 0 0) == .ready && s.reqs.isEmpty && (if m.op.inLd then decide (s.ldOf (.frag 0 0) < 63) else decide (s.stcOf (.frag 0 0) < 63)) &&
    (s.offAcksOf (.frag 0 0) == 0 && (s.lostOf (.frag 0 0)).isNone) && (s.grps.get? 0).all fun G => decide (G.frags.length ≤ 1) &&
      (((resultRegs m).filter fun v => (G.reg.get? v).isNone).length == 0 || s.canMap 0 ((resultRegs m).filter fun v => (G.reg.get? v).isNone).length)
theorem ready_of {s : State} {m : MemSpec} (h : readyFor s m = true) : MemReady s (.frag 0 0) m := by
  simp only [readyFor, Bool.and_eq_true, beq_iff_eq, List.isEmpty_iff, Option.isNone_iff_eq_none, Option.all_eq_true, Bool.or_eq_true,
    decide_eq_true_eq] at h
  refine ⟨h.1.1.1.1, h.1.1.1.2, ?_, fun _ _ => h.1.2, fun g e he => ?_⟩
  · have := h.1.1.2
    split at this <;> rename_i c <;> simp only [c] <;> simpa using this
  · injection he with h1 h2
    subst h1
    exact ⟨fun G hG => (h.2 G hG).2, fun G hG => (h.2 G hG).1⟩
def ldsSpec : MemSpec := vecSpec data 0 0 hd ldsForm .load .scratch true
def oddSpec : MemSpec := vecSpec data 0 0 hd { ldsForm with off := 1#20 } .load .scratch true
def stSpec : MemSpec := scalarSpec data (.frag 0 0) stForm .store
def addSpec : MemSpec := atomSpec data 0 0 hd0 addForm 1 true
theorem ready_specs : readyFor data ldsSpec = true ∧ readyFor data stSpec = true ∧ readyFor data addSpec = true := by decide +kernel
theorem passing_specs : passing data (.frag 0 0) ldsSpec = true ∧ passing data (.frag 0 0) stSpec = true := by decide +kernel
theorem passing_atomic : passing data (.frag 0 0) addSpec = true := by decide +kernel
theorem faulting_spec : (data.addressPhase (.frag 0 0) oddSpec oddSpec.lanes).2.2 ≠ [] := by decide +kernel
theorem premises_MemoryInstructions : Runs data (.frag 0 0) ∧ data.guardMask (.frag 0 0) hd ≠ 0#64 ∧ data.guardMask (.frag 0 0) hd0 ≠ 0#64 ∧
    MemReady data (.frag 0 0) ldsSpec ∧ (∃ s1 ps us, Passes data s1 (.frag 0 0) ldsSpec ps us) ∧
    MemReady data (.frag 0 0) stSpec ∧ (∃ s1 ps us, Passes data s1 (.frag 0 0) stSpec ps us) ∧
    MemReady data (.frag 0 0) addSpec ∧ (∃ s1 ps us, Passes data s1 (.frag 0 0) addSpec ps us) ∧
    ∃ s1 ps f fs, data.addressPhase (.frag 0 0) oddSpec oddSpec.lanes = (s1, ps, f :: fs) :=
  ⟨acts_data.2.1, acts_data.2.2, by decide +kernel, ready_of ready_specs.1, passes_of passing_specs.1, ready_of ready_specs.2.1, passes_of passing_specs.2,
    ready_of ready_specs.2.2, passes_of passing_atomic, faults_of faulting_spec⟩
/-- The conditions of `Plain` as a check. -/
def plain (s : State) : Bool := decide (s.heldTrees = []) && decide (s.swatches = []) && s.mem.wf && decide (s.lines.length + 128 ≤ sliceLines)
theorem plain_of {s : State} (h : plain s = true) : Claim.Plain s := by
  simp only [plain, Bool.and_eq_true, decide_eq_true_eq] at h
  exact ⟨h.1.1.1, h.1.1.2, h.1.2, fun _ => Nat.le_trans (Nat.add_le_add_right (List.length_filter_le _ _) _) h.2⟩
/-- Where no line is held nothing conflicts. -/
theorem no_conflict {s : State} (hd : s.dir = []) (hg : ∀ p ∈ s.grps, p.2.leases = []) (who : W32) (w : Bool) (pa n : Nat) :
    s.dirConflict who w pa n = false := by
  have h : ∀ l, s.leaseHolder l = none := fun l => by
    simp only [State.leaseHolder, Option.map_eq_none_iff, List.find?_eq_none]
    intro p hp
    simp [hg p hp]
  simp [State.dirConflict, State.halfConflict, State.holderId, h, hd, Assoc.get?]
theorem dir_room {s : State} (h : s.dir = []) (x : Nat) : s.dirRoom x = (s, true) := by
  simp [State.dirRoom, State.dirLines, h, dirEntries]
theorem data_free : ∀ who w pa n, data.dirConflict who w pa n = false := no_conflict rfl (by decide +kernel)
/-- Two teams of a sharing group: task 0 in slot 0 and task 1 in slot 3. -/
def sharing : State :=
  let T := (data.tasks.get? 0).getD (freshTask 0 0 [] 0 0 0)
  { data with tasks := [(0, { T with share := some (5, 0) }), (1, { T with share := some (5, 3) })]
              clus := data.clus.set 0 { data.clu 0 with shares := [(5, [(0, 0), (3, 1)], 4)] } }
/-- Bank 0 of the team, between two roles. -/
def switchingBank : State :=
  let T := (data.tasks.get? 0).getD (freshTask 0 0 [] 0 0 0)
  { data with tasks := [(0, { T with banks := [0] })]
              cores := data.cores.set 0 { data.core 0 with banks := [(0, { emptyBank with role := .switching 0, holder := some 0 })] } }
theorem premises_AddressPhase : (∀ T, data.taskOf (.frag 0 0) = some T → T.maps = [] ∧ T.share = none) ∧ data.taskIdOf (.frag 0 0) = some 0 ∧
    sharing.taskIdOf (.frag 0 0) = some 0 ∧ (sharing.taskOf (.frag 0 0)).map (·.share) = some (some (5, 0)) ∧
    (∀ q ∈ (sharing.shareOf (sharing.cluOf (.frag 0 0)) 5).1, q.1 ≠ 2 ^ 20 / 524288) ∧
    (((sharing.shareOf (sharing.cluOf (.frag 0 0)) 5).1.find? fun q => q.1 == 3 * 524288 / 524288) = some (3, 1)) ∧
    (sharing.tasks.get? 1).map (·.st) = some .resident ∧ (1 : Int) % 4 ≠ 0 ∧ (-4 : Int) % 4 = 0 ∧ (16380 : Int) % 4 = 0 ∧ (2 : Int) ^ 23 % 4 = 0 ∧
    data.swatches = [] ∧ switchingBank.switchingAt ((switchingBank.taskOf (.frag 0 0)).getD (freshTask 0 0 [] 0 0 0)) 0 = true :=
  ⟨all_of (by decide +kernel), by decide +kernel⟩
/-- The walk of `Walks` as a check. -/
def walking (s : State) (va : Nat) (P : Nat → Nat → W64 → Bool) : List Nat → Nat → Bool
  | [], _ => false
  | l :: rest, table => match pteKind l (s.pteAt (table + 8 * levelIndex l va)) with
    | .pointer b => walking s va P rest b
    | _ => P l (table + 8 * levelIndex l va) (s.pteAt (table + 8 * levelIndex l va))
theorem walks_of {s : State} {va : Nat} {P : Nat → Nat → W64 → Bool} {Q : Nat → Nat → W64 → Prop}
    (hPQ : ∀ l p v, P l p v = true → Q l p v) (ls : List Nat) : ∀ t, walking s va P ls t = true → Walks s va Q ls t := by
  induction ls with
  | nil => intro t h; simp [walking] at h
  | cons l rest ih =>
    intro t h
    simp only [walking] at h
    unfold Walks
    cases e : pteKind l (s.pteAt (t + 8 * levelIndex l va)) <;> simp only [e] at h ⊢ <;> first | exact ih _ h | exact hPQ _ _ _ h
theorem premises_Translation : data.ptes = [] ∧ data.xhist = [] ∧ data.swatches = [] ∧ data.heldTrees = [] ∧
    (∀ who w pa n, data.dirConflict who w pa n = false) ∧ data.mem.wf = true ∧ Canonical true 0x1000#64 ∧
    WalksFromRoot data 0 0x1000 (fun l p x => (l, p, x) = (1, loadTables + 0x5008, 0x600000C7#64) ∧ pteKind l x = .leaf) ∧
    pteSz 0x600000C7#64 = 0 ∧ listed (leafPa 1 0x600000C7#64 0x1000) = true ∧
    data.leafCheck 0x600000C7#64 (leafPa 1 0x600000C7#64 0x1000) 0x1000 .write true = none ∧
    (∀ k < 8, data.ftAddr (leafPa 1 0x600000C7#64 0x1000) ≠ some (loadTables + 0x5008 + k)) ∧
    data.leafCheck 0x600000C7#64 (leafPa 1 0x600000C7#64 0x1000) 0x1000 .fetch true = some 6 ∧
    WalksFromRoot data 0 0x2000 (fun l _ x => l = 1 ∧ pteKind l x = .bad false) :=
  ⟨rfl, rfl, rfl, by decide +kernel, data_free, by decide +kernel, .inl (by decide),
    ⟨by decide +kernel, by decide +kernel, by decide +kernel, walks_of (P := fun l p x => decide ((l, p, x) = (1, loadTables + 0x5008, 0x600000C7#64) ∧ pteKind l x = .leaf))
      (fun _ _ _ h => by simpa using h) _ _ (by decide +kernel)⟩, by decide +kernel, by decide +kernel, by decide +kernel, by decide +kernel, by decide +kernel,
    ⟨by decide +kernel, by decide +kernel, by decide +kernel, walks_of (P := fun l _ x => decide (l = 1 ∧ pteKind l x = .bad false))
      (fun _ _ _ h => by simpa using h) _ _ (by decide +kernel)⟩⟩
/-- A request of the fragment for one word of the data page. -/
def oneReq (op : ReqOp) (order : Order) (got : Option (List Byte)) (dst : Option (Cls × Nat)) : Req :=
  { agent := .frag 0 0, who := data.agentId (.frag 0 0), sup := true, fmask := BitVec.allOnes 64, core := 0, pc := 0#64, op := op,
    lanes := [{ lane := 0, off := 0, loc := .mem 0x60000000 32 .dflt, size := 4, va := 0x1000#64, data := bytes [1, 2, 3, 4], cmp := bytes [0, 0, 0, 0],
                sent := false, got := got }],
    dst := dst, regs := 1, part := 1#64, one := true, order := order, scope := .pkg, vis := 0, seen := 0, blocking := false, overwritten := [] }
def withReqs (rs : Assoc Req) : State := { data with reqs := rs }
theorem premises_MemoryOrder : (let s := withReqs [(3, oneReq .load .rlx none none), (4, oneReq .store .rel none none)]
    (∃ q ∈ s.olderThan 4 (oneReq .store .rel none none), q.op.inLd = true ∧ ∃ u ∈ q.lanes, u.got = none ∧
      Place.overlap u.loc u.size (.mem 0x60000000 32 .dflt) 4 = true) ∧ (oneReq .store .rel none none).op.writes = true ∧ releases .rel = true ∧ ReqOp.load.writes = false ∧
    ∃ r, s.reqs.get? 4 = some r ∧ ∀ p ∈ r.lanes, s.orderAllows 4 r p = false) :=
  ⟨⟨oneReq .load .rlx none none, by decide +kernel, rfl, _, List.mem_singleton.2 rfl, rfl, by decide +kernel⟩, rfl, rfl, rfl, _, rfl, by decide +kernel⟩
theorem unit_of (op : ReqOp) (h : (withReqs [(3, oneReq op .rlx none none)]).dirConflict (data.agentId (.frag 0 0)) op.writes 0x60000000 4 = false) :
    ∃ r p, OneUnit (withReqs [(3, oneReq op .rlx none none)]) 3 r p 0x60000000 ∧ r.op = op ∧ p.size = 4 ∧ p.data.length = p.size ∧ p.cmp.length = p.size :=
  ⟨_, _, ⟨rfl, rfl, rfl, rfl, ⟨_, _, rfl⟩, by decide +kernel, by decide, h, rfl, rfl, rfl, rfl, fun _ _ => rfl⟩, rfl, rfl, rfl, rfl⟩
theorem premises_HomeServes : (∀ op ∈ [ReqOp.load, .store, .atom 1 .s32 true, .atom 9 .n32 true, .atom 13 .n32 false], ∃ r p,
    OneUnit (withReqs [(3, oneReq op .rlx none none)]) 3 r p 0x60000000 ∧ r.op = op ∧ p.size = 4 ∧ p.data.length = p.size ∧
      p.cmp.length = p.size) ∧ data.mem.wf = true ∧ data.hasAgent (.frag 0 0) = true ∧
    { oneReq .load .rlx none none with place := 1 }.place < 2 ∧ data.dirConflict (data.agentId (.frag 0 0)) true 0x60000000 128 = false ∧
    data.dirRoom (2 * (0x60000000 / 128)) = (data, true) ∧
    (let s : State := { withReqs [(3, oneReq .store .rlx none none), (4, oneReq .store .rlx none none)] with homeQ := [(0x1800000, .req 3)] }
     ∃ r p gr pol, s.reqs.get? 4 = some r ∧ r.lanes = [p] ∧ p.loc = .mem 0x60000000 gr pol ∧ s.queuedAhead (.req 4) 0x60000000 p.size = true) ∧
    ({ data with dir := [(0x1800000, { st := 3, owner := some 9#32, sharers := [], asked := [], deadline := 0, whole := false, used := 0 })] } : State).dirConflict 0#32 true 0x60000000 4 = true :=
  ⟨fun op h => unit_of op (by revert op; decide +kernel), by decide +kernel, by decide +kernel, by decide, data_free _ _ _ _, dir_room rfl _,
    ⟨_, _, _, _, rfl, rfl, rfl, by decide +kernel⟩, by decide +kernel⟩
theorem premises_Results : (∃ r, (withReqs [(3, oneReq .load .rlx (some (bytes [5, 6, 7, 8])) (some (.vec, 9)))]).reqs.get? 3 = some r ∧
      r.agent = .frag 0 0 ∧ r.op = .load ∧ Req.served r = true ∧ r.dst = some (.vec, 9)) ∧ data.hasAgent (.frag 0 0) = true ∧
    (∃ r, (withReqs [(3, oneReq .load .rlx (some (bytes [5, 6, 7, 8])) (some (.scl, 127)))]).reqs.get? 3 = some r ∧ r.op = .load ∧
      Req.served r = true ∧ r.dst = some (.scl, 127)) ∧
    Req.served (oneReq .store .rlx (some []) none) = true ∧ Req.served (oneReq .store .rlx none none) = false ∧
    Req.served (oneReq .load .rlx none none) = false :=
  ⟨⟨_, rfl, rfl, rfl, by decide +kernel, rfl⟩, by decide +kernel, ⟨_, rfl, rfl, by decide +kernel, rfl⟩, by decide +kernel⟩
theorem premises_Prefetches : Runs data (.frag 0 0) ∧ data.guardMask (.frag 0 0) hd ≠ 0#64 ∧ data.reqs = [] ∧
    data.swatches = [] ∧ (∀ who w pa n, data.dirConflict who w pa n = false) ∧
    (∀ G, data.grps.get? 0 = some G → G.frags.length ≤ 1) ∧ (∀ T, data.taskOf (.frag 0 0) = some T → T.maps = []) ∧
    ∀ l < 64, (wrapAddr (laneAddr data 0 0 { stForm with off := 1#20 } .global true l)).toNat % szBytes .w ≠ 0 :=
  ⟨acts_data.2.1, by decide +kernel, rfl, rfl, data_free, all_of (by decide +kernel), all_of (by decide +kernel), by decide +kernel⟩
/-- Banks 5 and 6 of core 0 in the FIFO role and team 0's, bank 5 with one entry and bank 6 full; bank 7 switches to scratch for it. -/
def fifoBank5 : Bank := { role := .fifo, holder := some 0, data := [], fifo := [7#32], waiters := [] }
def fifos : State := withScl [(4, 5#32), (5, 6#32)] { data with
  launches := data.launches.map fun p => (p.1, { p.2 with banksR := 0xFFFF#32 })
  cores := data.cores.set 0 { data.core 0 with banks := [(5, fifoBank5), (6, { fifoBank5 with fifo := List.replicate 4096 0#32 }),
    (7, { fifoBank5 with role := .switching 1, fifo := [] })] } }
theorem premises_Fifos : Runs fifos (.frag 0 0) ∧ fifos.guardMask (.frag 0 0) hd0 = 1#64 ∧ fifos.reqs = [] ∧
    (∀ G, fifos.grps.get? 0 = some G → G.frags.length ≤ 1) ∧ (reg fifos (.frag 0 0) (sreg 4)).toNat % 32 = 5 ∧
    (reg fifos (.frag 0 0) (sreg 5)).toNat % 32 = 6 ∧ fifoBank fifos (.frag 0 0) 0 = none ∧ RoomFor fifos 0 (dstRegs 9 1) ∧
    fifoBank fifos (.frag 0 0) 5 = some fifoBank5 ∧ fifoBank fifos (.frag 0 0) 6 = some { fifoBank5 with fifo := List.replicate 4096 0#32 } ∧
    ones (fifos.guardMask (.frag 0 0) hd) = 64 := by
  and_intros <;> first | decide +kernel | exact all_of (by decide +kernel)
/-- red.det of lane 0, and partials and staged values of a group. -/
def detForm : MForm := { mform (dreg .vec 9) (sreg 4) no .w .rlx 0 with scale := 2#2 }
def partial0 : Partial := { seq := 0, pa := 0x60000000, f64 := false, val := 0x3F800000#64 }
def folding : State := withGroup (fun G => { G with partials := [partial0] }) data
def staged0 : Staged := { key := 0, pa := 0x60000000, f64 := false, launch := 0, parts := [(0, 0x3F800000#64)] }
def staged : State := { data with staging := [(5, [staged0])] }
theorem det_places : (data.addressPhase (.frag 0 0) (detSpec data 0 0 hd0 detForm) (detSpec data 0 0 hd0 detForm).lanes).2.1.map (·.loc) =
    [.mem 0x60000000 32 .dflt] := by decide +kernel
theorem premises_DetReductions : Runs data (.frag 0 0) ∧ data.guardMask (.frag 0 0) hd0 ≠ 0#64 ∧ readyFor data (detSpec data 0 0 hd0 detForm) = true ∧
    passing data (.frag 0 0) (detSpec data 0 0 hd0 detForm) = true ∧ (∃ G, data.grps.get? 0 = some G ∧ G.partials = []) ∧
    Acts folding (.frag 0 0) hd ∧ (∃ G, folding.grps.get? 0 = some G ∧ G.partials = [partial0]) ∧ folding.staging = [] ∧
    Acts staged (.frag 0 0) hd ∧ staged.launchIdOf (.frag 0 0) = 0 ∧ staged.mem.wf = true ∧ staged.heldTrees = [] ∧ staged.swatches = [] ∧
    staged.homeError 0x60000000 4 .atomic = none ∧ staged.dirConflict (idMortar (staged.homeOf 0x60000000)) true 0x60000000 4 = false := by
  and_intros <;> decide +kernel
/-- An instruction that acts once at the data page: its place as a check. -/
def atPlace (s : State) (f : MForm) (n : Nat) : Option (Nat × Nat × Policy) :=
  match (s.checkGlobal (.frag 0 0) (onceAddr s (.frag 0 0) f) n .read f.policy).2 with
  | .ok (.mem pa gr pol) => some (pa, gr, pol)
  | _ => none
theorem at_of {s : State} {f : MForm} {n pa gr : Nat} {pol : Policy} (h : atPlace s f n = some (pa, gr, pol)) :
    AtMemory s (s.checkGlobal (.frag 0 0) (onceAddr s (.frag 0 0) f) n .read f.policy).1 (.frag 0 0) f n pa gr pol := by
  unfold atPlace at h
  split at h
  · rename_i e; injection h with h; injection h with h1 h; injection h with h2 h3
    subst h1; subst h2; subst h3
    exact Prod.ext rfl e
  · exact nomatch h
def leaseForm (policy : Policy) : MForm := { mform (dreg .spec 3) (sreg 4) no .b .acq 0 with policy := policy }
def lease0 (line : Nat) : Lease := { line := line, expiry := 100, near := false, dirty := [] }
/-- The group holds the line; it holds four others; another agent holds it. -/
def holding : State := withGroup (fun G => { G with leases := [lease0 (0x60000000 / 128)] }) data
def holdingFour : State := withGroup (fun G => { G with leases := [lease0 1, lease0 2, lease0 3, lease0 4] }) data
def heldByPeer : State := { data with dir := [(0x60000000 / 64, { st := 1, owner := some 0x80000001#32, sharers := [], asked := [], deadline := 0, whole := true, used := 0 }),
  (0x60000000 / 64 + 1, { st := 1, owner := some 0x80000001#32, sharers := [], asked := [], deadline := 0, whole := true, used := 0 })] }
/-- The state after the place of a lease is known. -/
def placed (s : State) : State := (s.checkGlobal (.frag 0 0) (onceAddr s (.frag 0 0) (leaseForm .dflt)) 1 .read .dflt).1
theorem premises_LineLeases : (∀ s ∈ [data, holding, holdingFour, heldByPeer], Acts s (.frag 0 0) hd ∧ s.reqs = [] ∧
      AtMemory s (placed s) (.frag 0 0) (leaseForm .dflt) 1 0x60000000 32 .dflt) ∧
    (placed holding).leases 0 (0x60000000 / 128) = true ∧ (placed holdingFour).leases 0 (0x60000000 / 128) = false ∧
    (placed holdingFour).leaseCount 0 = 4 ∧ (placed heldByPeer).leases 0 (0x60000000 / 128) = false ∧
    (placed heldByPeer).dirConflict ((placed heldByPeer).grpId 0) true (0x60000000 / 128 * 128) 128 = true ∧
    (placed data).leases 0 (0x60000000 / 128) = false ∧ (placed data).leaseCount 0 = 0 ∧
    isRemote 0x60000000 = false ∧ (placed data).dirConflict ((placed data).grpId 0) true (0x60000000 / 128 * 128) 128 = false ∧
    (placed data).homeError 0x60000000 1 .exclusive = none ∧ ((placed data).dirRoom (2 * (0x60000000 / 128))).2 = true ∧
    ((placed data).core ((placed data).coreOfGrp 0)).l1.wf = true ∧ releases (leaseForm .dflt).order = false ∧ (placed data).swatches = [] ∧ (placed holding).heldTrees = [] ∧ (placed holding).mem.wf = true := by
  refine ⟨?_, by and_intros <;> decide +kernel⟩
  simp only [List.forall_mem_cons, List.not_mem_nil, false_implies, implies_true, and_true]
  and_intros <;> first | exact at_of (by decide +kernel) | decide +kernel
/-- wait.addr of a word that holds 0, expecting 0 (s7) or 2 (s6); and one woken with cause 1. -/
def waitForm (b : Nat) : MForm := mform (dreg .scl 13) (sreg 4) (sreg b) .w .acq 0
def woken : State := withGroup (fun G => { G with frags := G.frags.map fun p => (p.1, { p.2 with st := .waiting (.address 9) }) })
  { data with watches := [{ id := 9, who := .frag 0 0, slice := 0, grain := 0x60000000, size := 32, overflow := false, expiry := none, cause := some 1, woken := true }] }
def placedWait (s : State) : State := (s.checkGlobal (.frag 0 0) (onceAddr s (.frag 0 0) (waitForm 6)) 4 .read .dflt).1
theorem premises_WaitsOnAddress : Acts data (.frag 0 0) hd ∧ data.reqs = [] ∧ data.stOf (.frag 0 0) = .ready ∧
    AtMemory data (placedWait data) (.frag 0 0) (waitForm 6) 4 0x60000000 32 .dflt ∧
    (placedWait data).dirConflict ((placedWait data).grpId 0) false 0x60000000 4 = false ∧ (placedWait data).homeError 0x60000000 4 .read = none ∧
    (placedWait data).holdOn 0 (0x60000000 / 128) = none ∧ (placedWait data).swatches = [] ∧ (placedWait data).hasAgent (.frag 0 0) = true ∧
    BitVec.ofNat 64 ((placedWait data).mem.readNat 0x60000000 4) ≠ readScl data (.frag 0 0) (sreg 6) false ∧
    BitVec.ofNat 64 ((placedWait data).mem.readNat 0x60000000 4) = readScl data (.frag 0 0) (sreg 7) false ∧
    Acts woken (.frag 0 0) hd ∧ woken.stOf (.frag 0 0) = .waiting (.address 9) ∧
    (woken.watches.find? (·.id == 9)).map (fun w => (w.woken, w.cause)) = some (true, some 1) := by
  and_intros <;> first | exact at_of (by decide +kernel) | decide +kernel
def openStore : State := withReqs [(3, oneReq .store .rlx none none)]
theorem premises_Fences : Acts data (.frag 0 0) hd ∧ data.reqs = [] ∧ data.offAcksOf (.frag 0 0) = 0 ∧ data.lostOf (.frag 0 0) = none ∧
    Acts openStore (.frag 0 0) hd ∧ openStore.quiet (.frag 0 0) = false ∧ openStore.writesDone (.frag 0 0) = false ∧ releases .rel = true ∧
    data.writesDone (.frag 0 0) = true ∧ data.coreOf (.frag 0 0) < 192 ∧ (data.grps.get? 0).map (·.leases) = some [] := by
  and_intros <;> decide +kernel
/-- A launch with rights to banks 2 and 3, of which s4 names bank 2, s5 bank 3 and s6 bank 4; the team holds bank 3 as scratch. -/
def righted : State := withScl [(4, 4#32), (5, 8#32), (6, 16#32)] { data with
  launches := data.launches.map fun p => (p.1, { p.2 with banksR := 0xC#32 })
  cores := data.cores.set 0 { data.core 0 with banks := [(3, { fifoBank5 with role := .scratch, fifo := [] })] } }
def waitingBanks : State := withGroup (fun G => { G with frags := G.frags.map fun p => (p.1, { p.2 with st := .waiting (.banks [4] true) }) }) righted
/-- A bank of the team changes its role. -/
def switchingTeam : State := { righted with cores := righted.cores.set 0 { righted.core 0 with
  banks := [(7, { fifoBank5 with role := .switching 1, fifo := [] })]
  switches := [{ ticket := 4, clk := 0, rank := 0, bank := 7, role := 1, task := 0, copies := [], mats := [] }] } }
def windowReq : Req :=
  let r := oneReq .store .rlx none none
  { r with agent := .frag 16 0, lanes := r.lanes.map fun p => { p with loc := .bank 0 0 false } }
def windowOpen : State := { data with reqs := [(3, windowReq)] }
theorem premises_Banks : Acts righted (.frag 0 0) hd ∧ righted.taskIdOf (.frag 0 0) = some 0 ∧ (righted.tasks.get? 0).isSome ∧
    banksOf (reg righted (.frag 0 0) (sreg 4)) = [2] ∧ banksOf (reg righted (.frag 0 0) (sreg 5)) = [3] ∧ banksOf (reg righted (.frag 0 0) (sreg 6)) = [4] ∧
    (bankOf righted 0 2).role = .cache ∧ (bankOf righted 0 4).role = .cache ∧ 2 ∈ righted.bankRights 0 ∧ 4 ∉ righted.bankRights 0 ∧
    Acts waitingBanks (.frag 0 0) hd ∧ waitingBanks.stOf (.frag 0 0) = .waiting (.banks [4] true) ∧ righted.stOf (.frag 0 0) = .ready ∧
    righted.ownSwitches 0 0 = [] ∧ Acts switchingTeam (.frag 0 0) hd ∧ switchingTeam.ownSwitches 0 0 = [4] ∧ (bankOf righted 0 3).role = roleOf 1 ∧
    ((switchingTeam.core 0).switches.all fun w => switchingTeam.switchReady w) = true ∧ 7 ∉ ((switchingTeam.tasks.get? 0).map (·.banks)).getD [] ∧
    (sharing.tasks.get? 0).map (·.share) = some (some (5, 0)) ∧ (data.tasks.get? 0).map (·.share) = some none ∧
    (data.shareOf (data.cluOf (.frag 0 0)) 2).2 < 16 ∧ data.windowUnderWay 0 = false ∧ windowOpen.windowUnderWay 0 = true := by
  and_intros <;> decide +kernel
/-- A team with one mapping of s4:s5 at offset 0. -/
def map0 : SMap := { va := 0x1000#64, off := 0, len := 128, valid := [0], dirty := [] }
def mapped : State := withMaps data 0 [map0]
theorem premises_MappedScratch : Acts data (.frag 0 0) hd ∧ data.reqs = [] ∧ data.taskIdOf (.frag 0 0) = some 0 ∧ (pair data (.frag 0 0) (sreg 4)).toNat % 128 = 0 ∧
    (data.tasks.get? 0).map (fun T => (mapStatus T 0x1000 0 128, mapStatus T 0x1000 16384 128, mapStatus T 0x1000 0 0)) = some (0, 3, 4) ∧
    Acts mapped (.frag 0 0) hd ∧ (mapped.tasks.get? 0).map (fun T => (mapStatus T 0x1000 0 128, T.maps)) = some (1, [map0]) ∧
    State.dirtyIn map0 0x1000 0 = [] ∧ (∀ T, data.tasks.get? 0 = some T → ∀ m ∈ T.maps, m.va ≠ 0x1000#64) := by
  and_intros <;> decide +kernel
/-- A vector group and a context whose engines hold 31 commands that are not accepted. -/
def backlog : State := withGroup (fun G => { G with ec := 31 }) data
theorem premises_EngineCommands : Acts data (.frag 0 0) hd ∧ data.acquirePending (.frag 0 0) = none ∧ data.ecOf (.frag 0 0) < 31 ∧
    Acts backlog (.frag 0 0) hd ∧ backlog.acquirePending (.frag 0 0) = none ∧ 31 ≤ backlog.ecOf (.frag 0 0) ∧
    Acts ksBase (.ks 0) hd ∧ ksBase.acquirePending (.ks 0) = none ∧ ksBase.ecOf (.ks 0) < 31 ∧
    Claim.Within data (.frag 0 0) (eform (dreg .scl 10) (sreg 6) (sreg 4) (sreg 6) 0 3 0) 16382#64 0#64 2 ∧
    Claim.scratchOf data (.frag 0 0) < 16383 + 2 ∧ Claim.listBad 0x101 = none ∧ Claim.listBad 0x10D = some 0x34 ∧
    Claim.TransposeBad 4 0 1 4 4 ∧ ¬Claim.TransposeBad 4 1 4096 16384 4 ∧ (2 : Nat) ^ (3 % 4) = 8 ∧
    (readScl data (.frag 0 0) (sreg 4) true).toNat % 64 = 0 ∧ (readScl data (.frag 0 0) (sreg 6) true).toNat % 64 ≠ 0 :=
  ⟨acts_data.1, by decide +kernel, by decide +kernel, ⟨⟨rfl, by decide +kernel⟩, by decide +kernel⟩, by decide +kernel, by decide +kernel,
    acts_ks, by decide +kernel, by decide +kernel, ⟨fun _ => by decide +kernel, fun _ => by decide +kernel⟩, by decide +kernel, by decide, by decide,
      .inl rfl, by unfold Claim.TransposeBad; decide, by decide +kernel⟩
/-- A channel whose oldest command is done up to its first chunk, and one that is open to a checksum command. -/
def copied (ended : Option Nat) (pattern : Nat) : CopyCmd :=
  { CopyCmd.fresh (.plain false false) 0#64 0#64 8192 pattern false false false 0#64 none with ended := ended, value := 1 }
def withCmds (cs : List CopyCmd) : State :=
  { data with tasks := data.tasks.map fun p => (p.1, { p.2 with chs := p.2.chs.set 3 { emptyChannel with cmds := cs } }) }
def summing : CopyCmd := copied none 1
theorem premises_TimelinesAndChannels : Acts data (.frag 0 0) hd ∧ (data.counterOf (.frag 0 0) 3).v < (readScl data (.frag 0 0) (sreg 6) true).toNat ∧
    (readScl data (.frag 0 0) (sreg 0) true).toNat ≤ (data.counterOf (.frag 0 0) 3).v ∧ (∃ X, data.taskOf (.frag 0 0) = some X) ∧
    (data.getChan (data.chanOf (.frag 0 0) 3)).cmds = [] ∧ data.sets = [] ∧ data.retries = [] ∧ data.stOf (.frag 0 0) = .ready ∧
    data.sumsOpen (.frag 0 0) 3 (Claim.sumsBefore data (.frag 0 0)) = false ∧ Acts (withCmds [summing]) (.frag 0 0) hd ∧
    (withCmds [summing]).sumsOpen (.frag 0 0) 3 (Claim.sumsBefore (withCmds [summing]) (.frag 0 0)) = true ∧
    ((withCmds [copied none 0]).getChan ((withCmds [copied none 0]).chanOf (.frag 0 0) 3)).cmds = [copied none 0] ∧ (copied none 0).ended.isNone = true ∧
    (copied (some 0) 0).ended.isNone = false :=
  ⟨acts_data.1, by decide +kernel, by decide +kernel, ⟨_, rfl⟩, by decide +kernel, rfl, rfl, by decide +kernel, by decide +kernel,
    ⟨⟨rfl, by decide +kernel⟩, by decide +kernel⟩, by decide +kernel, by decide +kernel, rfl, rfl⟩
theorem error_of {α β γ : Type} {p : α × Except β γ} (h : (match p.2 with | .error _ => true | .ok _ => false) = true) : ∃ s x, p = (s, .error x) := by
  obtain ⟨s, x⟩ := p
  cases x with
  | error x => exact ⟨s, x, rfl⟩
  | ok _ => cases h
theorem ok_of {α β γ : Type} {p : α × Except β γ} {P : α → γ → Bool} (h : (match p.2 with | .error _ => false | .ok x => P p.1 x) = true) :
    ∃ s x, p = (s, .ok x) ∧ P s x = true := by
  obtain ⟨s, x⟩ := p
  cases x with
  | error _ => cases h
  | ok x => exact ⟨s, x, rfl, h⟩
/-- The pages of the two bytes at s4:s5, and of the two at s5:s6, where nothing is mapped. -/
def runsOf (x : Src) : State × List PRun × List (XFault × W64) :=
  data.rangeRuns (.frag 0 0) (State.pagesIn (readScl data (.frag 0 0) x true) (lo32 (readScl data (.frag 0 0) (sreg 6) false)).toNat)
def seen (x : Src) : State × Except XFault Xlat := data.translate (data.asidOf (.frag 0 0)) (data.supOf (.frag 0 0)) (readScl data (.frag 0 0) x true) .read
/-- A line's home has room for it. -/
def roomAt (s : State) (l : Nat) : Bool :=
  (s.linesAt (s.homeOf (l * 128))).length < sliceLines && !s.atCap (s.homeOf (l * 128)) (s.arrAt (l * 128))
theorem runs_of : (runsOf (sreg 4)).1.hasAgent (.frag 0 0) = true ∧ (runsOf (sreg 4)).2.2 = [] ∧ (runsOf (sreg 4)).1.lines.wf = true ∧
    State.runLines (runsOf (sreg 4)).2.1 = [0x60000000 / 128] ∧ ((runsOf (sreg 4)).1.arrAt (0x60000000 / 128 * 128)).cls = 0 ∧
    regionOf (0x60000000 / 128 * 128) = .hbm ∧ roomAt ((runsOf (sreg 4)).1) (0x60000000 / 128) = true := by decide +kernel
theorem premises_Residency : Acts data (.frag 0 0) hd ∧ (runsOf (sreg 4)).1.hasAgent (.frag 0 0) = true ∧ (runsOf (sreg 4)).2.2 = [] ∧
    (runsOf (sreg 4)).1.lines.wf = true ∧ State.runLines (runsOf (sreg 4)).2.1 = [0x60000000 / 128] ∧
    ((runsOf (sreg 4)).1.arrAt (0x60000000 / 128 * 128)).cls = 0 ∧ regionOf (0x60000000 / 128 * 128) = .hbm ∧
    roomAt (runsOf (sreg 4)).1 (0x60000000 / 128) = true ∧ (∀ x ∈ (runsOf (sreg 5)).2.2, x.1.held = none) ∧ (runsOf (sreg 5)).1.hasAgent (.frag 0 0) = true ∧ (∃ x xs, (runsOf (sreg 5)).2.2 = x :: xs) ∧ (∃ s1 x, seen (sreg 5) = (s1, .error x)) ∧
    ∃ s1 x, seen (sreg 4) = (s1, .ok x) ∧ (s1.qryFields x.pa == [(0xFFFFFFFF#32, 0)] && s1.hasAgent (.frag 0 0)) = true :=
  ⟨acts_data.1, runs_of.1, runs_of.2.1, runs_of.2.2.1, runs_of.2.2.2.1, runs_of.2.2.2.2.1, runs_of.2.2.2.2.2.1, runs_of.2.2.2.2.2.2,
    by decide +kernel, by decide +kernel, List.exists_cons_of_ne_nil (by decide +kernel), error_of (by decide +kernel),
    ok_of (by decide +kernel)⟩
/-- The loaded group with a Keystone context of its task. -/
def bound : State := { data with tasks := data.tasks.map fun p => (p.1, { p.2 with ks := some 0 }) }
theorem premises_KeystoneAndKvAccess : Runs data (.frag 0 0) ∧ data.guardMask (.frag 0 0) hd ≠ 0#64 ∧ data.reqs = [] ∧ data.ldOf (.frag 0 0) < 63 ∧
    (∀ G, data.grps.get? 0 = some G → G.frags.length ≤ 1) ∧ RoomFor data 0 [10, 11] ∧ Acts ksBase (.ks 0) hd ∧
    (data.taskOf (.frag 0 0)).bind (·.ks) = none ∧ Runs bound (.frag 0 0) ∧ bound.guardMask (.frag 0 0) hd ≠ 0#64 ∧
    (bound.taskOf (.frag 0 0)).bind (·.ks) = some 0 ∧ bound.reqs = [] ∧ (∀ G, bound.grps.get? 0 = some G → G.frags.length ≤ 1) ∧
    RoomFor bound 0 [9] ∧ bound.trOf (.frag 0 0) < 15 :=
  ⟨acts_data.2.1, acts_data.2.2, rfl, by decide +kernel, all_of (by decide +kernel), all_of (by decide +kernel), acts_ks, by decide +kernel,
    ⟨rfl, by decide +kernel⟩, by decide +kernel, by decide +kernel, rfl, all_of (by decide +kernel), all_of (by decide +kernel), by decide +kernel⟩
/-- The loaded group at user privilege. -/
def user : State := withGroup (fun G => { G with frags := G.frags.map fun p => (p.1, { p.2 with sup := false }) }) data
theorem premises_ControlRegisters : Acts data (.frag 0 0) hd ∧ Claim.assigned 0x333 = false ∧ Acts ksBase (.ks 0) hd ∧ onKeystone (.ks 0) = true ∧
    Claim.ofGroup 0x009 = true ∧ Acts user (.frag 0 0) hd ∧ Claim.assigned 0x00A = true ∧ user.supOf (.frag 0 0) = false ∧ Claim.userReads 0x00A = false ∧
    Claim.MayRead data (.frag 0 0) 0x050 ∧ ¬Claim.MayWrite data (.frag 0 0) 0x050 ∧ Claim.MayRead user (.frag 0 0) 0x010 ∧
    ¬Claim.MayWrite user (.frag 0 0) 0x010 ∧ Claim.MayWrite user (.frag 0 0) 0x001 ∧ Claim.MayWrite data (.frag 0 0) 0x020 ∧
    Claim.MayWrite data (.frag 0 0) 0x040 ∧ data.ctl.wf = true ∧ Claim.MayRead data (.frag 0 0) 0x7FE ∧ 0x7FE % 4 ≠ 3 :=
  by and_intros <;> first | decide +kernel | exact fun h => absurd h.2.1 (by decide) | exact fun h => absurd (h.2.2 (by decide +kernel)) (by decide)
/-- Core 5 out of selection, core 6 isolated, a launch of class 2, and registers that name them. -/
def halted : State := withScl [(4, 5#32), (5, 6#32), (6, 7#32), (7, 192#32), (8, 0x60000000#32), (10, 0x90#32), (11, 0x105#32), (12, 0x10#32)] { data with
  launches := data.launches.map fun p => (p.1, { p.2 with pcls := 2 })
  cores := (data.cores.set 5 { data.core 5 with removed := true }).set 6 { data.core 6 with isolated := true } }
def ringed : State := data.setCtl 0x021 1#64
def idling (c : Option Nat) : State := withGroup (fun G => { G with frags := G.frags.map fun p => (p.1, { p.2 with st := .waiting (.idle none 0 0 c) }) }) data
theorem sig_ready : readyFor data (Claim.signalSpec data (.frag 0 0) (nform noD (sreg 4) (sreg 6) no .s32 0)) = true ∧
    passing data (.frag 0 0) (Claim.signalSpec data (.frag 0 0) (nform noD (sreg 4) (sreg 6) no .s32 0)) = true := by decide +kernel
def haltArg (r : Nat) : Nat := (lo32 (readScl halted (.frag 0 0) (sreg r) false)).toNat
theorem premises_SystemInstructions : Acts halted (.frag 0 0) hd ∧ halted.stOf (.frag 0 0) = .ready ∧ halted.reqs = [] ∧
    (∀ p ∈ halted.ks, ∀ q ∈ p.2.mq, q.started = false) ∧ (∀ ch ∈ halted.allChans, halted.executingOn ch = false) ∧
    (191 < haltArg 7 ∧ haltArg 4 ≤ 191 ∧ (halted.core (haltArg 4)).removed = true ∧ (halted.core (haltArg 4)).isolated = false ∧
      haltArg 5 ≤ 191 ∧ (halted.core (haltArg 5)).isolated = true ∧ haltArg 6 ≤ 191 ∧ (halted.core (haltArg 6)).removed = false ∧
      (halted.core (haltArg 6)).isolated = false) ∧
    (∃ T L, halted.taskIdOf (.frag 0 0) = some 0 ∧ halted.tasks.get? 0 = some T ∧ halted.launches.get? T.launch = some L ∧ L.pcls = 2) ∧
    (∃ T L, data.taskIdOf (.frag 0 0) = some 0 ∧ data.tasks.get? 0 = some T ∧ data.launches.get? T.launch = some L ∧ L.pcls ≠ 2) ∧
    MemReady data (.frag 0 0) (Claim.signalSpec data (.frag 0 0) (nform noD (sreg 4) (sreg 6) no .s32 0)) ∧
    (∃ s1 ps us, Passes data s1 (.frag 0 0) (Claim.signalSpec data (.frag 0 0) (nform noD (sreg 4) (sreg 6) no .s32 0)) ps us) ∧
    Acts ringed (.frag 0 0) hd ∧ ringed.ringsWaiting (ringed.dieOf (.frag 0 0)) = true ∧ data.ringsWaiting (data.dieOf (.frag 0 0)) = false ∧
    (∀ l x y z, data.stOf (.frag 0 0) ≠ .waiting (.idle l x y z)) ∧ (∀ l x y z, ringed.stOf (.frag 0 0) ≠ .waiting (.idle l x y z)) ∧
    Acts (idling (some 2)) (.frag 0 0) hd ∧ (idling (some 2)).stOf (.frag 0 0) = .waiting (.idle none 0 0 (some 2)) ∧
    watchBad (readScl halted (.frag 0 0) (sreg 8) true).toNat (haltArg 12) = [] ∧ watchBad (readScl halted (.frag 0 0) (sreg 4) true).toNat 0x800 = [1] ∧
    swatchBad halted (readScl halted (.frag 0 0) (sreg 8) true).toNat (haltArg 10) = [] ∧
    swatchBad halted (readScl halted (.frag 0 0) (sreg 8) true).toNat (haltArg 11) = [3] := by
  refine ⟨⟨⟨rfl, by decide +kernel⟩, by decide +kernel⟩, by decide +kernel, rfl, by decide +kernel, by decide +kernel, by decide +kernel,
    ⟨_, _, by decide +kernel, rfl, rfl, rfl⟩, ⟨_, _, by decide +kernel, rfl, rfl, by decide⟩, ready_of sig_ready.1, passes_of sig_ready.2,
    ⟨⟨rfl, by decide +kernel⟩, by decide +kernel⟩, by decide +kernel, by decide +kernel, fun _ _ _ _ h => ?_, fun _ _ _ _ h => ?_,
    ⟨⟨rfl, by decide +kernel⟩, by decide +kernel⟩, by decide +kernel⟩
  · exact nomatch (show data.stOf (.frag 0 0) = .ready by decide +kernel).symm.trans h
  · exact nomatch (show ringed.stOf (.frag 0 0) = .ready by decide +kernel).symm.trans h
/-- An option that has a value with a property. -/
theorem some_of {α : Type} {o : Option α} {P : α → Prop} [DecidablePred P] (h : (o.any fun x => decide (P x)) = true) : ∃ x, o = some x ∧ P x := by
  obtain ⟨x, hx, hp⟩ := Option.any_eq_true _ _ |>.1 h
  exact ⟨x, hx, by simpa using hp⟩
/-- Records of the rings of die 0: record 0 of a group, 1 of the same set, 2 acknowledged, 3 of another task's group; 0 and 1 of the retry ring. -/
def entry (i : Nat) (first acked : Bool) (tg : AckTarget) : Entry :=
  { die := 0, index := i, first := first, target := tg, cause := 0x11, acked := acked, withdrawn := false }
def group16 : Group := { (data.grps.get? 0).getD (freshGroup 0 0 0 0 0#64 0#64 true 0 0) with task := 1, park := some { reason := 2, sets := [], unacked := 1, framed := false } }
def queued : State := withScl [(4, 4#32), (5, 1#32), (6, 2#32), (7, 3#32), (8, 9#32), (10, 0x60000080#32), (12, 0x1000#32), (14, 0x60000100#32), (16, 0x60000180#32),
    (18, 0#32), (19, 0x8000#32)] { data with
  ctl := (data.ctl.set 0x021 4#64).set 0x025 2#64
  entries := [entry 0 true false (.group 16 0), entry 1 false false (.group 16 0), entry 2 true true (.group 16 0), entry 3 true false (.group 16 0)]
  retries := [entry 0 true false (.channel 0 3 1), entry 1 true false (.scratchWb 0 0x1000#64)]
  grps := data.grps ++ [(16, group16)]
  tasks := data.tasks ++ (data.tasks.map fun p => (1, p.2))
  dir := [(0x60000080 / 64, { st := 6, owner := none, sharers := [], asked := [], deadline := 0, whole := false, used := 0 }),
    (0x60000100 / 64, { st := 2, owner := some 0x80000001#32, sharers := [], asked := [], deadline := 0, whole := true, used := 0 })] }
def at' (r : Nat) : Nat := (readScl queued (.frag 0 0) (sreg r) true).toNat
theorem lost_unit : Claim.LostUnit queued 0x60000080 0x60000080 64 ∧ Claim.LostUnit (queued.translate (queued.asidOf (.frag 0 0)) (queued.supOf (.frag 0 0))
    (readScl queued (.frag 0 0) (sreg 12) true) .read).1 0x60000080 0x60000080 64 :=
  by and_intros <;> decide +kernel
theorem written : ∀ p ∈ [(0#32, 0, entry 0 true false (.group 16 0)), (0#32, 1, entry 1 false false (.group 16 0)), (0#32, 2, entry 2 true true (.group 16 0)),
    (0#32, 3, entry 3 true false (.group 16 0)), (4#32, 0, entry 0 true false (.channel 0 3 1)), (4#32, 1, entry 1 true false (.scratchWb 0 0x1000#64))],
    Claim.Written queued p.1 p.2.1 p.2.2 := by
  simp only [List.forall_mem_cons, List.not_mem_nil, false_implies, implies_true, and_true]
  and_intros <;> decide +kernel
theorem premises_QueueAndDirectory : Acts queued (.frag 0 0) hd ∧ lo32 (readScl queued (.frag 0 0) (sreg 18) false) = 0#32 ∧
    lo32 (readScl queued (.frag 0 0) (sreg 4) false) = 4#32 ∧ (lo32 (readScl queued (.frag 0 0) (sreg 5) false)).toNat = 1 ∧
    (∀ e, ¬Claim.Written queued 0#32 9 e) ∧ Claim.Pending queued 0#32 0 (entry 0 true false (.group 16 0)) ∧
    Claim.Written queued 0#32 1 (entry 1 false false (.group 16 0)) ∧ Claim.Written queued 0#32 2 (entry 2 true true (.group 16 0)) ∧
    (∃ G, queued.grps.get? 16 = some G ∧ G.park.isSome = true ∧ (G.frags.get? 0).isSome = true) ∧ (∀ e', Agent.frag 0 0 ≠ .frag 16 e') ∧
    (∃ T, queued.tasks.get? (16 / 16) = some T ∧ T.st = .resident) ∧ queued.taskIdOf (.frag 0 0) ≠ some (16 / 16) ∧
    Claim.Pending queued 4#32 0 (entry 0 true false (.channel 0 3 1)) ∧ Claim.Pending queued 4#32 1 (entry 1 true false (.scratchWb 0 0x1000#64)) ∧
    (∃ T, queued.tasks.get? 0 = some T) ∧ queued.homedHere (at' 18) = false ∧ at' 10 = 0x60000080 ∧
    (queued.homedHere (at' 16) = true ∧ queued.dir.get? (at' 16 / 64) = none ∧ queued.poisonAt (at' 16) 1 = false ∧ queued.lostAt (at' 16) 1 = false) ∧
    (queued.homedHere (at' 14) = true ∧ ∃ E, queued.dir.get? (at' 14 / 64) = some E ∧ E.st = 2 ∧ E.owner = some 0x80000001#32 ∧
      queued.poisonAt (at' 14) 1 = false) ∧ Claim.LostUnit queued 0x60000080 0x60000080 64 ∧ (readScl queued (.frag 0 0) (sreg 12) true).toNat % 64 = 0 ∧
    ∃ s1 x, queued.translate (queued.asidOf (.frag 0 0)) (queued.supOf (.frag 0 0)) (readScl queued (.frag 0 0) (sreg 12) true) .read = (s1, .ok x) ∧
      (s1.lostUnit 0x60000080 == (0x60000080, 64) && s1.homedHere 0x60000080 && s1.lostAt 0x60000080 1 && s1.heldTrees == [] && s1.swatches == [] && s1.mem.wf &&
        !s1.dirConflict (queued.agentId (.frag 0 0)) false x.pa 64 && (s1.homeError x.pa 64 .read).isNone &&
        readScl s1 (.frag 0 0) (sreg 10) true == readScl queued (.frag 0 0) (sreg 10) true &&
        (s1.ownHold (.frag 0 0) (x.pa / 128)).isNone && queued.reqs.isEmpty) = true :=
  ⟨⟨⟨rfl, by decide +kernel⟩, by decide +kernel⟩, by decide +kernel, by decide +kernel, by decide +kernel,
    fun e h => absurd h.2.2 (by rw [show queued.ringEntry _ _ 9 = none by decide +kernel]; exact nofun),
    ⟨written (0#32, 0, entry 0 true false (.group 16 0)) (.head _), rfl, rfl, rfl⟩, written (0#32, 1, entry 1 false false (.group 16 0)) (.tail _ (.head _)), written (0#32, 2, entry 2 true true (.group 16 0)) (.tail _ (.tail _ (.head _))), some_of (by decide +kernel), fun _ => by simp, some_of (by decide +kernel), by decide +kernel,
    ⟨written (4#32, 0, entry 0 true false (.channel 0 3 1)) (.tail _ (.tail _ (.tail _ (.tail _ (.head _))))), rfl, rfl, rfl⟩, ⟨written (4#32, 1, entry 1 true false (.scratchWb 0 0x1000#64)) (.tail _ (.tail _ (.tail _ (.tail _ (.tail _ (.head _)))))), rfl, rfl, rfl⟩, Option.isSome_iff_exists.1 (by decide +kernel), by decide +kernel, by decide +kernel, by decide +kernel,
    ⟨by decide +kernel, some_of (by decide +kernel)⟩, lost_unit.1, by decide +kernel, ok_of (by decide +kernel)⟩
/-- Commands that await acceptance; a channel with one command, its chunks in Mortar queues. -/
def pend (a : Agent) (cmd : EngCmd) : PendCmd := { agent := a, fmask := 1#64, after := [], cmd := cmd, dst := [(10, false), (11, true)] }
def zeroing (st : Bool) : MatCmd := { value := 1, kind := .zero 0, pc := 0#64, started := st, reads := [], dests := [], vaWrites := [] }
def kv9 : KvCmd := { value := 1, seq := 5, op := 9, block := 0x1000#64, pc := 0#64 }
def pending (a : Agent) (cmd : EngCmd) (s : State) : State := { s with pends := [(9, pend a cmd)] }
def chunk (k : CopyKind) (dst : W64) (st : List ChunkSt) : CopyCmd := { CopyCmd.fresh k dst 0x1800#64 64 0 false false false 0#64 none with value := 1, chunks := st }
def ref (i : Nat) : ChunkRef := { chan := .team 0 3, value := 1, idx := i }
def copying (c : CopyCmd) : State := { withCmds [c] with mortar := [(0, [ref 0, ref 1])] }
theorem at_head : ∀ c ∈ [chunk (.plain false false) 0x1000#64 [.unstarted], chunk (.plain false false) 0x2000#64 [.unstarted],
    chunk (.fill 7#32 false) 0x1000#64 [.unstarted]], Claim.AtHead (copying c) 0 (ref 0) c := by
  simp only [List.forall_mem_cons, List.not_mem_nil, false_implies, implies_true, and_true]
  refine ⟨?_, ?_, ?_⟩ <;> exact ⟨by decide +kernel, by decide +kernel, by decide +kernel, rfl, fun n => rfl⟩
/-- The run that the unit writes, and then the run that it reads, are free, with nothing beside the homes. -/
def freeRun (s : State) (write : Bool) (p : PRun) : Bool :=
  decide (p.n = 64) && decide (regionOf p.pa = .hbm) && !s.dirConflict (idMortar 0) write p.pa p.n &&
    (s.homeError p.pa p.n (if write then .write else .read)).isNone && plain s
def oneRun (x : State × Except (XFault × W64) (List PRun)) (P : State → PRun → Bool) : Bool :=
  match x with
  | (s, .ok [p]) => P s p
  | _ => false
theorem one_run {x : State × Except (XFault × W64) (List PRun)} {P : State → PRun → Bool} (h : oneRun x P = true) :
    ∃ s p, x = (s, .ok [p]) ∧ P s p = true := by
  unfold oneRun at h
  split at h
  · exact ⟨_, _, rfl, h⟩
  · cases h
def plainC : CopyCmd := chunk (.plain false false) 0x1000#64 [.unstarted]
def target' (s : State) (c : CopyCmd) : State × Except (XFault × W64) (List PRun) :=
  s.xlatRange (s.chanAsid (ref 0).chan) (s.chanSup (ref 0).chan) (Claim.chunkAt c.dst (ref 0)) (Claim.chunkLen c (ref 0)) .write
theorem faulted_of {x : State × Except (XFault × W64) (List PRun)} (h : (match x.2 with | .error f => f.1.held.isNone | .ok _ => false) = true) :
    ∃ s f, x = (s, .error f) ∧ f.1.held = none := by
  obtain ⟨s, _ | _⟩ := x
  · exact ⟨s, _, rfl, by simpa using h⟩
  · cases h
theorem free_runs : (∃ s1 d, target' (copying plainC) plainC = (s1, .ok [d]) ∧ (freeRun s1 true d && oneRun (s1.xlatRange
      ((copying plainC).chanAsid (ref 0).chan) ((copying plainC).chanSup (ref 0).chan) (Claim.chunkAt plainC.src (ref 0)) (Claim.chunkLen plainC (ref 0)) .read)
      (fun s2 b => freeRun s2 true d && freeRun s2 false b)) = true) ∧
    ∃ s1 f, target' (copying (chunk (.plain false false) 0x2000#64 [.unstarted])) (chunk (.plain false false) 0x2000#64 [.unstarted]) = (s1, .error f) ∧ f.1.held = none :=
  ⟨one_run (by decide +kernel), faulted_of (by decide +kernel)⟩
/-- A chunk towards a page of the host's window whose home has not answered. -/
def remoteOne : CopyCmd := chunk .remote 0x2000#64 [.executing 0 7 0, .unstarted]
def farCopy : State := { withCmds [remoteOne] with mem := data.mem.writeNat (loadTables + 0x5010) 8 (2 ^ 44 + 0xC7) }
def fateOf : Option Nat × State := pickFrom farCopy [none, some 0x0A, some 0x0B] none
theorem far_runs : ∃ s1 d, fateOf.2.xlatRange (farCopy.chanAsid (ref 0).chan) (farCopy.chanSup (ref 0).chan) (Claim.chunkAt remoteOne.dst (ref 0))
      (Claim.chunkLen remoteOne (ref 0)) .write = (s1, .ok [d]) ∧ oneRun (s1.xlatRange (farCopy.chanAsid (ref 0).chan) (farCopy.chanSup (ref 0).chan)
      (Claim.chunkAt remoteOne.src (ref 0)) (Claim.chunkLen remoteOne (ref 0)) .read) (fun s2 b => (isRemote d.pa || isRemote b.pa) &&
        !s2.dirConflict (idMortar 0) true d.pa d.n && !s2.dirConflict (idMortar 0) false b.pa b.n && (s2.runsError [d] .write).isNone &&
        (s2.runsError [b] .read).isNone) = true := one_run (by decide +kernel)
/-- A tree of one page and two sequences, sequence 1 held once, and a reference command on it in the task's KV context. -/
def treed (h : Nat) : State := { data with
  mmio := [(0x30000, 0x8000000C#64), (0x30008, 1#64), (0x30018, 0x90000000#64), (0x30020, 0x400000002#64), (0x30030, 1#64)]
  mem := ((data.mem.writeNat 0x60000000 4 h).writeNat 397312 1 0x44).writeNat ((({ data with mmio := [(0x30000, 0x8000000C#64), (0x30008, 1#64), (0x30018, 0x90000000#64), (0x30020, 0x400000002#64), (0x30030, 1#64)] } : State).treeOf 0).seqEnt 1 + 4) 4 1
  refetch := [(0, 0)]
  tasks := data.tasks.map fun p => (p.1, { p.2 with kvq := [kv9] }) }
/-- The tree's pages in a range of class KV. -/
def pooled : State := { treed 1 with ctl := ((data.ctl.set 0x40C 0x80000001#64).set 0x40D 0x9FE00000#64).set 0x40E 0x2#64 }
def kvPlaced (s : State) : Bool :=
  oneRun (s.xlatRange 0 true kv9.block 64 .read) fun s1 b => decide (s1.mem = s.mem ∧ s1.homeOf b.pa = s.homeOf b.pa ∧ s1.runCauses [b] = [] ∧
    s1.dirConflict (idOrris (s.homeOf b.pa)) false b.pa 64 = false) && oneRun (s1.xlatRange 0 true kv9.block 64 .write) fun s2 c =>
    decide (c = b ∧ b.pa = 0x60000000 ∧ b.n = 64 ∧ regionOf b.pa = .hbm ∧ s2.mem.wf = true ∧ s2.mem = s.mem ∧
      s2.dirConflict (idOrris (s.homeOf b.pa)) true b.pa 64 = false ∧ s2.homeError b.pa 64 .write = none ∧
      s2.treeHeld' (idOrris (s.homeOf b.pa)) kv9 (s.mem.readBytes b.pa 64) = [] ∧ s2.mayInject 1 (s.homeOf b.pa) 64 = true ∧
      ((List.range 64).all fun i => !s2.inTreeArea s2.heldTrees (b.pa + i)) = true)
theorem kv_placed : kvPlaced (treed 1) = true ∧ kvPlaced (treed 0) = true := by decide +kernel
theorem kv_next {h : Nat} (hp : kvPlaced (treed h) = true)
    (he : (treed h).enginesRun 0 = true ∧ ((treed h).tasks.get? 0).all (fun T => decide (true = (((treed h).launchOf T).map (·.sup)).getD false ∧
      0 = (((treed h).launchOf T).map fun l => if l.sup then 0 else l.asid).getD 0 ∧ T.kvq = [kv9] ∧ T.kvStopped = false))) :
    ∃ T b s2, Claim.KvNext (treed h) 0 T kv9 0 true b s2 ∧ b.pa = 0x60000000 := by
  obtain ⟨s1, b, e1, hp⟩ := one_run hp
  simp only [Bool.and_eq_true, decide_eq_true_eq] at hp
  obtain ⟨s2, c, e2, h2⟩ := one_run hp.2
  have h2 := of_decide_eq_true h2
  obtain ⟨rfl, pa, h1, h3, h4, h5, h6, h7, h8, h9, h10⟩ := h2
  obtain ⟨T, hT⟩ : ∃ T, (treed h).tasks.get? 0 = some T := ⟨_, rfl⟩
  have := all_of he.2 T hT
  exact ⟨T, c, s2, ⟨hT, ⟨_, this.2.2.1⟩, this.2.2.2, he.1, this.1, this.2.1, ⟨s1, e1, hp.1.1, e2, hp.1.2⟩, h1, h3, h4, h5, h6, h7, h8, h9, fun i hi => by
    simpa using List.all_eq_true.1 h10 i (List.mem_range.2 hi)⟩, pa⟩
theorem kv_nexts : (∃ T b s2, Claim.KvNext (treed 1) 0 T kv9 0 true b s2 ∧ b.pa = 0x60000000) ∧
    ∃ T b s2, Claim.KvNext (treed 0) 0 T kv9 0 true b s2 ∧ b.pa = 0x60000000 :=
  ⟨kv_next kv_placed.1 (by decide +kernel), kv_next kv_placed.2 (by decide +kernel)⟩
def withMq (q : List MatCmd) : State := ksBase.modKs 0 fun c => { c with mq := q }
def badLoad : MatCmd := { zeroing false with kind := .lda 0 0#64 0 0 0 true }
def accReq : Req :=
  let r := oneReq (.accWrite 0 2) .rlx none none
  { r with lanes := r.lanes.map fun p => { p with off := 77 } }
def draining : State := { ksBase with tasks := ksBase.tasks.map fun p => (p.1, { p.2 with st := .draining }), pends := [] }
theorem premises_EngineEvents : (∀ c ∈ [(Agent.frag 0 0, EngCmd.kv kv9), (.frag 0 0, .copy 3 plainC)],
      Claim.Acceptable (pending c.1 c.2 data) 9 (pend c.1 c.2) 0) ∧ Claim.Acceptable (pending (.ks 0) (.matrix (zeroing false)) ksBase) 9 (pend (.ks 0) (.matrix (zeroing false))) 0 ∧
    Claim.AtHead (copying plainC) 0 (ref 0) plainC ∧ Claim.AtHead (copying (chunk (.fill 7#32 false) 0x1000#64 [.unstarted])) 0 (ref 0) (chunk (.fill 7#32 false) 0x1000#64 [.unstarted]) ∧
    ((∃ s1 d, target' (copying plainC) plainC = (s1, .ok [d]) ∧ (freeRun s1 true d && oneRun (s1.xlatRange
      ((copying plainC).chanAsid (ref 0).chan) ((copying plainC).chanSup (ref 0).chan) (Claim.chunkAt plainC.src (ref 0)) (Claim.chunkLen plainC (ref 0)) .read)
      (fun s2 b => freeRun s2 true d && freeRun s2 false b)) = true) ∧
      ∃ s1 f, target' (copying (chunk (.plain false false) 0x2000#64 [.unstarted])) (chunk (.plain false false) 0x2000#64 [.unstarted]) = (s1, .error f) ∧ f.1.held = none) ∧
    ((copying plainC).unitIdle 1 = true ∧ (copying plainC).mortar.getD 0 [] = ref 0 :: [] ++ [ref 1] ∧
      (copying plainC).stealable (ref 1) = true ∧ ∀ j, j / 16 = 1 / 16 → ((copying plainC).mortar.getD j []).length < 2 ∨
        (((copying plainC).mortar.getD j []).length = 2 ∧ 0 ≤ j)) ∧
    (farCopy.remoteChunk 0 = some (ref 0) ∧ (farCopy.getChan (.team 0 3)).cmds = [remoteOne] ∧ remoteOne.bad = none ∧
      ChunkSt.unstarted ∈ remoteOne.chunks.set 0 (.done 0 []) ∧ ChunkSt.unstarted.done? = false) ∧
    (∃ T b s2, Claim.KvNext (treed 1) 0 T kv9 0 true b s2 ∧ b.pa = 0x60000000) ∧ Claim.LiveSeq (treed 1) kv9 0 true 1 ∧
    (treed 1).mem.readNat 0x60000000 4 = 1 ∧ (treed 1).seqHold ((treed 1).treeOf (1 / 2 ^ 24)) (1 % 2 ^ 24) < 2 ^ 32 - 1 ∧
    (∃ T b s2, Claim.KvNext (treed 0) 0 T kv9 0 true b s2 ∧ b.pa = 0x60000000) ∧ (treed 0).seqLive ((treed 0).treeOf 0) 0 = false ∧
    ((0, 0) ∈ pooled.refetch ∧ (∀ sl, (pooled.linesAt sl).length + (State.pageLines (pooled.treeOf 0) 0).length < sliceLines) ∧
      ∀ l ∈ State.pageLines (pooled.treeOf 0) 0, (pooled.arrAt (l * 128)).cls = 2) ∧
    ((withMq [zeroing false]).startCand 0 = some (zeroing false) ∧ (withMq [badLoad]).startCand 0 = some badLoad ∧
      (((withMq [zeroing false]).ksCtx 0).task.map (withMq [zeroing false]).enginesRun) = some true) ∧
    (((withMq [zeroing true]).ksCtx 0).mq = [zeroing true] ∧ (∀ n, (withMq [zeroing true]).mayInject 2 (0 / 4) n = true) ∧
      ((withMq [zeroing true]).ksCtx 0).acc = [] ∧ (withMq [zeroing true]).ksKilled 0 = false) ∧
    ([(3, accReq)] : Assoc Req) = [(3, accReq)] ∧ accReq.agent = .frag 0 0 ∧ accReq.op = .accWrite 0 2 ∧ accReq.lanes.length = 1 ∧
    (draining.ks.wf = true ∧ (draining.ksCtx 0).task = some 0 ∧ (draining.tasks.get? 0).map (·.st) = some .draining ∧
      (draining.ksCtx 0).tc.v = (draining.ksCtx 0).tc.last ∧ (∀ p ∈ draining.pends, p.2.agent ≠ .ks 0) ∧ ∀ p ∈ draining.reqs, p.2.agent ≠ .ks 0) ∧
    (∀ j < 4, ksBase.inWait (.ks (4 * 0 + j)) = false) ∧ ksBase.ksReady (4 * 0 + ((ksBase.clu 0).issueNext + 0) % 4) = true := by
  refine ⟨?_, ⟨rfl, by decide +kernel⟩, at_head _ (.head _),
    at_head _ (.tail _ (.tail _ (.head _))), free_runs, ⟨by decide +kernel, by decide +kernel, by decide +kernel, fun j _ => ?_⟩,
    by decide +kernel, kv_nexts.1, ⟨by decide +kernel, by decide +kernel⟩, by decide +kernel,
    by decide +kernel, kv_nexts.2, by decide +kernel, ⟨by decide +kernel, fun sl => ?_, by decide +kernel⟩, by decide +kernel,
    ⟨by decide +kernel, fun n => rfl, by decide +kernel⟩, by decide +kernel⟩
  · simp only [List.forall_mem_cons, List.not_mem_nil, false_implies, implies_true, and_true]
    constructor <;> exact ⟨rfl, by decide +kernel⟩
  · rcases j with _ | j
    · exact .inr ⟨by decide +kernel, Nat.le_refl _⟩
    · exact .inl (by simp [copying, Assoc.getD, Assoc.get?])
  · have : pooled.linesAt sl = [] := rfl
    rw [this]
    decide +kernel
/-- A group at a vector add, which belongs to slot A, and one more that was admitted after it. -/
def ldBase : State := { State.reset.loadWord .vector (Memory.leBytes 12 0x105E08018020011800000000) with cur := none, issue := [], clk := 600 }
def slots (promoted last : Assoc (Nat × Nat)) : State := { ldBase with
  cores := ldBase.cores.set 0 { ldBase.core 0 with slotBusy := [(1, 1000)], promoted := promoted, last := last } }
theorem slot_a : ∀ x ∈ [(([], []) : Assoc (Nat × Nat) × Assoc (Nat × Nat)), ([(0, (0, 0))], []), ([], [(0, (0, 0))])], Claim.SlotAOnly (slots x.1 x.2) 0 0 ∧
    (slots x.1 x.2).candidates 0 0 false = [(0, 0, 0, 0, false)] := by
  simp only [List.forall_mem_cons, List.not_mem_nil, false_implies, implies_true, and_true]
  and_intros <;> decide +kernel
def inState (st : FragState) : State := withGroup (fun G => { G with frags := G.frags.map fun p => (p.1, { p.2 with st := st }) }) data
def ksHeld : State := ksBase.modKs 0 fun c => { c with st := .held }
def watching (cause : Option Nat) (expiry : Option Nat) : State :=
  { data with watches := [{ id := 9, who := .frag 0 0, slice := 0, grain := 0x60000000, size := 32, overflow := false, expiry := expiry, cause := cause, woken := false }] }
/-- The group's line lease has run out. -/
def late (clk : Nat) : State := { holding with clk := clk }
def filtered : State := withGroup (fun G => { G with memIssued := 2048, filter := [1, 2, 3] }) data
/-- Two groups on core 0, of leases that fit together or do not, at a review. -/
def leasing (n : Nat) : State := { ldBase with
  clk := 8192
  ctl := ldBase.ctl.set 0x040 0x0#64
  grps := [(0, { (ldBase.grps.get? 0).getD (freshGroup 0 0 0 0 0#64 0#64 true 0 0) with declared := n }),
    (1, { (ldBase.grps.get? 0).getD (freshGroup 0 0 0 0 0#64 0#64 true 0 0) with declared := n, order := 1 })]
  tasks := ldBase.tasks.map fun p => (p.1, { p.2 with live := [0, 1] }) }
/-- A group that parks, with a frame pool at 0x60000000; and a parked one whose frame is gone or spoilt. -/
def parking : State := withGroup (fun G => { G with st := .parking, park := some { reason := 2, sets := [], unacked := 0, framed := false } })
  { data with mmio := [(0x20008, 0x60000010#64)] }
def parked (fs : List FrameRec) : State :=
  let s := withGroup (fun G => { G with st := .parked, park := some { reason := 2, sets := [], unacked := 0, framed := true } }) { data with frames := fs }
  { s with cores := s.cores.set 0 { s.core 0 with parkOrder := [0] } }
/-- The same on a core of which only partition 0 has room for its registers. -/
def crowded : State :=
  let s := parked []
  let G := (s.grps.get? 0).getD (freshGroup 0 0 0 0 0#64 0#64 true 0 0)
  { s with grps := (0, { G with reg := (List.range 250).map fun v => (v, []) }) :: ((List.range 18).map fun i =>
      (i + 16, { G with st := .active, park := none, partition := 1 + i / 6, reg := (List.range 256).map fun v => (v, []) })) }
def spoilt : State := parked [{ die := 0, base := 0x60000000, bytes := 16, kind := 1, owner := 0 }]
theorem length_leBytes (n x : Nat) : (Memory.leBytes n x).length = n := by simp [Memory.leBytes]
theorem frame_length (G : Group) (k o : Nat) : (groupFrame G k o).length = (groupFrame G 0 0).length := by
  simp [groupFrame, withCrc, length_leBytes]
def framedGroup : Group :=
  let G := (parking.grps.get? 0).getD (freshGroup 0 0 0 0 0#64 0#64 true 0 0)
  { G with frags := parking.savedFrags 0 G }
theorem parks : ∃ G p, parking.grps.get? 0 = some G ∧ G.st = .parking ∧ G.park = some p ∧ p.framed = false ∧ G.ld = 0 ∧ G.tr = 0 ∧ parking.mem.wf = true ∧
    parking.frameOf 1 0 = none ∧ ∀ k o, (parking.quietGroup 0).frameRoom (dieOfCore (parking.coreOfGrp 0))
      (groupFrame { G with frags := parking.savedFrags 0 G } k o).length ≠ none := by
  refine ⟨_, _, rfl, rfl, rfl, rfl, rfl, rfl, by decide +kernel, by decide +kernel, fun k o => ?_⟩
  rw [frame_length]
  exact (by decide +kernel : (parking.quietGroup 0).frameRoom (dieOfCore (parking.coreOfGrp 0)) (groupFrame framedGroup 0 0).length ≠ none)
theorem two_of {α : Type} {l : List α} {P : α → α → Prop} [∀ p q, Decidable (P p q)] (h : (match l with | [p, q] => decide (P p q) | _ => false) = true) :
    ∃ p q, l = [p, q] ∧ P p q := by
  split at h
  · exact ⟨_, _, rfl, by simpa using h⟩
  · cases h
theorem premises_Scheduling : (∀ x ∈ [(([], []) : Assoc (Nat × Nat) × Assoc (Nat × Nat)), ([(0, (0, 0))], []), ([], [(0, (0, 0))])], Claim.SlotAOnly (slots x.1 x.2) 0 0 ∧
      (slots x.1 x.2).candidates 0 0 false = [(0, 0, 0, 0, false)]) ∧
    (((slots [(0, (0, 0))] []).core 0).promoted.get? (0 * 2) = some (0, 0) ∧ ((slots [] [(0, (0, 0))]).core 0).last.get? (0 * 2) = some (0, 0) ∧
      ((slots [] []).core 0).promoted.get? (0 * 2) = none ∧ ((slots [] []).core 0).last.get? (0 * 2) = none ∧ 0 + 512 ≤ (slots [] []).clk) ∧
    (((inState .held).frag? 0 0).map (fun F => (F.st, F.holdUntil)) = some (.held, 0) ∧ 0 ≤ (inState .held).clk) ∧
    ((ksHeld.ksCtx 0).st = .held ∧ (ksHeld.ksCtx 0).holdUntil ≤ ksHeld.clk) ∧
    ((inState (.waiting (.sleeping 0))).hasAgent (.frag 0 0) = true ∧ (inState (.waiting (.sleeping 0))).stOf (.frag 0 0) = .waiting (.sleeping 0) ∧
      0 ≤ (inState (.waiting (.sleeping 0))).clk ∧ (inState (.waiting (.sleeping 9))).stOf (.frag 0 0) = .waiting (.sleeping 9) ∧
      (inState (.waiting (.sleeping 9))).clk < 9) ∧
    ((inState (.waiting (.idle (some 0) 0 0 none))).stOf (.frag 0 0) = .waiting (.idle (some 0) 0 0 none) ∧
      (let s := inState (.waiting (.idle (some 0) 0 0 none))
       (if s.ringTail (s.dieOf (.frag 0 0)) 0x020 ≠ 0 then [1] else []) ++ (if s.ringTail (s.dieOf (.frag 0 0)) 0x024 ≠ 0 then [2] else []) ++
         (if (0 : Nat) ≤ s.clk then [3] else [])) = [3]) ∧
    ((watching (some 1) none).watches.map (fun w => (w.slice, w.cause.isSome, w.woken)) = [(0, true, false)] ∧
      (watching none (some 0)).watches.map (fun w => (w.id, w.cause, w.expiry)) = [(9, none, some 0)] ∧ 0 ≤ (watching none (some 0)).clk ∧
      (watching none (some 9)).clk < 9 ∧ (watching (some 1) none).wakeAt.get? 0 ≠ some (watching (some 1) none).storeClk) ∧
    (∃ G, (late 100).grps.get? 0 = some G ∧ (∃ l ∈ G.leases, l.line = 0x60000000 / 128 ∧ l.expiry ≤ (late 100).clk) ∧
      ∀ l ∈ G.leases, l.dirty.wf = true) ∧ (late 100).swatches = [] ∧ (late 100).heldTrees = [] ∧ (late 100).mem.wf = true ∧
    (filtered.grps.get? 0).map (fun G => decide (2048 ≤ G.memIssued)) = some true ∧ (leasing 262144).grps.wf = true ∧
    (Claim.ReviewDue (leasing 128) 0 ∧ Claim.leaseSum (leasing 128) ((leasing 128).reviewOrder 0) ≤ Claim.capOf (leasing 128) 0 * ((leasing 128).core 0).f / 16) ∧
    (Claim.ReviewDue (leasing 262144) 0 ∧ ∃ p q, (leasing 262144).reviewOrder 0 = [p, q] ∧ p.1 ≠ q.1 ∧
      (leasing 262144).countedLease p.1 p.2 ≤ Claim.capOf (leasing 262144) 0 ∧ Claim.capOf (leasing 262144) 0 ≠ 0 ∧
      Claim.capOf (leasing 262144) 0 * ((leasing 262144).core 0).f / 16 < (leasing 262144).countedLease p.1 p.2 + (leasing 262144).countedLease q.1 q.2) ∧
    (∃ G p, parking.grps.get? 0 = some G ∧ G.st = .parking ∧ G.park = some p ∧ p.framed = false ∧ G.ld = 0 ∧ G.tr = 0 ∧ parking.mem.wf = true ∧
      parking.frameOf 1 0 = none ∧ ∀ k o, (parking.quietGroup 0).frameRoom (dieOfCore (parking.coreOfGrp 0))
        (groupFrame { G with frags := parking.savedFrags 0 G } k o).length ≠ none) ∧
    (crowded.firstReturn 0 = some 0 ∧ crowded.coreOfGrp 0 = 0 ∧ crowded.returnParts 0 0 = [0] ∧ crowded.frameGood 1 0 = true ∧
      (crowded.grps.get? 0).map (·.pending) = some none) ∧
    (spoilt.firstReturn 0 = some 0 ∧ spoilt.frameGood 1 0 = false ∧ (spoilt.tasks.get? 0).map (fun T => (T.killed, T.st)) = some (none, .resident)) ∧
    data.ctl.wf = true := by
  refine ⟨slot_a, ⟨rfl, rfl, rfl, rfl, by decide +kernel⟩, ⟨by decide +kernel, Nat.zero_le _⟩, by decide +kernel,
    ⟨by decide +kernel, by decide +kernel, Nat.zero_le _, by decide +kernel, by decide +kernel⟩, ⟨by decide +kernel, by decide +kernel⟩,
    ⟨by decide +kernel, by decide +kernel, Nat.zero_le _, by decide +kernel⟩, some_of (by decide +kernel), rfl, by decide +kernel, by decide +kernel,
    by decide +kernel, by decide +kernel, ?_, ?_, parks,
    (by decide +kernel), (by decide +kernel), by decide +kernel⟩
  · and_intros <;> decide +kernel
  · exact ⟨by and_intros <;> decide +kernel, two_of (by decide +kernel)⟩
/-- A queue's header at 0x60010000 with its ring of 16 entries at 0x60020000, and its next entry. -/
def record (bs : List (Nat × Nat)) : List Byte :=
  let bs := bs.flatMap fun p => Memory.leBytes p.1 p.2
  bs ++ List.replicate (127 - bs.length) 0#8
def launchRec (gpt : Nat) : List Byte :=
  record [(8, 0), (8, 0), (8, 0), (8, 3 + gpt * 16 + 2 ^ 16), (4, 64), (4, 2 ^ 20 + 1), (4, 2 ^ 24 + 2 * 2 ^ 20 + 2)] ++ [0#8]
def waitRec (v : Nat) : List Byte := record [(8, 0x1000), (8, v), (8, 0)] ++ [1#8]
def signalRec : List Byte := record [(8, 0x1000), (8, 5), (8, 1)] ++ [2#8]
def queueAt (word head tail : Nat) (e : List Byte) : State := { data with
  mmio := [(0x50008, 0x60010000#64)]
  mem := (((((data.mem.writeNat 397312 1 0x44).writeNat 0x60010000 8 0x60020000).writeNat 0x60010008 8 word).writeNat 0x60010010 8 head).writeNat 0x60010040 8 tail).writeBytes (0x60020000 + 128 * head) e }
def headOf (word head tail : Nat) : QHead := { at' := 0x60010000, ring := 0x60020000, word := word, head := head, tail := tail }
def userBit : State := user.setCtl 0x018 0#64
/-- What launch finds at the record's address. -/
def looked (s : State) : State × Except XFault Place := (s.releaseCt (.frag 0 0) .pkg).checkGlobal (.frag 0 0) 0x1000#64 128 .read .dflt
def launchable (s : State) (h : Option QHead) : Bool :=
  match looked s with
  | (s1, .ok (.mem pa _ _)) => decide (regionOf pa = .hbm) && !s1.dirConflict (s.agentId (.frag 0 0)) false pa 128 && (s1.homeError pa 128 .read).isNone &&
      plain s1 && decide (s1.queueHead 0 1 = h) && (match h with
        | some H => !s1.dirConflict (s.agentId (.frag 0 0)) true H.at' 128 && !s1.dirConflict (s.agentId (.frag 0 0)) true (H.slot H.tail) 128
        | none => true)
  | _ => false
theorem launchable_of {s : State} {h : Option QHead} (H : launchable s h = true) : ∃ s1 pa gr pol, looked s = (s1, .ok (.mem pa gr pol)) ∧ regionOf pa = .hbm ∧
    s1.dirConflict (s.agentId (.frag 0 0)) false pa 128 = false ∧ s1.homeError pa 128 .read = none ∧ Claim.Plain s1 ∧ s1.queueHead 0 1 = h ∧
    ∀ q, h = some q → s1.dirConflict (s.agentId (.frag 0 0)) true q.at' 128 = false ∧ s1.dirConflict (s.agentId (.frag 0 0)) true (q.slot q.tail) 128 = false := by
  unfold launchable at H
  split at H
  · rename_i s1 pa gr pol e
    simp only [Bool.and_eq_true, decide_eq_true_eq, Bool.not_eq_true', Option.isNone_iff_eq_none] at H
    obtain ⟨⟨⟨⟨⟨a, b⟩, c⟩, d⟩, i⟩, j⟩ := H
    refine ⟨s1, pa, gr, pol, e, a, b, c, plain_of d, i, fun q hq => ?_⟩
    subst hq
    simpa using j
  · cases H
/-- An entry that its processor may take up, with nothing beside the homes. -/
theorem next_of (word head tail : Nat) (e : List Byte) (h : ((queueAt word head tail e).queueHead 0 1 = some (headOf word head tail) ∧ (headOf word head tail).en = true ∧
    (headOf word head tail).bad = false ∧ (headOf word head tail).count ≠ 0 ∧ (queueAt word head tail e).dirConflict (idQueue 0) true 0x60010000 128 = false ∧
    (queueAt word head tail e).dirConflict (idQueue 0) false ((headOf word head tail).slot head) 128 = false) ∧
    (((queueAt word head tail e).queueSt 0 1).busy = none ∧ ((queueAt word head tail e).queueSt 0 1).watching = false ∧
      e = (queueAt word head tail e).mem.readBytes ((headOf word head tail).slot head) 128) ∧
    plain (queueAt word head tail e) = true) :
    Claim.QueueNext (queueAt word head tail e) 0 1 (headOf word head tail) e ∧ Claim.Plain (queueAt word head tail e) :=
  ⟨⟨h.1.1, h.1.2.1, h.1.2.2.1, h.1.2.2.2.1, h.1.2.2.2.2.1, h.1.2.2.2.2.2, h.2.1.1, h.2.1.2.1, h.2.1.2.2⟩, plain_of h.2.2⟩
theorem next_launch : Claim.QueueNext (queueAt 0x104 3 4 (launchRec 1)) 0 1 (headOf 0x104 3 4) (launchRec 1) ∧ Claim.Plain (queueAt 0x104 3 4 (launchRec 1)) :=
  next_of _ _ _ _ (by decide +kernel)
theorem next_bad : Claim.QueueNext (queueAt 0x104 3 4 (launchRec 0)) 0 1 (headOf 0x104 3 4) (launchRec 0) ∧ Claim.Plain (queueAt 0x104 3 4 (launchRec 0)) :=
  next_of _ _ _ _ (by decide +kernel)
theorem next_wait : ∀ v ∈ [0, 1], Claim.QueueNext (queueAt 0x104 3 4 (waitRec v)) 0 1 (headOf 0x104 3 4) (waitRec v) ∧ Claim.Plain (queueAt 0x104 3 4 (waitRec v)) := by
  simp only [List.forall_mem_cons, List.not_mem_nil, false_implies, implies_true, and_true]
  exact ⟨next_of _ _ _ _ (by decide +kernel), next_of _ _ _ _ (by decide +kernel)⟩
theorem next_signal : Claim.QueueNext (queueAt 0x104 3 4 signalRec) 0 1 (headOf 0x104 3 4) signalRec ∧ Claim.Plain (queueAt 0x104 3 4 signalRec) :=
  next_of _ _ _ _ (by decide +kernel)
/-- The semaphore's place as a check: the value it holds, and what else the statement asks. -/
def semPlaced (s : State) (acc : Acc) (write : Bool) : Bool :=
  match s.translate 0 true 0x1000#64 acc with
  | (s1, .ok x) => !s1.dirConflict (idQueue 0) write x.pa 8 && decide (regionOf x.pa = .hbm) &&
      (s1.homeError x.pa 8 (if write then (if acc = .write then .write else .atomic) else .read)).isNone && decide (s1.queueHead 0 1 = some (headOf 0x104 3 4)) &&
      decide (s1.mem.readNat x.pa 8 = 0) && decide (x.pa + 8 ≤ 0x60010010) && plain s1
  | _ => false
theorem sem_of {s : State} {acc : Acc} {write : Bool} (h : semPlaced s acc write = true) : ∃ s1 x, Claim.SemAt s s1 0 0 0x1000#64 acc write x ∧
    s1.queueHead 0 1 = some (headOf 0x104 3 4) ∧ s1.mem.readNat x.pa 8 = 0 ∧ Claim.Apart x.pa 8 0x60010010 8 ∧ Claim.Plain s1 := by
  unfold semPlaced at h
  split at h
  · rename_i s1 x e
    simp only [Bool.and_eq_true, decide_eq_true_eq, Bool.not_eq_true', Option.isNone_iff_eq_none] at h
    obtain ⟨⟨⟨⟨⟨⟨a, b⟩, c⟩, d⟩, f⟩, g⟩, i⟩ := h
    exact ⟨s1, x, ⟨e, a, b, c⟩, d, f, .inl g, plain_of i⟩
  · cases h
/-- A task that its dispatcher in quadrant q holds beside the one that is resident, since clock 0. -/
def offering (q : Nat) : State := { data with
  clk := 1000000
  tasks := data.tasks ++ data.tasks.map fun p => (1, { p.2 with st := .distributed, quad := q, passedOver := some 0, live := [] }) }
def admitting (s : State) (quad : Nat) : List (Nat × Task × Launch) → Bool
  | (n, T, L) :: _ => ((s.admittingCore quad T L).any fun c => (s.roomOn c L).isSome) && decide (s.tasks.get? n = some T)
  | [] => false
theorem admits_of {s : State} {quad : Nat} {xs : List (Nat × Task × Launch)} (h : admitting s quad xs = true) :
    ∃ n T L rest c r, xs = (n, T, L) :: rest ∧ Claim.Admits s quad n T L c r := by
  unfold admitting at h
  split at h
  · rename_i n T L rest
    simp only [Bool.and_eq_true, decide_eq_true_eq] at h
    obtain ⟨c, hc, hr⟩ := Option.any_eq_true _ _ |>.1 h.1
    obtain ⟨r, hr⟩ := Option.isSome_iff_exists.1 hr
    exact ⟨n, T, L, rest, c, r, rfl, hc, hr, h.2⟩
  · cases h
def ending (others : Bool) : State := { data with
  tasks := data.tasks.map (fun p => (p.1, { p.2 with st := .draining })) ++ if others then data.tasks.map fun p => (1, p.2) else [] }
/-- A draining team that still holds bank 2. -/
def endingBank : State := { ending true with cores := data.cores.set 0 { data.core 0 with banks := [(2, { emptyBank with role := .scratch, holder := some 0 })] } }
theorem premises_QueuesAndDispatch : Acts userBit (.frag 0 0) hd ∧ userBit.supOf (.frag 0 0) = false ∧
    (userBit.ctlReg (0x018 + 1 / 64 % 4)).getLsbD (1 % 64) = false ∧ Acts data (.frag 0 0) hd ∧ data.supOf (.frag 0 0) = true ∧ data.reqs = [] ∧
    data.ldOf (.frag 0 0) < 63 ∧ data.stcOf (.frag 0 0) < 63 ∧ readScl data (.frag 0 0) (sreg 4) true = 0x1000#64 ∧
    (launchable data none = true ∧ launchable (queueAt 0x104 3 4 []) (some (headOf 0x104 3 4)) = true ∧ launchable (queueAt 0x104 3 19 []) (some (headOf 0x104 3 19)) = true) ∧
    (headOf 0x104 3 4).en = true ∧ (headOf 0x104 3 4).count < 2 ^ (headOf 0x104 3 4).logn ∧ 2 ^ (headOf 0x104 3 19).logn ≤ (headOf 0x104 3 19).count ∧
    Claim.Apart ((headOf 0x104 3 4).slot 4) 128 0x60010000 128 ∧
    ((queueAt 0x104 3 3 []).queueHead 0 1 = some (headOf 0x104 3 3) ∧ (headOf 0x104 3 3).bad = false ∧ (headOf 0x104 3 3).count = 0 ∧
      (queueAt 0x111 3 3 []).queueHead 0 1 = some (headOf 0x111 3 3) ∧ (headOf 0x111 3 3).bad = true ∧ (headOf 0x111 3 3).en = true) ∧
    (recNat (launchRec 1) 0x7F 1 = 0 ∧ recordCode (launchRec 1) false = none ∧ (launchOfRecord (launchRec 1) 0 1 3 0 9).ser = false ∧
      (∀ p ∈ (queueAt 0x104 3 4 (launchRec 1)).tasks, p.1 < (queueAt 0x104 3 4 (launchRec 1)).nextId ∧ p.2.launch < (queueAt 0x104 3 4 (launchRec 1)).nextId) ∧
      recordCode (launchRec 0) false = some 1 ∧ recNat (launchRec 0) 0x50 8 = 0) ∧
    (∀ v ∈ [0, 1], recNat (waitRec v) 0x7F 1 = 1 ∧ State.semCode (waitRec v) 6 = none ∧ recNat (waitRec v) 0 8 = 0x1000 ∧
      semPlaced (Claim.afterEntry (queueAt 0x104 3 4 (waitRec v)) 0 1 (headOf 0x104 3 4)) .read false = true ∧ State.semCond (recNat (waitRec v) 0x10 8) 0 (recNat (waitRec v) 8 8) = (v == 0)) ∧
    (recNat signalRec 0x7F 1 = 2 ∧ State.semCode signalRec 2 = none ∧ recNat signalRec 0 8 = 0x1000 ∧ recNat signalRec 0x10 8 = 1 ∧
      (∀ p ∈ (queueAt 0x104 3 4 signalRec).launches, p.2.die ≠ 0 ∨ p.2.queue ≠ 1 ∨ p.2.done = true) ∧ semPlaced (Claim.afterEntry (queueAt 0x104 3 4 signalRec) 0 1 (headOf 0x104 3 4)) .both true = true) ∧
    (∃ n T L rest c r, (offering 0).offered 0 = (n, T, L) :: rest ∧ Claim.Admits (offering 0) 0 n T L c r) ∧
    ((offering 0).dispatchAlone.get? 0 = none ∧ ∃ n T L rest c r, (offering 0).dispatchList 0 = (n, T, L) :: rest ∧ Claim.Admits (offering 0) 0 n T L c r) ∧
    ((offering 0).dispatchList 0).map (fun x => x.2.1.passedOver) = [some 0] ∧
    ((offering 1).aloneOf 0 = none ∧ (offering 1).offered 0 = [] ∧ (offering 1).stealFrom 0 2 = none ∧ (offering 1).stealFrom 0 3 = none ∧
      ∃ n T L rest c r, ((offering 1).stealFrom 0 1).toList = (n, T, L) :: rest ∧ Claim.Admits (offering 1) 0 n T L c r) ∧
    (∀ b ∈ [true, false], ((ending b).tasks.get? 0).map (fun T => (T.st, T.maps.length, T.tcs.length, T.ks)) = some (.draining, 0, 0, none) ∧ (ending b).taskBusy 0 = false ∧
      (ending b).ownSwitches 0 0 = [] ∧ ((ending b).tasks.get? 0).map ((ending b).banksHeld 0) = some []) ∧
    (endingBank.taskBusy 0 = false ∧ endingBank.ownSwitches 0 0 = [] ∧ (endingBank.tasks.get? 0).map (endingBank.banksHeld 0) = some [2]) ∧
    ((ending true).tasks.get? 1).map (fun T => (T.launch, decide (T.st ≠ .done))) = some (0, true) ∧
    ((∀ p ∈ (ending false).tasks, p.2.launch = 0 → p.1 ≠ 0 → p.2.st = .done) ∧ ((ending false).launches.get? 0).map (fun L => (L.done, L.cmop, L.killed)) = some (false, 0, none) ∧
      (ending false).launches.wf = true ∧ (ending false).tasks.wf = true ∧ (ending false).staging = []) := by
  refine ⟨⟨⟨rfl, by decide +kernel⟩, by decide +kernel⟩, by decide +kernel, by decide +kernel, acts_data.1, by decide +kernel, rfl, by decide +kernel, by decide +kernel,
    rfl, by decide +kernel, rfl, by decide +kernel, by decide +kernel, .inr (by decide +kernel), by decide +kernel, by decide +kernel, by decide +kernel,
    by decide +kernel, admits_of (by decide +kernel), ⟨rfl, admits_of (by decide +kernel)⟩, by decide +kernel,
    ⟨by decide +kernel, by decide +kernel, by decide +kernel, by decide +kernel, admits_of (by decide +kernel)⟩, by decide +kernel,
    by decide +kernel, by decide +kernel⟩
/-- A set of one record of die 0 and its ring at 0x60000000, enabled or not. -/
def set0 : PendSet := { die := 0, retry := false, target := .group 0 0, cause := 0x11, recs := [List.replicate 32 1#8] }
def setting (ctl : W64) : State := { data with sets := [set0], ctl := data.ctl.set 0x020 ctl }
/-- A task in a pre-emption request; of class 2, with mask depth 1 and a budget; and a saved one with its frame. -/
def asked : State := { data with preq := [(0, [(0, 0)])] }
/-- The same once the task has left its core. -/
def leaving : State := { asked with tasks := asked.tasks.map fun p => (p.1, { p.2 with st := .distributed, live := [] }) }
def askedMasked : State := { halted with preq := [(0, [(0, 0)])], tasks := halted.tasks.map fun p => (p.1, { p.2 with mc := 1, budget := some 0 }) }
def askedOther : State := { halted with preq := [(0, [(0, 0)])] }
def heldTask : State := { data with tasks := data.tasks.map fun p => (p.1, { p.2 with hold := some 1 }) }
def savedGroup : Group := { (data.grps.get? 0).getD (freshGroup 0 0 0 0 0#64 0#64 true 0 0) with
  st := .parked, park := some { reason := 3, sets := [], unacked := 0, framed := true } }
def savedTask : Task := { (data.tasks.get? 0).getD (freshTask 0 0 [] 0 0 0) with st := .saved, live := [0] }
def saved : State := { data with
  mem := data.mem.writeBytes 0x60000000 (withCrc (Memory.leBytes 8 2) [])
  frames := [{ die := 0, base := 0x60000000, bytes := 12, kind := 2, owner := 0 }]
  tasks := [(0, savedTask)]
  grps := [(0, savedGroup)] }
theorem preq_free : Claim.PreqFree data 0 0#64 0 ∧ Claim.PreqFree data 0 0x100#64 1 ∧ Claim.PreqFree heldTask 0 0x200#64 2 ∧
    Claim.PreqFree heldTask 0 0x300#64 3 := by
  and_intros <;> decide +kernel
theorem premises_FaultSetsAndPreemption : ((∀ c, (setting c).sets = [] ++ set0 :: []) ∧ set0.recs = [List.replicate 32 1#8] ∧ ([0x60000806#64, 0#64].all fun c => (setting c).mem.wf && (setting c).ctl.wf &&
      !(setting c).dirConflict noAgentId true ((setting c).ringBase 0 0x020 + 32 * ((setting c).ringTail 0 0x020 % 2 ^ (setting c).ringLog 0 0x020)) 32) = true) ∧
    (setting 0x60000806#64).ringFits 0 0x020 1 = true ∧ (setting 0#64).ringFits 0 0x020 1 = false ∧
    Claim.PreqFree data 0 0#64 0 ∧ Claim.PreqFree data 0 0x100#64 1 ∧ Claim.PreqFree heldTask 0 0x200#64 2 ∧ Claim.PreqFree heldTask 0 0x300#64 3 ∧
    (∃ T, data.tasks.get? 0 = some T ∧ data.preqNames 0 0#64 T = true ∧ T.st = .resident ∧ T.core = (0x100#64).toNat / 2 ^ 16 % 256) ∧
    (∃ T, (offering 0).tasks.get? 1 = some T ∧ (offering 0).preqNames 0 0#64 T = true ∧ T.st = .distributed) ∧
    (∃ T, heldTask.tasks.get? 0 = some T ∧ heldTask.preqNames 0 0x200#64 T = true ∧ T.hold = some ((0x300#64).toNat / 2 ^ 16 % 256 + 1)) ∧
    asked.preqBusy 0 = true ∧ (∃ T, Claim.RestartReady asked 0 T) ∧
    (∃ T, leaving.tasks.get? 0 = some T ∧ T.st ≠ .resident) ∧ leaving.banksSwitch 0 = false ∧
    (∃ T, askedOther.tasks.get? 0 = some T ∧ askedOther.proceeding 0 = true ∧ ((askedOther.launchOf T).map (·.pcls)) = some 2 ∧ T.live = [0]) ∧
    (askedOther.grps.get? (0 * 16 + 0)).map (·.park) = some none ∧ (∃ T, askedMasked.tasks.get? 0 = some T ∧ T.mc = 1 ∧ T.budget = some 0) ∧
    0 ≤ askedMasked.clk ∧
    ∃ L parts, Claim.ReturnReady saved 0 savedTask L 0x6000000C 0 parts := by
  refine ⟨⟨fun _ => rfl, rfl, by decide +kernel⟩, by decide +kernel, by decide +kernel, preq_free.1,
    preq_free.2.1, preq_free.2.2.1, preq_free.2.2.2, some_of (by decide +kernel), some_of (by decide +kernel),
    some_of (by decide +kernel), by decide +kernel, ?_, some_of (by decide +kernel), by decide +kernel, some_of (by decide +kernel), by decide +kernel, some_of (by decide +kernel), Nat.zero_le _, ?_⟩
  · obtain ⟨T, h⟩ : ∃ T, asked.tasks.get? 0 = some T ∧ (((asked.launchOf T).map (·.pcls)) = some 0 ∧ T.chs = [] ∧ T.kvq = [] ∧ T.ks = none ∧ T.share = none) :=
      some_of (by decide +kernel)
    exact ⟨T, h.1, by decide +kernel, by decide +kernel, h.2.1, h.2.2.1, h.2.2.2.1, h.2.2.2.2.1, h.2.2.2.2.2, rfl, rfl, by decide +kernel⟩
  · refine ⟨_, _, rfl, rfl, rfl, by decide +kernel, rfl, by decide +kernel, by decide +kernel, by decide +kernel, by decide +kernel, by decide +kernel,
      rfl, rfl, by decide +kernel, by decide +kernel, by decide +kernel, by decide +kernel, fun g hg => ?_⟩
    have : saved.liveGroups 0 = [0] := by decide +kernel
    rw [this, List.mem_singleton] at hg
    subst hg
    exact ⟨_, _, rfl, rfl, rfl, rfl, rfl, by decide +kernel, rfl⟩
/-- Contract words: a PIN range of 64 MiB and its descriptor; a valid cache range; one whose lines move. -/
def cached : State := { data with ctl := ((data.ctl.set 0x40C 0x40000001#64).set 0x40D 0x43E00000#64).set 0x40E 0x6058#64 }
def moving (moved : NatSet) : State := { cached with contractFrom := [(3, ([0#64, 0#64], moved))] }
def firstLine : Nat := (cached.contractRange 3).1 / 128
def treeAt (w6 : W64) : State := { data with ctl := ((data.ctl.set 0x40C 0x80000001#64).set 0x40D 0x9FE00000#64).set 0x40E 0x2#64, mmio := [(0x30000, 0x8000000C#64), (0x30008, 1#64), (0x30018, 0x90000000#64), (0x30020, 0x400000002#64), (0x30030, w6)] }
/-- The cold queue's header allows 4 entries; the first frame was accessed or not. -/
def sweeping (b : Nat) : State := { data with
  ctl := data.ctl.set 0x038 0x60000001#64
  mem := ((data.mem.writeNat (0x60000000 + 4096) 1 b).writeNat 0x60000000 8 0x60200000).writeNat (0x60000000 + 12) 4 4 }
def published : State := { sweeping 0x20 with pubBusy := some (0, 1), published := [] }
def counted (u : UnitId) (n st : Nat) : State := { data with health := { data.health with counts := [(u, n)], st := st } }
def unfused : State := { data with firmware := { data.firmware with fused := 0 } }
def report : BringUpReport := { railsOk := true, ecdsaOk := true, lmsOk := true, imageVersion := 5, securityVersion := 5, imageDigest := 7, trainOk := true, retiredSlices := [], isolatedCores := [], portsUp := [0], failedLinks := [], ashlarId := 3, routing := [] }
theorem premises_PackageEvents_contract_installs : contract.contractSt 3 = 0 ∧ contract.ctl.wf = true ∧ (contract.contractWord 3 0).getLsbD 0 = false ∧ (0x40000001#64).getLsbD 0 = true ∧
      contract.contractError 3 false (0x40000001#64 &&& 0x000FFFFFFFE00001#64) (contract.contractWord 3 1) (contract.contractWord 3 2) (contract.contractWord 3 3) = 0 ∧
      contract.contractError 3 false (0x44000001#64 &&& 0x000FFFFFFFE00001#64) (contract.contractWord 3 1) (contract.contractWord 3 2) (contract.contractWord 3 3) ≠ 0 := by decide +kernel
theorem premises_PackageEvents_contract_changes : cached.contractSt 3 = 0 ∧ cached.ctl.wf = true ∧ (cached.contractWord 3 0).getLsbD 0 = true ∧ (0x40000000#64).getLsbD 0 = false ∧
      (0x40000000#64 ^^^ cached.contractWord 3 0) &&& 0x000FFFFFFFE00000#64 = 0#64 ∧ (cached.contractWord 3 2).toNat % 4 ≠ 2 ∧
      cached.contractError 3 true (cached.contractWord 3 0) (cached.contractWord 3 1) (cached.contractWord 3 2) 0#64 = 0 := by decide +kernel
theorem premises_PackageEvents_contract_moves : (moving []).contractFrom.get? 3 = some ([0#64, 0#64], []) ∧ (moving []).contractFrom.wf = true ∧ (moving []).ctl.wf = true ∧
      ((moving []).contractRange 3).1 ≤ firstLine * 128 ∧ firstLine * 128 < ((moving []).contractRange 3).2 ∧
      (moving []).dirConflict noAgentId false (firstLine * 128) 128 = false ∧ regionOf (firstLine * 128) = .hbm ∧
      0 + 1 < (((moving []).contractRange 3).2 - ((moving []).contractRange 3).1) / 128 := by decide +kernel
theorem premises_PackageEvents_trees : ([0#64, 1#64, 2#64, 3#64].all fun w => (treeAt w).mmio.wf && (treeAt w).treeWord 0 6 == w) = true ∧ (treeAt 2#64).mem.wf = true ∧
      (treeAt 2#64).halvesHeld (idOrris ((treeAt 2#64).homeOf ((treeAt 2#64).treeArea 0).1)) [(treeAt 2#64).treeArea 0] = [] ∧ (treeAt 3#64).kvPendingOn 0 = false ∧
      ((treeAt 0#64).setTreeCtl 0 false false (Claim.treeLast (treeAt 0#64) 0) 0).treeErr 0 = 0 ∧ (data.setTreeCtl 0 false false 0 0).treeErr 0 ≠ 0 := by decide +kernel
theorem premises_PackageEvents_publishes : data.pubBusy = none ∧ published.pubBusy = some (0, 1) ∧ published.exc (0 + 4096 * 0) = true ∧ ((List.range 128).all fun j => published.exc (((0 + 4096 * 0) / 32 + j) * 32)) = true := by decide +kernel
theorem premises_PackageEvents_sweeps : (data.ctlReg 0x038).getLsbD 0 = false ∧ ∀ b ∈ [0x40, 0], plain (sweeping b) = true ∧
      (∀ x ∈ (sweeping b).sweepSpots (sweptAddr (sweeping b).sweep), (sweeping b).dirConflict noAgentId true x.1 x.2 = false) ∧ ((sweeping b).ctlReg 0x038).getLsbD 0 = true ∧
      ((sweeping b).mem.readNat ((sweeping b).ftBase + 64) 8 + 2 ^ 64 - (sweeping b).mem.readNat ((sweeping b).ftBase + 16) 8) % 2 ^ 64 <
        (sweeping b).mem.readNat ((sweeping b).ftBase + 12) 4 ∧ (sweeping b).ftByte (sweptAddr (sweeping b).sweep) = BitVec.ofNat 8 b ∧
      (sweeping b).keptFrame (sweptAddr (sweeping b).sweep) = false := by decide +kernel
theorem premises_PackageEvents_windows : data.trafficUse.wf = true ∧ data.trafficWin.wf = true ∧ data.mmio.wf = true ∧ data.ctl.wf = true := by decide +kernel
theorem premises_PackageEvents_segments : (ring 217 (.powered 100)).segment 3 = .powered 100 ∧ 100 + 64 ≤ (ring 217 (.powered 100)).storeClk ∧ (ring 100 (.powered 100)).storeClk < 100 + 64 ∧
      (ring 221 (.deciding 166)).segment 3 = .deciding 166 ∧ 166 ≤ (ring 221 (.deciding 166)).storeClk ∧ (ring 221 .gated).segment 3 = .gated ∧
      (ring 221 (.waking 166)).segment 3 = .waking 166 ∧ (ring 221 (.waking 207)).segment 3 = .waking 207 ∧ (ring 221 (.waking 207)).storeClk < 207 := by decide +kernel
theorem premises_PackageEvents_errors : ((counted (.slice 1) 63 0).errorsOf (.slice 1) + 1 < 256 ∧ 64 ≤ (counted (.slice 1) 63 0).errorsOf (.slice 1) + 1 ∧ (counted (.slice 1) 63 0).health.st = 0) ∧
      256 ≤ (counted (.core 4) 255 1).errorsOf (.core 4) + 1 ∧ (counted (.slice 1) 63 0).errorsOf (.slice 1) + 16 < 256 := by decide +kernel
theorem premises_PackageEvents_halves : ((counted (.slice 1) 100 1).health.counts.map (·.1)).Nodup ∧ (counted (.slice 1) 100 1).health.st = 1 ∧ ∀ p ∈ (counted (.slice 1) 100 1).health.counts, p.2 < 128 := by decide +kernel
theorem premises_PackageEvents : Claim.AllGood unfused report ∧ (∃ p ∈ [0, 1], p ∈ report.portsUp) ∧ ({ report with railsOk := false } : BringUpReport).railsOk = false ∧ ({ report with lmsOk := false } : BringUpReport).lmsOk = false :=
  ⟨⟨rfl, rfl, rfl, by decide +kernel, rfl, rfl, rfl, rfl⟩, ⟨0, by decide, by decide⟩, rfl, rfl⟩
/-- Holders of two halves: a unit in recall that a peer and a host have not answered, an exclusive and a shared one. -/
def peerId : W32 := idPeer 9
def ent (st : Nat) (owner : Option W32) (sharers asked : List W32) : DirEnt :=
  { st := st, owner := owner, sharers := sharers, asked := asked, deadline := 50, whole := false, used := 0 }
def recalling (clk : Nat) : State := { data with clk := clk, dir := [(100, ent 5 (some peerId) [] [peerId]), (102, ent 5 none [peerId, idHost 0] [peerId, idHost 0]),
  (104, ent 3 (some peerId) [] []), (106, ent 1 none [peerId, idHost 0] [])] }
def peerReq (dst : Nat) (op : PeerOp) : PeerReq := { src := 9, tag := 4, dst := dst, pa := 0x60000000, op := op }
def replayed : State := { data with performed := [(peerReq data.selfId (.read 8), .peerAck 9 4 false)] }
/-- A store of the loaded group to a peer's window or a host's, sent and unanswered. -/
def farReq (pa : Nat) : Req :=
  let r := oneReq .store .rlx none none
  { r with lanes := r.lanes.map fun p => { p with loc := .mem pa 32 .dflt, sent := true } }
def farPeer : Nat := 2 ^ 45 + 9 * 2 ^ 44
def sent (pa clk : Nat) : State := { withReqs [(3, farReq pa)] with clk := clk, peerTags := [(9 * 4096 + 4, (3, pa, 0))] }
theorem sent_store (pa clk : Nat) (hp : (sent pa clk).mem.wf = true) : ∃ r p G, Claim.SentStore (sent pa clk) 3 r p pa 0 0 G ∧ r.blocking = false ∧ r.born = 0 :=
  ⟨_, _, _, ⟨rfl, rfl, rfl, rfl, rfl, rfl, ⟨_, _, rfl⟩, rfl, by decide, hp⟩, rfl, rfl⟩
/-- A link whose flits 3, 4 and 5 are not acknowledged, and a port with a session, a key exchange and keys. -/
def linked : State := { data with links := [(0, { Link.trained with unacked := [3, 4, 5], retries := 15 })] }
def port0 : Port := { Port.trained with session := some 7, handshake := some 8, memKey := some 9, ioKey := none }
def ported : State := { data with ports := [(0, port0), (1, Port.trained)] }
theorem premises_FabricEvents :
    ((recalling 0).dir.wf = true ∧ (recalling 0).dir.get? 100 = some (ent 5 (some peerId) [] [peerId]) ∧ peerId ≠ noAgentId ∧ remoteId peerId = true ∧
      (recalling 0).dir.get? 102 = some (ent 5 none [peerId, idHost 0] [peerId, idHost 0]) ∧ peerId ≠ idHost 0 ∧
      (recalling 0).dir.get? 104 = some (ent 3 (some peerId) [] []) ∧ (recalling 0).dir.get? 106 = some (ent 1 none [peerId, idHost 0] []) ∧
      50 ≤ (recalling 60).clk ∧ (recalling 60).dir.get? 100 = some (ent 5 (some peerId) [] [peerId]) ∧ (recalling 0).clk < 50) ∧
    ((∀ p ∈ data.performed, p.1 ≠ peerReq data.selfId (.read 8)) ∧ (∀ p ∈ data.performed, p.1 ≠ peerReq data.selfId (.write [1#8])) ∧
      Claim.OutsideFree data (idPeer 9) true 0x60000000 1 ∧ Claim.OutsideFree data (idPeer 9) false 0x60000000 8) ∧
    (replayed.performed = [] ++ (peerReq replayed.selfId (.read 8), .peerAck 9 4 false) :: [] ∧ (peerReq (data.selfId + 1) (.read 8)).dst ≠ data.selfId ∧
      ∃ l ls, data.linksTo (data.selfId + 1) = l :: ls) ∧
    ((sent farPeer 0).peerTags.get? (9 * 4096 + 4) = some (3, farPeer, 0) ∧ (sent farPeer 0).peerTags.wf = true ∧
      (∃ r p G, Claim.SentStore (sent farPeer 0) 3 r p farPeer 0 0 G ∧ r.blocking = false ∧ r.born = 0) ∧ (sent farPeer 0).peerTags.get? (9 * 4096 + 5) = none ∧
      (∃ r p G, Claim.SentStore (sent farPeer 6600000) 3 r p farPeer 0 0 G ∧ r.blocking = false ∧ r.born = 0) ∧ (sent farPeer 0).clk < 6600000 ∧
      6600000 ≤ (sent farPeer 6600000).clk) ∧
    ((∃ L, linked.links.get? 0 = some L ∧ L.up = true ∧ L.unacked = [3] ++ 4 :: [5] ∧ 4 ∉ [3]) ∧ linked.peerTags = []) ∧
    (ported.port 0 = some port0 ∧ Claim.OutsideFree ported (idHost 0) true 0x60000000 1 ∧ Claim.OutsideFree ported (idHost 0) false 0x60000000 8 ∧
      0x60000000 + 8 ≤ 2 ^ 39 ∧ port0.ioKey = none ∧ port0.memKey.isSome = true ∧ ported.port 1 = some Port.trained ∧ Port.trained.memKey = none ∧
      Port.trained.session = none ∧ port0.session.isSome = true ∧ port0.handshake = some 8) ∧
    ∃ r p G, Claim.SentStore (sent (2 ^ 44) 0) 3 r p (2 ^ 44) 0 0 G ∧ r.blocking = false ∧ r.born = 0 := by
  refine ⟨by decide +kernel, ⟨by decide +kernel, by decide +kernel, ?_, ?_⟩, ⟨by decide +kernel, by decide +kernel, List.exists_cons_of_ne_nil (by decide +kernel)⟩, ?_, ⟨some_of (by decide +kernel), rfl⟩, ?_, ?_⟩
  · exact ⟨by decide +kernel, by decide, by decide +kernel, rfl, plain_of (by decide +kernel), by decide +kernel⟩
  · exact ⟨by decide +kernel, by decide, by decide +kernel, rfl, plain_of (by decide +kernel), by decide +kernel⟩
  · exact ⟨by decide +kernel, by decide +kernel, sent_store _ _ (by decide +kernel), by decide +kernel, sent_store _ _ (by decide +kernel), by decide +kernel, by decide +kernel⟩
  · exact ⟨by decide +kernel, ⟨by decide +kernel, by decide, by decide +kernel, rfl, plain_of (by decide +kernel), by decide +kernel⟩,
      ⟨by decide +kernel, by decide, by decide +kernel, rfl, plain_of (by decide +kernel), by decide +kernel⟩,
      by decide, rfl, rfl, by decide +kernel, rfl, rfl, rfl, rfl⟩
  · exact sent_store _ _ (by decide +kernel)
theorem test_windows : isRemote farPeer = true ∧ regionOf (2 ^ 44) = .host := by decide +kernel

/-! Encodings, a step, memory. -/
theorem premises_DecodeEncode : (add id).wf .vector = true ∧ (tile id).wf .keystone = true := by decide +kernel
/-- The loaded machine at a vector add; at zeros; at an unmapped PC; and with a line that is current, published and as memory has it. -/
def atAdd : State := State.reset.loadWord .vector (Memory.leBytes 12 0x105E08018020011800000000)
def atZeros : State := State.reset.loadWord .vector []
def atNothing : State := withGroup (fun G => { G with frags := G.frags.map fun p => (p.1, { p.2 with pc := 0x2000#64 }) }) atZeros
def isInstr : Decoded → Bool
  | .instr _ => true
  | .bad _ _ => false
/-- What the fragment fetches, and whether it decodes. -/
def fetched (s : State) : State × Except (XFault × W64) (List Byte) := State.fetch { s with issue := [] } (.frag 0 0)
noncomputable def decodes (good : Bool) (t : State) (bs : List Byte) : Bool := isInstr (decode (streamOf (.frag 0 0)) (t.supOf (.frag 0 0)) (wordOfBytes bs)) == good
def cachedLine : State :=
  let t := (atAdd.translate 0 true 0#64 .fetch).1
  { atAdd with cores := atAdd.cores.set 0 { atAdd.core 0 with il := [(loadCode / 32, { data := t.mem.readBytes loadCode 32, wts := 0, rts := 0 })] } }
theorem next_of' {σ : Host.Outcome State Fault Refusal} (h : (match σ with | .next _ => true | _ => false) = true) : ∃ t, σ = .next t := by
  cases σ with
  | next t => exact ⟨t, rfl⟩
  | fault _ => cases h
  | refused _ => cases h
theorem premises_StepRunsDecoded : ({ atAdd with agenda := [.sweeperVisit] } : State).agenda = .sweeperVisit :: [] ∧ atAdd.agenda = [] ∧ atAdd.issue = .frag 0 0 :: [] ∧
    ({ atAdd with issue := [.frag 5 0] } : State).mayIssue (.frag 5 0) = false ∧ atAdd.mayIssue (.frag 0 0) = true ∧ atNothing.mayIssue (.frag 0 0) = true ∧
    (∃ t f, fetched atNothing = (t, .error f)) ∧ (∃ t bs, fetched atAdd = (t, .ok bs) ∧ decodes true t bs = true) ∧
    (∃ t bs, fetched atZeros = (t, .ok bs) ∧ decodes false t bs = true) ∧
    (cachedLine.pcOf (.frag 0 0)).toNat % 32 ≤ 20 ∧
    (∃ t x, cachedLine.translate (cachedLine.asidOf (.frag 0 0)) (cachedLine.supOf (.frag 0 0)) (cachedLine.pcOf (.frag 0 0)) .fetch = (t, .ok x) ∧
      (decide (x.pa % 32 = (cachedLine.pcOf (.frag 0 0)).toNat % 32) && (((t.icache (.frag 0 0)).get? (x.pa / 32)).any fun l =>
        decide (t.codeTime (.frag 0 0) ≤ l.rts) && decide (l.data = t.mem.readBytes (x.pa / 32 * 32) 32)) && t.isPublished (x.pa / 32 * 32)) = true) ∧
    ({ base with issue := [] } : State).agenda = [] :=
  ⟨rfl, rfl, rfl, by decide +kernel, by decide +kernel, by decide +kernel, error_of (by decide +kernel), ok_of (by decide +kernel), ok_of (by decide +kernel),
    by decide +kernel, ok_of (by decide +kernel), rfl⟩
theorem premises_StepKeepsMemory : atAdd.mem.wf = true ∧ ∃ t, step atAdd = .next t := ⟨by decide +kernel, next_of' (by decide +kernel)⟩
end Sys2Proof.Tests
end

section
/-! SUPPORT. Writes of a predicate, the conditions of R81 on bit vectors, and the operands that a slot refuses. -/
namespace Sys2Proof.Machine

/-! Predicates of a group (R17, R82). -/

@[simp] theorem pwrite_pred_self (G : Group) {p : Nat} (hp : p ≠ 15) (lanes val : Mask) :
    (G.pwrite p lanes val).pred p = (G.pred p &&& ~~~lanes) ||| (val &&& lanes) := by
  simp only [Group.pwrite, Group.pred, if_neg hp, getD_setAt, if_true]

@[simp] theorem pwrite_pred_ne (G : Group) {p q : Nat} (h : q ≠ p) (lanes val : Mask) :
    (G.pwrite p lanes val).pred q = G.pred q := by
  unfold Group.pwrite
  split
  · rfl
  · simp only [Group.pred, getD_setAt, if_neg h]

/-- A predicate write changes nothing of a group but the predicates. -/
theorem pwrite_keeps (G : Group) (p : Nat) (lanes val : Mask) :
    (G.pwrite p lanes val).sreg = G.sreg ∧ (G.pwrite p lanes val).reg = G.reg ∧
      (G.pwrite p lanes val).lastRead = G.lastRead ∧ (G.pwrite p lanes val).frags = G.frags ∧
      groupRest (G.pwrite p lanes val) = groupRest G := by
  unfold Group.pwrite
  split <;> exact ⟨rfl, rfl, rfl, rfl, rfl⟩

theorem writePred_step (s : State) (a : Agent) (p : Nat) (lanes val : Mask) :
    RegStep s (s.writePred a p lanes val) a [] [p] [] := by
  cases a with
  | frag g e =>
    refine ⟨leaves_modGrp s g e _ [] [p] [] id ?_ ?_ ?_ ?_ ?_, QueuesStay.of_eq rfl rfl, samePlace_modGrp s g e _ ?_⟩
    all_goals intro G
    all_goals obtain ⟨hsreg, hreg, hlast, hfrags, hrest⟩ := pwrite_keeps G p lanes val
    · intro i _
      simp only [Group.sget, hsreg]
    · intro q hq
      exact pwrite_pred_ne G (by simpa using hq) lanes val
    · exact hrest
    · intro v _ _
      rw [hreg]
    · intro v hv
      exact .inl (hlast ▸ hv)
    · exact hfrags
  | ks k =>
    unfold State.writePred
    dsimp only
    split
    · exact (RegStep.refl s (.ks k)).mono (by simp) (by simp) (by simp)
    · refine ⟨leaves_modKs s k _ [] [p] [] id (fun _ _ => rfl) ?_ rfl, QueuesStay.of_eq rfl rfl,
        samePlace_modKs s k _ rfl⟩
      intro q hq
      simp only [List.mem_singleton] at hq
      rw [getD_setAt, if_neg hq]

/-- A fragment's write of a predicate other than p15 takes effect in the lanes given. -/
theorem writePred_predOf {s : State} {g e p : Nat} (hs : s.hasAgent (.frag g e) = true) (hp : p ≠ 15) (lanes val : Mask) :
    (s.writePred (.frag g e) p lanes val).predOf (.frag g e) p =
      (s.predOf (.frag g e) p &&& ~~~lanes) ||| (val &&& lanes) := by
  obtain ⟨G, _, hG, _⟩ := hasAgent_group hs
  rw [State.writePred, predOf_modGrp]
  simp [State.predOf, hG, hp]

/-- p15 reads true in every lane (R17). -/
theorem predOf_p15 {s : State} {g e : Nat} {G : Group} (hG : s.grps.get? g = some G) :
    s.predOf (.frag g e) 15 = BitVec.allOnes 64 := by
  simp [State.predOf, hG, Group.pred]

/-- A truth value goes to the agent's own lanes of a predicate (R69). -/
theorem pset_eq_writePred (s : State) (a : Agent) (p : Nat) (b : Bool) :
    s.pset a p b = s.writePred a p (Claim.ownLanes s a) (if b then Claim.ownLanes s a else 0#64) := by
  cases a with
  | frag g e => rfl
  | ks k => cases b <;> simp [State.pset, State.writePred, Claim.ownLanes]

theorem pset_predOf {s : State} {a : Agent} (hs : s.hasAgent a = true) {p : Nat} (hp : p ≠ 15) (b : Bool) :
    (s.pset a p b).predOf a p = (s.predOf a p &&& ~~~Claim.ownLanes s a) |||
      ((if b then Claim.ownLanes s a else 0#64) &&& Claim.ownLanes s a) := by
  cases a with
  | frag g e => rw [pset_eq_writePred, writePred_predOf hs hp]
  | ks k =>
    simp only [State.pset, State.predOf, if_neg hp, ksCtx_modKs, if_true, getD_setAt, Claim.ownLanes]
    cases b <;> simp [hp]

/-! The conditions of R81. -/

theorem condHolds_eq {w : Nat} (hw : 0 < w) (sg : Bool) (op : Nat) (a b : BitVec w) :
    condHolds w sg op a.toNat b.toNat = Claim.holds sg op a b := by
  have bits_ne : (a.toNat &&& b.toNat != 0) = (a &&& b != 0) := by
    rw [Bool.eq_iff_iff]
    simp [← BitVec.toNat_inj]
  match op with
  | 0 => rw [Bool.eq_iff_iff]; simp [condHolds, Claim.holds, intVal_inj hw]
  | 1 => rw [Bool.eq_iff_iff]; simp [condHolds, Claim.holds, intVal_inj hw]
  | 2 => rw [Bool.eq_iff_iff]; simp [condHolds, Claim.holds, intVal_lt hw]
  | 3 => rw [Bool.eq_iff_iff]; simp [condHolds, Claim.holds, intVal_le hw]
  | 4 => rw [Bool.eq_iff_iff]; simp [condHolds, Claim.holds, intVal_lt hw]
  | 5 => rw [Bool.eq_iff_iff]; simp [condHolds, Claim.holds, intVal_le hw]
  | 6 => exact bits_ne
  | n + 7 => exact Bool.not_inj bits_ne

/-! Operands that a slot refuses (R16, R32). -/

theorem mem_sub {b : Bool} {n : Nat} (h : b = true) : n ∈ sub b n := by simp [sub, h]

/-- A register that a slot does not accept is sub-cause 1. -/
theorem regCheck_refused {st : Stream} {t z : Bool} {sl : Slot} {c : Cls} {i : BitVec 8} (hz : sl.zero = false)
    (h : sl.accepts st (sl.wide t) c i = false) : 1 ∈ regCheck st t (some sl) z c i := by
  simp [regCheck, hz, h, sub]

theorem srcCheck_of_reg {st : Stream} {t : Bool} {sl : Option Slot} {x : Src} {n : Nat}
    (h : n ∈ regCheck st t sl x.isZero x.cls x.idx) : n ∈ srcCheck st t sl x := List.mem_append_left _ h

theorem nCheck_of_d {st : Stream} {f : NForm} {r : NRow} {n : Nat} (h : n ∈ dstCheck st f.ty.is64 r.d f.d) :
    n ∈ nCheck st f r := by simp [nCheck, h]
theorem nCheck_of_a {st : Stream} {f : NForm} {r : NRow} {n : Nat} (h : n ∈ srcCheck st f.ty.is64 r.a f.a) :
    n ∈ nCheck st f r := by simp [nCheck, h]
theorem nCheck_of_b {st : Stream} {f : NForm} {r : NRow} {n : Nat} (h : n ∈ srcCheck st f.ty.is64 r.b f.b) :
    n ∈ nCheck st f r := by simp [nCheck, h]
theorem nCheck_of_c {st : Stream} {f : NForm} {r : NRow} {n : Nat} (h : n ∈ srcCheck st f.ty.is64 r.c f.c) :
    n ∈ nCheck st f r := by simp [nCheck, h]
theorem nCheck_of_ty {st : Stream} {f : NForm} {r : NRow} {n : Nat} (h : n ∈ tyCheck r.tys f.ty) :
    n ∈ nCheck st f r := by simp [nCheck, h]
theorem iCheck_of_ty {st : Stream} {f : IForm} {r : NRow} {n : Nat} (h : n ∈ tyCheck r.tys f.ty) :
    n ∈ iCheck st f r := by simp [iCheck, h]

/-- S accepts scalar registers only. -/
theorem regCheck_S {st : Stream} {t z : Bool} {c : Cls} {i : BitVec 8} (h : c ≠ .scl) : 1 ∈ regCheck st t S z c i := by
  refine regCheck_refused rfl ?_
  cases c <;> simp_all [Slot.accepts]

/-- The destination of s.cmp is a scalar register or a predicate (R69). -/
theorem regCheck_SPr {st : Stream} {t z : Bool} {c : Cls} {i : BitVec 8} (h : c = .vec ∨ c = .eng) :
    1 ∈ regCheck st t SPr z c i := by
  refine regCheck_refused rfl ?_
  rcases h with rfl | rfl <;> simp [Slot.accepts]

/-- P accepts predicates only. -/
theorem regCheck_P {st : Stream} {t z : Bool} {c : Cls} {i : BitVec 8} (h : c ≠ .spec ∨ 16 ≤ i.toNat) :
    1 ∈ regCheck st t P z c i := by
  refine regCheck_refused rfl ?_
  cases c <;> simp_all [Slot.accepts]

theorem tyCheck_W32 {t : Ty} (hs : t ≠ .s32) (hn : t ≠ .n32) : 3 ∈ tyCheck tW32 t :=
  mem_sub (by simp [tW32, hs, hn])

end Sys2Proof.Machine
end

section
/-! PROOFS. s.cmp and s.sel (R69). -/
namespace Sys2Proof.Machine

/-- A truth value of an instruction that acts once (R69). -/
theorem sclTruth_done {s : State} {a : Agent} {h : Hdr} (hs : Acts s a h) (d : Dst) (lat : Nat) (b : State → Bool) :
    Claim.TruthDone s (sclTruth s a h d lat b) a d (b s) := by
  unfold Claim.TruthDone sclTruth
  split
  · rw [if_pos hs.2]
    have hset : RegStep s (s.pset a d.idx.toNat (b s)) a [] [d.idx.toNat] [] :=
      pset_eq_writePred s a d.idx.toNat (b s) ▸ writePred_step s a d.idx.toNat _ _
    have hbusy := addBusy_step (s.pset a d.idx.toNat (b s)) a [(2, d.idx.toNat)] lat
    refine ⟨fun hp => ?_, (hset.trans hbusy).retire h⟩
    rw [(retire_leaves _ a h).pred _ (by simp), hbusy.leaves.pred _ (by simp), pset_predOf hs.1.2 (by omega)]
  · exact sclOp_done hs _ _ lat _

/-- Two scalar registers compare as R81 says. -/
theorem condHolds_regs (s : State) (a : Agent) (x y : Src) (hx : x.cls ≠ .spec) (hy : y.cls ≠ .spec) (sg : Bool) (op : Nat) :
    condHolds 32 sg op (readScl s a x false).toNat (readScl s a y false).toNat =
      Claim.holds sg op (Claim.reg s a x) (Claim.reg s a y) := by
  rw [readScl_reg s a x hx, readScl_reg s a y hy, toNat_wide, toNat_wide]
  exact condHolds_eq (by decide) sg op _ _

/-- The same with an immediate as B. -/
theorem condHolds_imm (s : State) (a : Agent) (x : Src) (hx : x.cls ≠ .spec) (imm : W32) (sg : Bool) (op : Nat) :
    condHolds 32 sg op (readScl s a x false).toNat imm.toNat = Claim.holds sg op (Claim.reg s a x) imm := by
  rw [readScl_reg s a x hx, toNat_wide]
  exact condHolds_eq (by decide) sg op _ _

/-! s.cmp and s.sel (R69). -/

theorem sCmp_done {s : State} {a : Agent} {h : Hdr} (hs : Acts s a h) {f : NForm} (hf : Claim.Regs f) :
    ∃ t, exec (.sCmp h f) s = .next t ∧
      Claim.TruthDone s t a f.d (Claim.holds (Ty.signed f.ty) f.op.toNat (Claim.reg s a f.a) (Claim.reg s a f.b)) := by
  obtain ⟨ha, hb, _⟩ := hf
  rw [← condHolds_regs s a f.a f.b ha hb]
  exact ⟨_, withAgent_run hs.1 _, sclTruth_done hs f.d 2 _⟩

theorem sCmpImm_done {s : State} {a : Agent} {h : Hdr} (hs : Acts s a h) {f : IForm} (hf : f.a.cls ≠ .spec) :
    ∃ t, exec (.sCmpImm h f) s = .next t ∧
      Claim.TruthDone s t a f.d (Claim.holds (Ty.signed f.ty) f.op.toNat (Claim.reg s a f.a) f.imm) := by
  rw [← condHolds_imm s a f.a hf]
  exact ⟨_, withAgent_run hs.1 _, sclTruth_done hs f.d 2 _⟩

theorem wide_eq_zero (x : W32) : x.setWidth 64 = 0#64 ↔ x = 0#32 := by
  rw [← BitVec.toNat_inj, toNat_wide, ← BitVec.toNat_inj]
  rfl

theorem sSel_done {s : State} {a : Agent} {h : Hdr} (hs : Acts s a h) {f : NForm} (hf : Claim.Regs f) :
    ∃ t, exec (.sSel h f) s = .next t ∧ SclDone s t a f.d.idx.toNat false
      ((if Claim.reg s a f.c ≠ 0#32 then Claim.reg s a f.a else Claim.reg s a f.b).setWidth 64) := by
  obtain ⟨ha, hb, hc⟩ := hf
  refine ⟨_, withAgent_run hs.1 _, (sclOp_done hs _ _ 2 _).low (congrArg lo32 ?_)⟩
  rw [readScl_reg s a f.a ha, readScl_reg s a f.b hb, readScl_reg s a f.c hc]
  simp only [bne_iff_ne, ne_eq, wide_eq_zero]
  exact (apply_ite (BitVec.setWidth 64) _ _ _).symm

/-- Settles O3 (R69, R81): each form runs by its `_done` lemma, and what it does not accept is a sub-cause of its row's
check. -/
theorem scalarCompareSelect : Obligations.ScalarCompareSelect := by
  unfold Obligations.ScalarCompareSelect
  refine ⟨fun h f s a hs hf => sCmp_done hs hf, fun h f s a hs hf => sCmpImm_done hs hf,
    fun h f s a hs hf => sSel_done hs hf, fun h f st => ⟨?_, ?_, ?_⟩, fun h f st hsg hun => ?_⟩
  · exact fun hsg hun => nCheck_of_ty (tyCheck_W32 hsg hun)
  · exact fun hd => nCheck_of_d (regCheck_SPr hd)
  · rintro ⟨x, hx, hcls⟩
    simp only [List.mem_cons, List.not_mem_nil, or_false] at hx
    have hreg := srcCheck_of_reg (regCheck_S (st := st) (t := f.ty.is64) (z := x.isZero) (i := x.idx) hcls)
    rcases hx with rfl | rfl | rfl
    · exact nCheck_of_a hreg
    · exact nCheck_of_b hreg
    · exact nCheck_of_c hreg
  · exact iCheck_of_ty (tyCheck_W32 hsg hun)

end Sys2Proof.Machine
end

section
/-! PROOFS. s.rdsr (R71). -/
namespace Sys2Proof.Machine

/-- s.rdsr writes what it reads: to a pair for predicates and the clock, to one register for the others. -/
theorem sRdsr_done {s : State} {a : Agent} {h : Hdr} (hs : Acts s a h) (f : NForm) :
    ∃ t, exec (.sRdsr h f) s = .next t ∧ SclDone s t a f.d.idx.toNat (f.a.idx.toNat < 16 || f.a.idx.toNat == 0x20)
      (rdsrValue s a f.a.idx.toNat) :=
  ⟨_, withAgent_run hs.1 _, sclOp_done hs _ _ 4 _⟩

theorem rdsrValue_pred (s : State) (a : Agent) {i : Nat} (hi : i < 16) : rdsrValue s a i = s.predOf a i := by
  unfold rdsrValue
  rw [if_pos hi]
  cases a with
  | frag g e => rfl
  | ks k =>
    simp only [State.predOf]
    split <;> rfl

theorem rdsrValue_special (s : State) (a : Agent) {i : Nat} (hi : 16 ≤ i) :
    rdsrValue s a i = special s a i (lowLane (s.maskOfAgent a)) := by
  unfold rdsrValue
  rw [if_neg (by omega)]
  rfl

theorem special_clock (s : State) (a : Agent) (l : Nat) : special s a 0x20 l = BitVec.ofNat 64 (clockOf s a) := by
  cases a <;> rfl

/-- An agent's clock is at most 16 ahead of the package's (R17). -/
theorem clockOf_near (s : State) (a : Agent) : ∃ skew ≤ 16, clockOf s a = s.clk + skew :=
  ⟨Config.clkSkew (s.coreOf a) % 17, by omega, rfl⟩

/-- The lowest lane of a mask that has one is the number of its trailing zeros. -/
theorem lowLane_eq_trailing {m : Mask} (hm : m ≠ 0#64) : lowLane m = Claim.trailing m := by
  unfold lowLane lanesOf Claim.trailing
  rw [List.headD_eq_head?_getD, List.head?_filter]
  cases hf : (List.range 64).find? (fun l => m.getLsbD l) with
  | some l => rfl
  | none =>
    refine absurd (BitVec.eq_of_getLsbD_eq fun l hl => ?_) hm
    simpa using List.find?_eq_none.1 hf l (List.mem_range.2 hl)

/-- A fragment whose instruction acts has a lane (R14). -/
theorem Acts.mask_ne_zero {s : State} {g e : Nat} {h : Hdr} (hs : Acts s (.frag g e) h) :
    s.maskOfAgent (.frag g e) ≠ 0#64 := by
  intro hm
  have := hs.2
  simp [State.guardOnce, State.guardMask, hm] at this

theorem taskOf_frag {s : State} {g e : Nat} {G : Group} {T : Task} (hG : s.grps.get? g = some G)
    (hT : s.tasks.get? G.task = some T) : s.taskOf (.frag g e) = some T := by
  simp [State.taskOf, State.taskIdOf, hG, hT]

theorem coreOf_frag {s : State} {g e : Nat} {G : Group} {T : Task} (hG : s.grps.get? g = some G)
    (hT : s.tasks.get? G.task = some T) : s.coreOf (.frag g e) = T.core := by
  simp [State.coreOf, State.coreOfGrp, State.grpTask, hG, hT]

/-- The launch levels from 2 up (R251). -/
theorem special_level {s : State} {a : Agent} {T : Task} (hT : s.taskOf a = some T) {i : Nat} (hi : i < 6) (l : Nat) :
    special s a (0x1A + i) l = BitVec.ofNat 64 (T.lvl.getD i 0) := by
  have hlevel : levelIdx s a (0x1A + i - 0x18) = T.lvl.getD i 0 := by
    simp [levelIdx, hT, show 0x1A + i - 0x18 - 2 = i by omega]
  rw [← hlevel]
  have hlist : i = 0 ∨ i = 1 ∨ i = 2 ∨ i = 3 ∨ i = 4 ∨ i = 5 := by omega
  rcases hlist with rfl | rfl | rfl | rfl | rfl | rfl <;> cases a <;> rfl

/-- The specials of a fragment that its place gives (R17). -/
theorem special_frag {s : State} {g e : Nat} {G : Group} {T : Task} (hG : s.grps.get? g = some G)
    (hT : s.tasks.get? G.task = some T) {i v l : Nat}
    (hv : (i, v) ∈ [(0x10, l), (0x11, e), (0x12, G.idx), (0x13, T.slot), (0x14, T.core), (0x15, T.core / 4),
      (0x16, T.core / 48), (0x18, l), (0x19, G.idx)]) :
    16 ≤ i ∧ i ≠ 0x20 ∧ special s (.frag g e) i l = BitVec.ofNat 64 v := by
  simp only [List.mem_cons, Prod.mk.injEq, List.not_mem_nil, or_false] at hv
  rcases hv with ⟨rfl, rfl⟩ | ⟨rfl, rfl⟩ | ⟨rfl, rfl⟩ | ⟨rfl, rfl⟩ | ⟨rfl, rfl⟩ | ⟨rfl, rfl⟩ | ⟨rfl, rfl⟩ |
    ⟨rfl, rfl⟩ | ⟨rfl, rfl⟩
  all_goals
    refine ⟨by decide, by decide, ?_⟩
    simp [special, hG, taskOf_frag hG hT, coreOf_frag hG hT, State.cluOf, State.dieOf, cluOfCore, dieOfCore]

/-- The specials of a Keystone context that its place gives; it has no lane, fragment or group (R17). -/
theorem special_ks (s : State) (k l : Nat) {i v : Nat}
    (hv : (i, v) ∈ [(0x10, 0), (0x11, 0), (0x12, 0), (0x13, k % 4), (0x14, 0), (0x15, k / 4), (0x16, k / 48), (0x18, 0),
      (0x19, 0)]) :
    16 ≤ i ∧ i ≠ 0x20 ∧ special s (.ks k) i l = BitVec.ofNat 64 v := by
  simp only [List.mem_cons, Prod.mk.injEq, List.not_mem_nil, or_false] at hv
  rcases hv with ⟨rfl, rfl⟩ | ⟨rfl, rfl⟩ | ⟨rfl, rfl⟩ | ⟨rfl, rfl⟩ | ⟨rfl, rfl⟩ | ⟨rfl, rfl⟩ | ⟨rfl, rfl⟩ |
    ⟨rfl, rfl⟩ | ⟨rfl, rfl⟩
  all_goals exact ⟨by decide, by decide, rfl⟩

/-- s.rdsr copies a predicate's 64 bits to a pair. -/
theorem sRdsr_pred {s : State} {a : Agent} {h : Hdr} (hs : Acts s a h) {f : NForm} (hi : f.a.idx.toNat < 16) :
    ∃ t, exec (.sRdsr h f) s = .next t ∧ SclDone s t a f.d.idx.toNat true (s.predOf a f.a.idx.toNat) := by
  have hrun := sRdsr_done hs f
  rwa [rdsrValue_pred s a hi, decide_eq_true hi, Bool.true_or] at hrun

/-- s.rdsr copies the clock to a pair. -/
theorem sRdsr_clock {s : State} {a : Agent} {h : Hdr} (hs : Acts s a h) {f : NForm} (hi : f.a.idx = 0x20#8) :
    ∃ t skew, exec (.sRdsr h f) s = .next t ∧ skew ≤ 16 ∧
      SclDone s t a f.d.idx.toNat true (BitVec.ofNat 64 (s.clk + skew)) := by
  obtain ⟨t, hrun, hdone⟩ := sRdsr_done hs f
  obtain ⟨skew, hskew, hclk⟩ := clockOf_near s a
  have hi' : f.a.idx.toNat = 0x20 := by rw [hi]; rfl
  rw [hi', rdsrValue_special s a (by decide), special_clock, hclk] at hdone
  exact ⟨t, skew, hrun, hskew, hdone⟩

/-- s.rdsr copies any other special to one register. -/
theorem sRdsr_one {s : State} {a : Agent} {h : Hdr} (hs : Acts s a h) {f : NForm} {x : W64}
    (hx : 16 ≤ f.a.idx.toNat ∧ f.a.idx.toNat ≠ 0x20 ∧ special s a f.a.idx.toNat (lowLane (s.maskOfAgent a)) = x) :
    ∃ t, exec (.sRdsr h f) s = .next t ∧ SclDone s t a f.d.idx.toNat false x := by
  obtain ⟨hlow, hclk, hval⟩ := hx
  have hrun := sRdsr_done hs f
  rwa [rdsrValue_special s a hlow, hval, decide_eq_false (by omega), beq_false_of_ne hclk] at hrun

/-- s.rdsr of a fragment's place; sr.lane gives the lowest active lane. -/
theorem sRdsr_frag {s : State} {g e : Nat} {h : Hdr} {G : Group} {T : Task} (hs : Acts s (.frag g e) h)
    (hG : s.grps.get? g = some G) (hT : s.tasks.get? G.task = some T) {f : NForm} {v : Nat}
    (hv : (f.a.idx.toNat, v) ∈ [(0x10, Claim.trailing (s.maskOfAgent (.frag g e))), (0x11, e), (0x12, G.idx), (0x13, T.slot),
      (0x14, T.core), (0x15, T.core / 4), (0x16, T.core / 48), (0x18, Claim.trailing (s.maskOfAgent (.frag g e))),
      (0x19, G.idx)]) :
    ∃ t, exec (.sRdsr h f) s = .next t ∧ SclDone s t (.frag g e) f.d.idx.toNat false (BitVec.ofNat 64 v) := by
  rw [← lowLane_eq_trailing hs.mask_ne_zero] at hv
  exact sRdsr_one hs (special_frag hG hT hv)

/-- s.rdsr of a Keystone context's place. -/
theorem sRdsr_ks {s : State} {k : Nat} {h : Hdr} (hs : Acts s (.ks k) h) {f : NForm} {v : Nat}
    (hv : (f.a.idx.toNat, v) ∈ [(0x10, 0), (0x11, 0), (0x12, 0), (0x13, k % 4), (0x14, 0), (0x15, k / 4), (0x16, k / 48),
      (0x18, 0), (0x19, 0)]) :
    ∃ t, exec (.sRdsr h f) s = .next t ∧ SclDone s t (.ks k) f.d.idx.toNat false (BitVec.ofNat 64 v) :=
  sRdsr_one hs (special_ks s k _ hv)

/-- s.rdsr of a launch level from 2 up, for either kind of agent. -/
theorem sRdsr_level {s : State} {a : Agent} {h : Hdr} (hs : Acts s a h) {T : Task} (hT : s.taskOf a = some T) {f : NForm}
    {i : Nat} (hi : i < 6) (hf : f.a.idx.toNat = 0x1A + i) :
    ∃ t, exec (.sRdsr h f) s = .next t ∧ SclDone s t a f.d.idx.toNat false (BitVec.ofNat 64 (T.lvl.getD i 0)) :=
  sRdsr_one hs ⟨by omega, by omega, hf ▸ special_level hT hi _⟩

/-- R71 needs A to be of class 10. -/
theorem sRdsr_check_class {f : NForm} (hf : f.a.cls ≠ .spec) (h : Hdr) (st : Stream) :
    1 ∈ (Instr.sRdsr h f).check st := by
  refine nCheck_of_a (srcCheck_of_reg (regCheck_refused rfl ?_))
  cases hc : f.a.cls <;> simp_all [Slot.accepts]

/-- A special of 64 bits needs an even pair, where D is a register. -/
theorem sRdsr_check_pair {f : NForm} (hd : f.d.cls ≠ .spec) (hf : f.a.cls = .spec)
    (hi : f.a.idx.toNat < 16 ∨ f.a.idx = 0x20#8) (hodd : f.d.idx.toNat % 2 = 1) (h : Hdr) (st : Stream) :
    5 ∈ (Instr.sRdsr h f).check st := by
  have hwide : (f.a.cls == .spec && (f.a.idx.toNat < 16 || f.a.idx == 0x20#8)) = true := by
    rcases hi with hi | hi <;> simp [hf, hi]
  refine nCheck_of_d ?_
  simp only [hwide, if_true]
  simp [dstCheck, SP, regCheck, Slot.align, sub, hd, hodd]

/-- Refutes O4: its last clause fails for s.rdsr of sr.clk whose D names the special p1 (class 10, index 1). The check
reports sub-cause 1 alone there, since the pair rule of R20 concerns registers, and a special's odd index is no
misaligned pair. With D a register the clause holds (`sRdsr_check_pair`), and so do the class check of A
(`sRdsr_check_class`) and the clauses on execution (`sRdsr_pred`, `sRdsr_clock`, `sRdsr_frag`, `sRdsr_ks`,
`sRdsr_level`). -/
theorem not_specialReads : ¬ Obligations.SpecialReads := by
  unfold Obligations.SpecialReads
  rintro ⟨_, hcheck⟩
  have hodd := (hcheck (Claim.head 15)
    { d := { cls := .spec, idx := 1#8 }, a := { cls := .spec, idx := 0x20#8, perm := 0#4 }, b := Claim.vreg 0,
      c := Claim.vreg 0, ty := .s32, rnd := .rne, sat := false, aux := 0#6, op := 0#5 } .vector).2 rfl (.inr rfl) rfl
  exact absurd hodd (by decide)

end Sys2Proof.Machine
end

section
/-! PROOFS. v.addx and v.subx (R78). -/
namespace Sys2Proof.Machine

/-! Lanes of a mask and of a list of writes. -/

theorem mem_lanesOf {m : Mask} {l : Nat} : l ∈ lanesOf m ↔ m.getLsbD l = true := by
  simp only [lanesOf, List.mem_filter, List.mem_range, and_iff_right_iff_imp]
  exact fun hl => BitVec.lt_of_getLsbD hl

theorem getLsbD_laneBit (i l : Nat) : (laneBit i).getLsbD l = (decide (l < 64) && decide (l = i)) := by
  rw [Bool.eq_iff_iff]
  simp only [laneBit, BitVec.getLsbD_shiftLeft, BitVec.getLsbD_one, Bool.and_eq_true, decide_eq_true_eq, Bool.not_eq_true',
    decide_eq_false_iff_not]
  omega

/-- The mask of a list has exactly the list's lanes. -/
theorem getLsbD_maskOf (ls : List Nat) {l : Nat} (hl : l < 64) : (maskOf ls).getLsbD l = decide (l ∈ ls) := by
  have hfold : ∀ m : Mask, (ls.foldl (fun m l => m ||| laneBit l) m).getLsbD l = (m.getLsbD l || decide (l ∈ ls)) := by
    induction ls with
    | nil => simp
    | cons i r ih =>
      intro m
      rw [List.foldl_cons, ih, BitVec.getLsbD_or, getLsbD_laneBit, Bool.or_assoc]
      simp [hl]
  simpa [maskOf] using hfold 0#64

theorem getLsbD_lanesWhere (part : Mask) (f : Nat → Bool) {l : Nat} (hl : l < 64) :
    (lanesWhere part f).getLsbD l = (part.getLsbD l && f l) := by
  rw [lanesWhere, getLsbD_maskOf _ hl, Bool.eq_iff_iff]
  simp [mem_lanesOf]

/-- A predicate write takes the new bit in the lanes given and keeps the old one elsewhere. -/
theorem getLsbD_merge (old lanes val : Mask) {l : Nat} (hl : l < 64) :
    ((old &&& ~~~lanes) ||| (val &&& lanes)).getLsbD l = if lanes.getLsbD l then val.getLsbD l else old.getLsbD l := by
  simp only [BitVec.getLsbD_or, BitVec.getLsbD_and, BitVec.getLsbD_not, hl]
  cases lanes.getLsbD l <;> simp

/-- Writes of a lane function reach exactly the participating lanes. -/
theorem written_eachLane (part : Mask) (f : Nat → W64) (l : Nat) (old : W32) (half : W64 → W32) :
    written (eachLane part f) l old half = if part.getLsbD l then half (f l) else old := by
  unfold written eachLane
  rw [List.find?_map, Function.comp_def]
  cases hf : (lanesOf part).find? (fun i => i == l) with
  | none =>
    have hout : part.getLsbD l = false := by
      rw [Bool.eq_false_iff, ne_eq, ← mem_lanesOf]
      exact fun hin => by simpa using List.find?_eq_none.1 hf l hin
    simp [hout]
  | some i =>
    obtain rfl : i = l := by simpa using List.find?_some hf
    have hin := mem_lanesOf.1 (List.mem_of_find?_eq_some hf)
    simp [hin]

/-! The 33-bit sum of R78. -/

theorem carrySum_eq (sub : Bool) (a b : W64) (cin : Bool) :
    carrySum sub a b cin = (Claim.carryOf sub (lo32 a) (lo32 b) cin).toNat := by
  have ha := (lo32 a).isLt
  have hb := (lo32 b).isLt
  unfold carrySum Claim.carryOf
  cases sub <;> cases cin <;> simp [lo32] <;> omega

/-- The low 32 bits of the sum, and its carry, as v.addx writes them. -/
theorem lo32_ofNat_toNat (x : BitVec 33) : lo32 (BitVec.ofNat 64 x.toNat) = x.setWidth 32 := by
  rw [lo32_ofNat]
  rfl

theorem carry_eq_msb (x : BitVec 33) : decide (2 ^ 32 ≤ x.toNat) = x.msb := (BitVec.msb_eq_decide x).symm

/-- Lanes of a register and of a predicate written together, then the instruction retires. -/
theorem writeLanes_writePred_done {s t : State} {g e : Nat} (hs : s.hasAgent (.frag g e) = true) (x : FreeOf s t) (h : Hdr)
    (d p : Nat) (xs : List (Nat × W64)) (lanes val : Mask) (srcs : List Opnd) (busy : List (Nat × Nat)) (lat : Nat)
    {u : State} (hu : u = ((t.writeLanes (.frag g e) d false xs).writePred (.frag g e) p lanes val).finish (.frag g e) h
      srcs [d] busy lat) :
    (∀ l < 64, laneOf u g d l = written xs l (laneOf s g d l) lo32) ∧
      (p ≠ 15 → u.predOf (.frag g e) p = (s.predOf (.frag g e) p &&& ~~~lanes) ||| (val &&& lanes)) ∧
      OnlyRegs s u (.frag g e) [] [p] ([d] ++ lastReadRegs srcs) ∧ Advances s u (.frag g e) := by
  have hw := (x.step (.frag g e)).trans (writeLanes_step t g e d false xs)
  have hp := writePred_step (t.writeLanes (.frag g e) d false xs) (.frag g e) p lanes val
  have hn : NotLast (t.writeLanes (.frag g e) d false xs) g [d] := writeLanes_notLast t g e d false xs
  subst hu
  refine ⟨fun l hl => ?_, fun hp15 => ?_, finish_done (hw.trans hp) h srcs [d] busy lat⟩
  · rw [finish_lane h srcs [d] busy lat (by simp) (hn.step hp (by simp)) l,
      laneOf_step hp (by simp) (fun G hG => hn G hG d (by simp)) l,
      (writeLanes_lane t ((x.step (.frag g e)).place.hasAgent hs) d false xs l hl).1, x.laneOf]
  · rw [((finish_done (RegStep.refl _ (.frag g e)) h srcs [d] busy lat).1.1).pred p (by simp),
      writePred_predOf (hw.place.hasAgent hs) hp15, hw.leaves.pred p (by simp)]

/-- The 33-bit sum of lane l by R78: of sources A and B and the carry in from the predicate that C names. -/
def carrySumAt (s : State) (g e : Nat) (sub : Bool) (h : Hdr) (f : NForm) (l : Nat) : BitVec 33 :=
  Claim.carryOf sub (lo32 (Claim.src s g e (nSrcs h f false 2) f.aux 0 l))
    (lo32 (Claim.src s g e (nSrcs h f false 2) f.aux 1 l)) ((s.predOf (.frag g e) f.c.idx.toNat).getLsbD l)

/-- Where a lane takes part and D has room, the instruction writes D, then the predicate, and goes on. -/
theorem carryOp_run {s : State} {g e : Nat} {h : Hdr} {f : NForm} (sub : Bool) (hs : Claim.InLanes s g e h)
    (hr : RoomFor s g [f.d.idx.toNat]) :
    carryOp sub h f s = .next
      ((((readSrcs s (.frag g e) f.aux (nSrcs h f false 2)).2.writeLanes (.frag g e) f.d.idx.toNat false
        (eachLane (s.guardMask (.frag g e) h) fun l => BitVec.ofNat 64 (carrySumAt s g e sub h f l).toNat)).writePred
        (.frag g e) f.c.idx.toNat (s.guardMask (.frag g e) h)
        (lanesWhere (s.guardMask (.frag g e) h) fun l => (carrySumAt s g e sub h f l).msb)).finish (.frag g e) h
        (nSrcs h f false 2) [f.d.idx.toNat] [(0, f.d.idx.toNat), (2, f.c.idx.toNat)] 4) := by
  unfold carryOp
  rw [withAgent_run hs.1]
  simp only [if_neg hs.2, withRegs_room hs.1.2 hr, carrySum_eq, carry_eq_msb]
  rfl

/-- The 33-bit sum of R78 in every participating lane: its low half to D, its carry to the predicate that C names. -/
theorem carryOp_done {s : State} {g e : Nat} {h : Hdr} {f : NForm} (sub : Bool) (hs : Claim.InLanes s g e h)
    (hr : RoomFor s g [f.d.idx.toNat]) : ∃ t, carryOp sub h f s = .next t ∧
      (∀ l < 64, laneOf t g f.d.idx.toNat l =
        if (s.guardMask (.frag g e) h).getLsbD l then (carrySumAt s g e sub h f l).setWidth 32
        else laneOf s g f.d.idx.toNat l) ∧
      (f.c.idx.toNat < 15 → ∀ l < 64, (t.predOf (.frag g e) f.c.idx.toNat).getLsbD l =
        if (s.guardMask (.frag g e) h).getLsbD l then (carrySumAt s g e sub h f l).msb
        else (s.predOf (.frag g e) f.c.idx.toNat).getLsbD l) ∧
      (f.c.idx.toNat = 15 → s.predOf (.frag g e) 15 = BitVec.allOnes 64 ∧ t.predOf (.frag g e) 15 = BitVec.allOnes 64) ∧
      OnlyRegs s t (.frag g e) [] [f.c.idx.toNat] ([f.d.idx.toNat] ++ lastReadRegs (nSrcs h f false 2)) ∧
      Advances s t (.frag g e) := by
  refine ⟨_, carryOp_run sub hs hr, ?_⟩
  obtain ⟨hlane, hpred, honly, hadv⟩ := writeLanes_writePred_done hs.1.2
    (readSrcs_free (.frag g e) f.aux (nSrcs h f false 2) s) h f.d.idx.toNat f.c.idx.toNat _ _ _ _ _ 4 rfl
  obtain ⟨G, _, hG, _⟩ := hasAgent_group hs.1.2
  obtain ⟨H, hH, _⟩ := honly.1.grp g e G rfl hG
  refine ⟨fun l hl => ?_, fun hp l hl => ?_, fun _ => ⟨predOf_p15 hG, predOf_p15 hH⟩, honly, hadv⟩
  · rw [hlane l hl, written_eachLane, lo32_ofNat_toNat]
  · rw [hpred (by omega), getLsbD_merge _ _ _ hl, getLsbD_lanesWhere _ _ hl]
    cases (s.guardMask (.frag g e) h).getLsbD l <;> rfl

/-- Settles O8 (R78): v.addx and v.subx are the two cases of `carryOp_done`, and their rows accept only a predicate as
C. -/
theorem vectorCarry : Obligations.VectorCarry := by
  unfold Obligations.VectorCarry
  refine ⟨fun r hr h f s g e hs hroom => ?_, fun h f st hc => ?_⟩
  · simp only [List.mem_cons, List.not_mem_nil, or_false] at hr
    rcases hr with rfl | rfl
    · exact carryOp_done false hs hroom
    · exact carryOp_done true hs hroom
  · have hreg := srcCheck_of_reg (t := f.ty.is64) (x := f.c) (regCheck_P (st := st) hc)
    exact ⟨nCheck_of_c hreg, nCheck_of_c hreg⟩

end Sys2Proof.Machine
end

section
/-! PROOFS. v.rng (R107). -/
namespace Sys2Proof.Machine

/-! Steps that change the generator of R55 besides registers. -/

/-- An instruction that only goes on after a change keeps the change's frame. -/
theorem Leaves.trans_id {s t u : State} {a : Agent} {l1 l2 l3 : List Nat} {f : Group → Group} {k : KsCtx → KsCtx}
    (x : Leaves s t a l1 l2 l3 f k) (y : Leaves t u a [] [] [] id id) : Leaves s u a l1 l2 l3 f k := by
  refine ⟨y.rest.trans x.rest, fun g h => (y.grps g h).trans (x.grps g h), fun i h => (y.ctxs i h).trans (x.ctxs i h),
    fun i h => (y.scl i (by simp)).trans (x.scl i h), fun p h => (y.pred p (by simp)).trans (x.pred p h),
    fun g e G ha hG => ?_, fun i ha => (y.ctx i ha).trans (x.ctx i ha)⟩
  obtain ⟨H, hH, hrest, hreg, hlast⟩ := x.grp g e G ha hG
  obtain ⟨K, hK, krest, kreg, klast⟩ := y.grp g e H ha hH
  exact ⟨K, hK, krest.trans hrest,
    fun v hv hl => (kreg v (by simp) fun q => (hlast v q).elim hl hv).trans (hreg v hv hl),
    fun v q => hlast v ((klast v q).resolve_right (by simp))⟩

/-- Going on from a state at the same place is going on from the first. -/
theorem Advances.of_samePlace {s t u : State} {a : Agent} (x : SamePlace s t a) (h : Advances t u a) :
    Advances s u a := by
  cases a with
  | frag g e =>
    intro G F hG hF hr
    have hfrags := x.frags g e rfl
    rw [hG] at hfrags
    obtain ⟨H, hH, hHG⟩ := Option.map_eq_some_iff.1 hfrags
    exact h H F hH (hHG.trans hF) hr
  | ks k =>
    have hpc : (t.ksCtx k).pc = (s.ksCtx k).pc := x.pc
    exact ⟨hpc ▸ h.1, h.2⟩

/-- Equal rests have the same seed and counter. -/
theorem groupRest_generator {G H : Group} (h : groupRest H = groupRest G) : (H.seed, H.ctr) = (G.seed, G.ctr) := by
  have hgen := congrArg (fun G => (G.seed, G.ctr)) h
  exact hgen

theorem ctxRest_generator {c d : KsCtx} (h : ctxRest d = ctxRest c) : (d.seed, d.ctr) = (c.seed, c.ctr) := by
  have hgen := congrArg (fun c => (c.seed, c.ctr)) h
  exact hgen

/-- Seed and counter belong to what register instructions leave as it was. -/
theorem Leaves.seedOf_eq {s t : State} {a : Agent} {l1 l2 l3 : List Nat} (x : Leaves s t a l1 l2 l3 id id)
    (hs : s.hasAgent a = true) : seedOf t a = seedOf s a := by
  cases a with
  | frag g e =>
    obtain ⟨G, _, hG, _⟩ := hasAgent_group hs
    obtain ⟨H, hH, hrest, _⟩ := x.grp g e G rfl hG
    simp only [seedOf, hG, hH, Option.map_some, groupRest_generator hrest, id_eq]
  | ks k => exact ctxRest_generator (x.ctx k rfl)

/-! v.rng.seed. -/

theorem seedOf_setSeed {s : State} {a : Agent} (hs : s.hasAgent a = true) (S : W64) (C : W32) :
    seedOf (setSeed s a S C) a = (S, C) := by
  cases a with
  | frag g e =>
    obtain ⟨G, _, hG, _⟩ := hasAgent_group hs
    simp only [seedOf, setSeed, grp_modGrp, if_true, hG, Option.map_some, Option.getD_some]
  | ks k => simp only [seedOf, setSeed, ksCtx_modKs, if_true]

theorem setSeed_samePlace (s : State) (a : Agent) (S : W64) (C : W32) : SamePlace s (setSeed s a S C) a := by
  cases a with
  | frag g e => exact samePlace_modGrp s g e _ fun _ => rfl
  | ks k => exact samePlace_modKs s k (fun c => { c with seed := S, ctr := C }) rfl

theorem setSeed_queues (s : State) (a : Agent) (S : W64) (C : W32) : QueuesStay s (setSeed s a S C) := by
  cases a <;> exact QueuesStay.of_eq rfl rfl

theorem setSeed_leaves (s : State) (a : Agent) (S : W64) (C : W32) :
    Leaves s (setSeed s a S C) a [] [] [] (fun G => { G with seed := S, ctr := C })
      (fun c => { c with seed := S, ctr := C }) := by
  cases a with
  | frag g e =>
    have x := leaves_modGrp s g e (fun G => { G with seed := S, ctr := C }) [] [] [] _ (fun _ _ _ => rfl)
      (fun _ _ _ => rfl) (fun _ => rfl) (fun _ _ _ _ => rfl) (fun _ _ h => .inl h)
    exact { x with ctx := fun _ hk => nomatch hk }
  | ks k =>
    have x := leaves_modKs s k (fun c => { c with seed := S, ctr := C }) [] [] [] (fun c => { c with seed := S, ctr := C })
      (fun _ _ => rfl) (fun _ _ => rfl) rfl
    exact { x with grp := fun _ _ _ hg => nomatch hg }

/-- v.rng.seed sets the generator to its register sources and changes nothing else. -/
theorem vRngSeed_done {s : State} {a : Agent} {h : Hdr} (hs : Acts s a h) {f : NForm} (hfa : f.a.cls ≠ .spec)
    (hfb : f.b.cls ≠ .spec) : ∃ t, execVRngSeed h f s = .next t ∧
      seedOf t a = (Claim.pair s a f.a, Claim.reg s a f.b) ∧ Leaves s t a [] [] []
        (fun G => { G with seed := Claim.pair s a f.a, ctr := Claim.reg s a f.b })
        (fun c => { c with seed := Claim.pair s a f.a, ctr := Claim.reg s a f.b }) ∧ QueuesStay s t ∧ Advances s t a := by
  obtain ⟨hrun, hguard⟩ := hs
  have hexec : execVRngSeed h f s = .next ((setSeed s a (Claim.pair s a f.a) (Claim.reg s a f.b)).retire a h) := by
    unfold execVRngSeed
    rw [withAgent_run hrun, if_pos hguard, readScl_pair s a f.a hfa, readScl_reg s a f.b hfb, lo32_setWidth]
    rfl
  generalize Claim.pair s a f.a = S at hexec ⊢
  generalize Claim.reg s a f.b = C at hexec ⊢
  have hplace := setSeed_samePlace s a S C
  have hret := retire_leaves (setSeed s a S C) a h
  exact ⟨_, hexec, (hret.seedOf_eq (hplace.hasAgent hrun.2)).trans (seedOf_setSeed hrun.2 S C),
    (setSeed_leaves s a S C).trans_id hret, (setSeed_queues s a S C).trans (retire_queues _ a h),
    retire_advances h hplace⟩

/-! v.rng.gets and v.rng.getc. -/

theorem vRngGets_done {s : State} {a : Agent} {h : Hdr} (hs : Acts s a h) (f : NForm) :
    ∃ t, execVRngGets h f s = .next t ∧ SclDone s t a f.d.idx.toNat true (seedOf s a).1 := by
  unfold execVRngGets
  rw [withAgent_run hs.1]
  exact ⟨_, rfl, sclOp_done hs _ true 6 fun s => (seedOf s a).1⟩

theorem vRngGetc_done {s : State} {a : Agent} {h : Hdr} (hs : Acts s a h) (f : NForm) :
    ∃ t, execVRngGetc h f s = .next t ∧ SclDone s t a f.d.idx.toNat false ((seedOf s a).2.setWidth 64) := by
  unfold execVRngGetc
  rw [withAgent_run hs.1]
  exact ⟨_, rfl, sclOp_done hs _ false 6 fun s => (seedOf s a).2.setWidth 64⟩

/-! v.rng.draw. -/

/-- C of a fragment's group advances by 1 (R55). -/
theorem advanceCtr_frag (s : State) (g e : Nat) :
    advanceCtr s (.frag g e) true = s.modGrp g fun G => { G with ctr := G.ctr + 1#32 } := rfl

theorem advanceCtr_leaves (s : State) (g e : Nat) :
    Leaves s (advanceCtr s (.frag g e) true) (.frag g e) [] [] [] (fun G => { G with ctr := G.ctr + 1#32 }) id :=
  leaves_modGrp s g e _ [] [] [] _ (fun _ _ _ => rfl) (fun _ _ _ => rfl) (fun _ => rfl) (fun _ _ _ _ => rfl)
    (fun _ _ h => .inl h)

theorem advanceCtr_queues (s : State) (g e : Nat) : QueuesStay s (advanceCtr s (.frag g e) true) :=
  QueuesStay.of_eq rfl rfl

theorem advanceCtr_samePlace (s : State) (g e : Nat) : SamePlace s (advanceCtr s (.frag g e) true) (.frag g e) :=
  samePlace_modGrp s g e _ fun _ => rfl

@[simp] theorem laneOf_advanceCtr (s : State) (g e v l : Nat) :
    laneOf (advanceCtr s (.frag g e) true) g v l = laneOf s g v l := by
  unfold laneOf
  rw [advanceCtr_frag, grp_modGrp, if_pos rfl, Option.map_map]
  rfl

theorem NotLast.advanceCtr {s : State} {g : Nat} {vs : List Nat} (n : NotLast s g vs) (e : Nat) :
    NotLast (advanceCtr s (.frag g e) true) g vs := by
  intro H hH
  rw [advanceCtr_frag, grp_modGrp, if_pos rfl] at hH
  obtain ⟨G, hG, rfl⟩ := Option.map_eq_some_iff.1 hH
  exact n G hG

/-- The counter's advance acts on what `groupRest` keeps. -/
theorem RestFn.ctr_succ : RestFn fun G => { G with ctr := G.ctr + 1#32 } := fun _ _ h =>
  congrArg (fun G : Group => { G with ctr := G.ctr + 1#32 }) h

/-- Lanes of a register written and the counter advanced, then the instruction retires. -/
theorem writeLanes_advanceCtr_done {s : State} {g e : Nat} (hs : s.hasAgent (.frag g e) = true) (h : Hdr) (d : Nat)
    (xs : List (Nat × W64)) (busy : List (Nat × Nat)) (lat : Nat) {t : State}
    (ht : t = (advanceCtr (s.writeLanes (.frag g e) d false xs) (.frag g e) true).finish (.frag g e) h [] [d] busy lat) :
    (∀ l < 64, laneOf t g d l = written xs l (laneOf s g d l) lo32) ∧
      Leaves s t (.frag g e) [] [] [d] (fun G => { G with ctr := G.ctr + 1#32 }) id ∧ QueuesStay s t ∧
      Advances s t (.frag g e) := by
  have hw : RegStep s (s.writeLanes (.frag g e) d false xs) (.frag g e) [] [] [d] := writeLanes_step s g e d false xs
  have hn : NotLast (s.writeLanes (.frag g e) d false xs) g [d] := writeLanes_notLast s g e d false xs
  have hlane := fun l hl => (writeLanes_lane s hs d false xs l hl).1
  generalize s.writeLanes (.frag g e) d false xs = w at ht hw hn hlane
  obtain ⟨⟨hleaves, hqueues⟩, hadv⟩ := finish_done (RegStep.refl (advanceCtr w (.frag g e) true) (.frag g e)) h [] [d] busy lat
  subst ht
  refine ⟨fun l hl => ?_, (hw.leaves.trans (advanceCtr_leaves w g e) .ctr_succ .id).trans_id hleaves,
    (hw.queues.trans (advanceCtr_queues w g e)).trans hqueues,
    hadv.of_samePlace (hw.place.trans (advanceCtr_samePlace w g e))⟩
  rw [finish_lane h [] [d] busy lat (by simp) (hn.advanceCtr e) l, laneOf_advanceCtr, hlane l hl]

/-- The word of a lane is the high half of R107's mix. -/
theorem lo32_drawWord (S : W64) (C : W32) (l : Nat) : lo32 (drawWord S C l) =
    hi32 (Claim.mixed (S ^^^ (C.setWidth 64 <<< 32) ^^^ (BitVec.ofNat 64 l <<< 8) ^^^ 0xFF#64 ^^^ 0x9E3779B97F4A7C15#64)) :=
  rfl

/-- v.rng.draw writes each participating lane's word, advances the counter and changes nothing else. -/
theorem vRngDraw_done {s : State} {g e : Nat} {h : Hdr} (hs : Claim.InLanes s g e h) {f : NForm}
    (hr : RoomFor s g [f.d.idx.toNat]) : ∃ t, execVRngDraw h f s = .next t ∧
      (∀ l < 64, laneOf t g f.d.idx.toNat l =
        if (s.guardMask (.frag g e) h).getLsbD l then
          lo32 (drawWord (seedOf s (.frag g e)).1 (seedOf s (.frag g e)).2 l)
        else laneOf s g f.d.idx.toNat l) ∧
      Leaves s t (.frag g e) [] [] [f.d.idx.toNat] (fun G => { G with ctr := G.ctr + 1#32 }) id ∧ QueuesStay s t ∧
      Advances s t (.frag g e) := by
  obtain ⟨hrun, hpart⟩ := hs
  unfold execVRngDraw
  rw [withAgent_run hrun]
  simp only [if_neg hpart, withRegs_room hrun.2 hr]
  obtain ⟨hlane, hframe⟩ := writeLanes_advanceCtr_done hrun.2 h f.d.idx.toNat
    (eachLane (s.guardMask (.frag g e) h) fun l => drawWord (seedOf s (.frag g e)).1 (seedOf s (.frag g e)).2 l)
    [(0, f.d.idx.toNat)] 6 rfl
  exact ⟨_, rfl, fun l hl => (hlane l hl).trans (written_eachLane ..), hframe⟩

/-! The word of v.rng. -/

/-- The class and the minor of a word whose opcode is v.rng's. -/
theorem rng_opcode_fields {w : IWord} (hw : fieldNat w 86 10 = 0x107) : fieldNat w 92 4 = 4 ∧ fieldNat w 86 6 = 7 := by
  simp only [fieldNat, fieldAt, BitVec.extractLsb'_toNat, Nat.shiftRight_eq_div_pow] at hw ⊢
  omega

/-- Operands of an op that v.rng does not list are not judged: sub-cause 3 (R107). -/
theorem decode_rng_unlisted {w : IWord} (hw : fieldNat w 86 10 = 0x107) (hop : 4 ≤ fieldNat w 0 5) (sup : Bool) :
    decode .vector sup w = .bad 2 3 := by
  obtain ⟨hcls, hmin⟩ := rng_opcode_fields hw
  have hne : w ≠ 0#96 := by
    rintro rfl
    exact absurd hop (by decide)
  have hbuild : build w = some (.vRngSeed (hdrOf w) (nFormOf w)) := by
    simp only [build, build4, hcls, hmin]
    split
    · omega
    · omega
    · omega
    · rfl
  have hfaults : operandFaults .vector .n (.vRngSeed (hdrOf w) (nFormOf w)) w = [3] := by
    simp [operandFaults, formUnlisted, unlistedOperands, hcls, hmin, hop]
  have hformat : formatOf 4 7 = some .n := rfl
  have hopcode : (Instr.vRngSeed (hdrOf w) (nFormOf w)).opcode = 0x107 := rfl
  have hallows : Stream.vector.allows 0x107 = true := by decide
  have huser : supervisorOnly 0x107 = false := by decide
  simp [decode, hne, hcls, hmin, hbuild, hformat, hopcode, hallows, huser, hfaults, lowest]

/-- Settles O17 (R107): each form runs by its `_done` lemma, and a word
with another op value is refused by `decode_rng_unlisted` whatever its operands (the reading of log 7). -/
theorem generator : Obligations.Generator := by
  unfold Obligations.Generator
  refine ⟨fun h f s a hs hfa hfb => vRngSeed_done hs hfa hfb,
    fun h f s a hs => ⟨vRngGets_done hs f, vRngGetc_done hs f⟩, fun h f s g e hs hroom => ?_,
    fun w sup hw hop => decode_rng_unlisted hw hop sup⟩
  obtain ⟨t, hexec, hlane, hframe⟩ := vRngDraw_done hs hroom
  exact ⟨t, hexec, fun l hl => lo32_drawWord .. ▸ hlane l hl, hframe⟩

end Sys2Proof.Machine
end
